-- ==== Sys2Proof/Word.lean ====
section
/-! DEFINITION. The byte and word types that the Giholt 940's packets, records and registers are laid out in. -/

namespace Sys2Proof

/-- One byte of a packet, a record or memory. -/
abbrev Byte := BitVec 8

/-- A 64-bit register or signal value. -/
abbrev W64 := BitVec 64

/-- An FP32, INT32 or core-register pattern, held as the number its 32 bits spell. -/
abbrev Bits := Nat

end Sys2Proof
end

