-- ==== Sys2Proof/Syntax.lean ====
section
/-! DEFINITION. The commands the Giholt 940 takes: one constructor per row of spec/opcode_table.json, in the table's
order, with the operands the model gives it (LOG 2). A row is one whole and indivisible step of the part (95). -/

namespace Sys2Proof

/-- A PCIe function: the PF, or VF `n` (01, R20). -/
inductive Fn where
  | pf
  | vf (n : Nat)
  deriving DecidableEq, Repr

/-- How the host answers a device read of host memory (10, R262, R462). -/
inductive HostAns where
  | data | ep | unsupported | abort | timeout
  deriving DecidableEq, Repr

/-- Who issued a request on the fabric, in the classes of 07 R186. -/
inductive Endpoint where
  | core (col : Nat) | feeder (col : Nat) | operator (col : Nat) | dma (ch : Nat) | port (p : Nat) | porter (s : Nat)
  deriving DecidableEq, Repr

/-- A fabric flit (11, R266): the header's fields, the 64-byte payload, and what stands outside the header:
the requester, the router input it arrives at and the slice cycle of its arrival (07, R186). -/
structure Flit where
  lodging : Nat
  qclass : Nat
  poison : Bool
  layer : Nat
  oper : Nat
  op : Nat
  sect : Nat
  addr : Nat
  half : Nat
  credClass : Nat
  credNet : Nat
  credCount : Nat
  own : Bool
  tag : Nat
  payload : List Byte
  src : Endpoint
  input : Nat
  cycle : Nat
  deriving DecidableEq, Repr

/-- The three kinds of vertical channel (11, R273). -/
inductive LinkKind where
  | column | channel | footing
  deriving DecidableEq, Repr

/-- One lane of a vertical channel: `idx` is the global column, or 16s + port for a footing port. -/
structure Lane where
  link : LinkKind
  idx : Nat
  up : Bool
  lane : Nat
  deriving DecidableEq, Repr

/-- The kinds of atomic of 07, R185. -/
inductive AtomOp where
  | exchange | compareExchange | add | and | or | xor
  | smin | smax | umin | umax | fadd | fmin | fmax
  deriving DecidableEq, Repr

/-- The orderings an atomic carries (07, R179). -/
inductive MemOrder where
  | relaxed | acquire | release | acqRel
  deriving DecidableEq, Repr

/-- The scopes of 07, R171. -/
inductive Scope where
  | group | block | device | system
  deriving DecidableEq, Repr

/-- The three fence forms of 07, R177. -/
inductive FenceForm where
  | release | acquire | full
  deriving DecidableEq, Repr

/-- A memory operand of core code: `size` bytes at register pair (`areg`, `areg` + 1) plus `off`, in core scratch or in the
lodging's address space; `next` is the program counter after it. `late` issues it now and leaves its performance to a
later flit (07, R177). -/
structure CoreAcc where
  size : Nat
  areg : Nat
  off : Nat
  scratch : Bool
  next : Nat
  late : Bool
  /-- The instruction carries the spin hint (03, R62). -/
  spin : Bool
  ans : HostAns
  deriving DecidableEq, Repr

/-- A value that an instruction reads: a register, or what the core gives each thread (03, R80). -/
inductive CoreSrc where
  | reg (r : Nat)
  | blockX | blockY | blockZ | groupIndex | threadIndex | argsLo | argsHi
  deriving DecidableEq, Repr

/-- The path of an instruction fetch: the taken one, or one that a branch predictor chose, rightly or wrongly (03, R70, R72). -/
inductive FetchPath where
  | taken
  | predicted (wrong : Bool)
  deriving DecidableEq, Repr

/-- What an arithmetic instruction of core code does where it meets this volume (03, R66 to R72). -/
inductive CoreOp where
  | alu (code dst : Nat) (srcs : List CoreSrc) (next : Nat)
  | branch (code cond target next : Nat)
  | stochastic (fmt dst src seed entry m n next : Nat)
  | wrongPath
  | undefined
  deriving DecidableEq, Repr

/-- An error of an array's hardware in one pass: scale block `blk`, element (`m`, `n`), and the amount
`mant` × 2^`exp` added to the sum the array forms (04, R92). -/
structure PassErr where
  blk : Nat
  m : Nat
  n : Nat
  mant : Int
  exp : Int
  deriving DecidableEq, Repr

/-- An error of one pass of an attention unit: the array, the chunk and the number of the pass in its key block, and whether the error is
one of the recomputation (04, R95; 06, R140; LOG 140). -/
structure AttnErr where
  array : Nat
  chunk : Nat
  pass : Nat
  retry : Bool
  err : PassErr
  deriving DecidableEq, Repr

/-- The readings of one housekeeping round (16, R367). Temperatures are in 1/16 °C. `elems` gives the two elements of sensor k
(`none`: no conversion) where they differ from `dflt`; `hbm` the HBM4 reports, `hbmNone` the stacks with no valid report;
`power` the P_r of region 16s + r in mW. -/
structure Readings where
  dflt : Int
  elems : List (Nat × (Option Int × Option Int))
  hbm : List (Nat × Int)
  hbmNone : List Nat
  power : List (Nat × Nat)
  deriving DecidableEq, Repr

/-- The MSI-X control locations a host may write (02, R456). -/
inductive MsixWrite where
  | capability (enable functionMask : Bool)
  | entry (vector addr data : Nat) (masked : Bool)
  deriving DecidableEq, Repr

/-- One command of the block. -/
inductive Instr where
  -- galley commands: a porter fetches and checks the next packet of galley `g` of lodging `lod` (02)
  | nop (lod g : Nat)
  | gemm (lod g : Nat)
  | gemmGrouped (lod g : Nat) (ans : HostAns)
  | gemmMultiword (lod g : Nat)
  | gemmComplex (lod g : Nat)
  | elementwiseArray (lod g : Nat)
  | attentionFwd (lod g : Nat) (ans : HostAns)
  | attentionBwd (lod g : Nat) (ans : HostAns)
  | attentionDecode (lod g : Nat) (ans : HostAns)
  | kvAppend (lod g : Nat) (ans : HostAns)
  | kernelLaunch (lod g : Nat) (ans : HostAns)
  | copy (lod g : Nat)
  | fill (lod g : Nat)
  | copyRemote (lod g : Nat)
  | reducePush (lod g : Nat) (ans : HostAns)
  | epochFlush (lod g : Nat)
  | epochInvalidate (lod g : Nat)
  | signalWrite (lod g : Nat)
  | signalWait (lod g : Nat)
  | map (lod g : Nat) (ans : HostAns)
  | unmap (lod g : Nat)
  | digestRead (lod g : Nat)
  | traceMark (lod g : Nat)
  | badOpcode (lod g : Nat)
  | adminInGalley (lod g : Nat)
  | poisonedPacket (lod g k : Nat) (ans : HostAns)
  | commandCompletion (cmd : Nat)
  -- the VF window (02)
  | galleyDoorbell (vf off width value : Nat) (ep : Bool)
  | galleyEnable (vf g : Nat) (ans : HostAns) (ep : Bool)
  | galleyDisable (vf g : Nat) (ep : Bool)
  | galleyResume (vf g : Nat) (ep : Bool)
  | drainComplete (vf g : Nat)
  | gdtBaseWrite (vf value : Nat) (ep : Bool)
  | signalAreaWrite (vf off width value : Nat) (ep : Bool)
  | signalWaitTimeout (cmd : Nat)
  | mbxCmdWrite (fn : Fn) (off : Nat) (bytes : List Byte) (ep : Bool)
  | mbxOperationEnd (fn : Fn)
  -- admin operations in progress in function `fn`'s mailbox (18)
  | lodgingCreate (fn : Fn) (ans : HostAns)
  | lodgingDestroy (fn : Fn)
  | lodgingReset (fn : Fn)
  | fwUpdate (fn : Fn) (ans : HostAns) (readBackOk : Bool)
  | bistRun (fn : Fn) (failedCores : List Nat)
  | secureErase (fn : Fn)
  | contractSet (fn : Fn) (ans : HostAns)
  | telemetryRead (fn : Fn) (ans : HostAns)
  | rescueEnter (fn : Fn)
  | functionLevelReset (vf : Nat)
  -- cores (03, 07)
  | blockPlacement (cmd col : Nat)
  | instructionFetch (blk grp va : Nat) (path : FetchPath) (ans : HostAns)
  | arithmeticInstruction (blk grp : Nat) (op : CoreOp) (spin : Bool)
  | coreLoad (blk grp dst : Nat) (acc : CoreAcc)
  | coreStore (blk grp src : Nat) (acc : CoreAcc)
  | coreAtomic (blk grp dst src cmp : Nat) (op : AtomOp) (order : MemOrder) (scope : Scope) (acc : CoreAcc)
  | fence (blk grp : Nat) (form : FenceForm) (scope : Scope) (next : Nat) (spin : Bool)
  | barrier (blk grp creg next : Nat) (spin : Bool)
  | feederIssue (blk grp dreg next : Nat) (spin : Bool)
  | feederWait (blk grp counter value next : Nat) (spin : Bool)
  /-- Up to `pieces` further destination sectors of a transfer; with the last of them it completes (07, R173). -/
  | feederTransferComplete (blk idx pieces : Nat) (ans : HostAns)
  | threadExit (blk grp : Nat)
  | launchTimeout (cmd : Nat)
  -- matrix arrays and attention units (04, 06)
  | unitDispatch (cmd entry mb nb seg col : Nat)
  | arrayPass (col array : Nat) (errs : List PassErr) (ans : HostAns)
  | passRecompute (col array : Nat) (errs : List PassErr) (ans : HostAns)
  | unitEpilogue (cmd entry mb nb : Nat) (ans : HostAns)
  | segmentCombine (cmd entry mb nb : Nat)
  /-- `errs`: what the arrays add in error to their block sums in this key block (R140). -/
  | attentionKeyBlock (col : Nat) (errs : List AttnErr) (ans : HostAns)
  | splitMerge (cmd seq row head : Nat) (ans : HostAns)
  -- fabric flits (11)
  | read (f : Flit)
  | write (f : Flit)
  | writePartial (f : Flit)
  | atomic (f : Flit)
  | addToLine (f : Flit)
  | writeHome (f : Flit)
  | signal (f : Flit)
  | data (f : Flit)
  | ack (f : Flit)
  | result (f : Flit)
  | fault (f : Flit)
  | credit (f : Flit)
  | flitUnusedOp (f : Flit)
  | creditReturnTimer (input net cls : Nat)
  -- vertical lanes (11)
  | lineBurst (lane : Lane) (addr half tag cycle : Nat)
  | laneAck (lane : Lane) (tag : Nat)
  | laneNak (lane : Lane) (tag cycle : Nat)
  | pairingWindowExpiry (lane : Lane) (cycle : Nat)
  | laneReplayTimer (lane : Lane) (cycle : Nat)
  | laneSuspect (lane : Lane)
  | columnQuiesce (col : Nat)
  | quiesceHoldExpiry (col viasNeeded : Nat)
  -- HBM4 and Stonos maintenance (08, 10)
  | writebackAck (line : Nat)
  | hbmReadComplete (line sector : Nat) (errs : List (Nat × Nat))
  | laneMark (channel : Nat)
  | hbmScrubSector (sector : Nat) (errs : List (Nat × Nat))
  | stnScrubWord (col word flips : Nat) (bitmap : Bool)
  | reliefRequest (col : Nat)
  | reliefEndRequest (col : Nat)
  | reliefDrainEnd (col : Nat)
  -- die-to-die links and Cytil (11)
  | d2dLinkFail (link : Nat)
  | cytilTransfer (port : Nat) (hdr : List Byte) (body : List (List Byte)) (fecOk gcmOk : Bool)
  | cytilNak (port seq : Nat)
  | cytilIdle (port ackSeq : Nat) (credits : List Nat)
  | cytilReplayTimer (port : Nat)
  | cytilLaneFail (port lane : Nat) (peerHasSpare : Bool)
  | cytilPortUp (port : Nat) (peerEncrypt : Bool)
  | timeSync (port masterTime delay : Nat)
  | timeSyncPeriod
  | timeBaseAligned (masterTime : Nat)
  | cylDomainWrite (value masterTime : Nat)
  | cylRouteWrite (dev value : Nat)
  | cylPortCtrlWrite (port value : Nat)
  -- DMA channels (12)
  | dmaGo (stack ch : Nat)
  | dmaStop (stack ch : Nat)
  | dmaArmShadow (stack ch : Nat)
  | dmaRegWrite (stack ch off value : Nat)
  | dmaSwqAdj (stack q value : Nat)
  | dmaTimerFire (stack t : Nat)
  | dmaBurstStart (stack ch : Nat) (ans : HostAns)
  | dmaEndOfCount (stack ch : Nat)
  | dmaBurstTimeout (stack ch : Nat)
  | dmaRetryStart (stack ch : Nat)
  -- register writes of the PF (02 to 19)
  | ptrClassWeightWrite (stack reg value : Nat)
  | mxaProofTolWrite (stack value : Nat)
  | scrubPeriodWrite (stack : Nat) (hbm : Bool) (value : Nat)
  | stnFlipMaskWrite (stack reg value : Nat)
  | hbmFlipMaskWrite (stack value : Nat)
  | qosClassCfgWrite (reg value : Nat)
  | lodSliceWrite (value : Nat)
  | pwrLimitWrite (brake : Bool) (value : Nat)
  | thmReliefWrite (place : Bool) (value : Nat)
  | lampCtrlWrite (lamp value : Nat)
  | dbgLedgerSel (value : Nat)
  | inkPmcCfgWrite (i value : Nat)
  | dbgUnlockGo (value : Nat)
  | msixControlWrite (fn : Fn) (w : MsixWrite)
  | registerWrite (fn : Fn) (off width value : Nat) (ep : Bool)
  -- lodgings and regulation (13, 14)
  | turnEnd (cluster : Nat)
  | qosWindowBoundary
  | requestAgeRaise (req : Nat)
  | floorBreach (lod res cls : Nat)
  -- power (15)
  /-- One sample of the monitors; `riseAmps` is the rise in current that a raise of `FRAC` would cause (15, R353);
  `stackMilliamps` are the die currents of the domains of stacks 0 to 3 (R359). -/
  | powerLimiterUpdate (milliwatts vinMilliamps riseAmps : Nat) (stackMilliamps : List Nat)
  | brakeAssert
  | brakeRelease
  | idleGateExpiry (dom : Nat)
  | domainWake (dom : Nat)
  | rampComplete (dom : Nat)
  | regulatorOvercurrent (dom : Nat)
  | hiccupRetry (dom : Nat)
  | phaseFail (dom : Nat)
  | sensePathOpen (dom diffMillivolts : Nat)
  | crackedConnection (dom : Nat) (steps : List (Nat × Nat))
  -- thermal (16)
  | housekeepingRound (r : Readings)
  | thermNRelease
  | sensorBroken (region : Nat)
  | supervisorTrip
  -- spares and the Innkeeper (17, 18)
  | coreTakeover (col : Nat)
  | rowTakeover (col bank row : Nat)
  | bankTakeover (col bank : Nat)
  | hbmLaneRemap (channel : Nat) (spareLeft : Bool)
  | innkeeperFailover
  | failoverComplete
  | innkeeperCheckpoint
  | rescueEntry
  | supervisorHold
  | supervisorRelease
  | shedWindow (busyPermille : Nat)
  | telemetrySnapshot
  | antiRollbackFuse
  | repairLogWrite
  | pldmPlatformRequest (transport : Nat) (sensors : List Nat)
  | pldmFirmwareUpdate (transport : Nat) (image : List Byte) (readBackOk : Bool)
  | spdmRequest (transport kind : Nat) (nonce : List Nat)
  -- trace and counters (19)
  | traceHeaderUpdate (lod stack : Nat)
  | traceDropRecord (lod stack : Nat) (room : Bool)
  | pmcSample (i : Nat)
  -- PCIe (10, 20)
  | hostReadCompletion (txn : Nat) (ans : HostAns) (bytes : List Byte)
  | completionTimeout (txn : Nat)
  | configRequest (fn : Fn) (reg : Nat)
  -- board and start-up (20)
  | coldStart
  | sysRstAssert
  | startupStep (slotValid0 slotValid1 : Bool)
  | startFail (rail : Nat)
  | railFault (rail : Nat)
  | perstAssert
  | perstRelease
  | pcieLinkUp (rate width : Nat)
  | configReady
  | linkRefclkLoss
  | refclkLoss
  | xtalLoss
  | lampPeriod (lamp microamps : Nat)
  | lampOpen (lamp : Nat)
  | lampShort (lamp milliamps : Nat)
  | mbxDoorbell (fn : Fn) (ep : Bool)
  | ringSlotReadFault (lod g k : Nat) (unsupported : Bool)
  | d2dLinkReplay (link flit : Nat)
  | latencyBreachClose (lod : Nat)
  | hostAtomicCompletion (txn : Nat) (ans : HostAns) (old : Nat)
  | takeoverCompleted (stack : Nat) (ok : Bool)
  | refclkReturn
  | linkRefclkReturn
  deriving DecidableEq, Repr

end Sys2Proof
end

