-- ==== Sys2Proof/WellFormed.lean ====
section
/-! DEFINITION. Which commands are well formed: every operand within the range the spec gives the thing it names
(01, R12 and the size table; 02, R24; 11; 12; 15). The meanings do not rest on it: a command that names nothing changes nothing. -/

namespace Sys2Proof

/-- Lodgings 0 to 255, galleys 0 to 1,023 (02). -/
def galleyOk (lod g : Nat) : Bool := decide (lod < 256 ∧ g < 1024)

/-- VF n serves lodging n, 0 to 255 (01, R20). -/
def fnOk : Fn → Bool
  | .pf => true
  | .vf n => decide (n < 256)

/-- Global columns 0 to 255 (01, R12). -/
def colOk (col : Nat) : Bool := decide (col < 256)

/-- Stacks 0 to 3 (01). -/
def stackOk (s : Nat) : Bool := decide (s < 4)

/-- Power domains 0 to 49 (15). -/
def domOk (d : Nat) : Bool := decide (d < 50)

/-- Cytil ports 0 to 11 (11). -/
def portOk (p : Nat) : Bool := decide (p < 12)

/-- DMA channels 0 to 31 of a stack (12). -/
def dmaOk (stack ch : Nat) : Bool := decide (stack < 4 ∧ ch < 32)

/-- 32-bit register values. -/
def w32 (v : Nat) : Bool := decide (v < 2 ^ 32)

/-- The lanes of R273: four of a column link, two of a channel link, two of a footing port; 16 footing ports per stack. -/
def laneOk (l : Lane) : Bool :=
  match l.link with
  | .column => decide (l.idx < 256 ∧ l.lane < 4)
  | .channel => decide (l.idx < 256 ∧ l.lane < 2)
  | .footing => decide (l.idx < 64 ∧ l.lane < 2)

/-- The field widths of R266 and a payload of 64 bytes. -/
def flitOk (f : Flit) : Bool :=
  decide (f.lodging < 256 ∧ f.qclass < 8 ∧ f.layer < 2 ^ 16 ∧ f.oper < 2 ^ 16 ∧ f.op < 64 ∧ f.sect < 4 ∧ f.addr < 2 ^ 62
    ∧ f.half < 2 ∧ f.credClass < 8 ∧ f.credNet < 2 ∧ f.credCount < 8 ∧ f.tag < 1024 ∧ f.payload.length = 64)

/-- Accesses of 1, 2, 4, 8 or 16 bytes (07, R172). -/
def accOk (a : CoreAcc) : Bool := [1, 2, 4, 8, 16].contains a.size

/-- Unused flit operations (11, R266). -/
def unusedOp (op : Nat) : Bool := !([0, 1, 2, 3, 4, 5, 6, 7, 0x10, 0x11, 0x12, 0x13, 0x20, 0x21].contains op)

/-- Well-formed commands. -/
def Instr.wf : Instr → Bool
  | .nop l g => galleyOk l g
  | .gemm l g => galleyOk l g
  | .gemmGrouped l g _ => galleyOk l g
  | .gemmMultiword l g => galleyOk l g
  | .gemmComplex l g => galleyOk l g
  | .elementwiseArray l g => galleyOk l g
  | .attentionFwd l g _ => galleyOk l g
  | .attentionBwd l g _ => galleyOk l g
  | .attentionDecode l g _ => galleyOk l g
  | .kvAppend l g _ => galleyOk l g
  | .kernelLaunch l g _ => galleyOk l g
  | .copy l g => galleyOk l g
  | .fill l g => galleyOk l g
  | .copyRemote l g => galleyOk l g
  | .reducePush l g _ => galleyOk l g
  | .epochFlush l g => galleyOk l g
  | .epochInvalidate l g => galleyOk l g
  | .signalWrite l g => galleyOk l g
  | .signalWait l g => galleyOk l g
  | .map l g _ => galleyOk l g
  | .unmap l g => galleyOk l g
  | .digestRead l g => galleyOk l g
  | .traceMark l g => galleyOk l g
  | .badOpcode l g => galleyOk l g
  | .adminInGalley l g => galleyOk l g
  | .poisonedPacket l g k _ => galleyOk l g && decide (k ≤ 7)
  | .commandCompletion _ => true
  | .galleyDoorbell vf off _ _ _ => decide (vf < 256 ∧ off < 0x2000)
  | .galleyEnable vf g _ _ => galleyOk vf g
  | .galleyDisable vf g _ => galleyOk vf g
  | .galleyResume vf g _ => galleyOk vf g
  | .drainComplete vf g => galleyOk vf g
  | .gdtBaseWrite vf v _ => decide (vf < 256 ∧ v < 2 ^ 64)
  | .signalAreaWrite vf off _ v _ => decide (vf < 256 ∧ 0x8000 ≤ off ∧ off < 0x10000 ∧ v < 2 ^ 64)
  | .signalWaitTimeout _ => true
  | .mbxCmdWrite fn off b _ => fnOk fn && decide (0x2100 ≤ off ∧ off + b.length ≤ 0x2140)
  | .mbxOperationEnd fn => fnOk fn
  | .lodgingCreate fn _ => fnOk fn
  | .lodgingDestroy fn => fnOk fn
  | .lodgingReset fn => fnOk fn
  | .fwUpdate fn _ _ => fnOk fn
  | .bistRun fn cs => fnOk fn && cs.all (fun c => decide (c < 288))
  | .secureErase fn => fnOk fn
  | .contractSet fn _ => fnOk fn
  | .telemetryRead fn _ => fnOk fn
  | .rescueEnter fn => fnOk fn
  | .functionLevelReset vf => decide (vf < 256)
  | .blockPlacement _ col => colOk col
  | .instructionFetch _ _ va _ _ => decide (va < 2 ^ 57)
  | .arithmeticInstruction _ grp _ _ => decide (grp < 32)
  | .coreLoad _ grp _ a => decide (grp < 32) && accOk a
  | .coreStore _ grp _ a => decide (grp < 32) && accOk a
  | .coreAtomic _ grp _ _ _ _ _ _ a => decide (grp < 32) && accOk a
  | .fence _ grp _ _ _ _ => decide (grp < 32)
  | .barrier _ grp _ _ _ => decide (grp < 32)
  | .feederIssue _ grp _ _ _ => decide (grp < 32)
  | .feederWait _ grp k _ _ _ => decide (grp < 32 ∧ k < 16)
  | .feederTransferComplete _ _ _ _ => true
  | .threadExit _ grp => decide (grp < 32)
  | .launchTimeout _ => true
  | .unitDispatch _ _ _ _ _ col => colOk col
  | .arrayPass col a _ _ => colOk col && decide (a < 4)
  | .passRecompute col a _ _ => colOk col && decide (a < 4)
  | .unitEpilogue _ _ _ _ _ => true
  | .segmentCombine _ _ _ _ => true
  | .attentionKeyBlock col fs _ => colOk col && fs.all (fun x => decide (x.array < 4))
  | .splitMerge _ _ _ _ _ => true
  | .read f => flitOk f && f.op == 0x01
  | .write f => flitOk f && f.op == 0x02
  | .writePartial f => flitOk f && f.op == 0x03
  | .atomic f => flitOk f && f.op == 0x04
  | .addToLine f => flitOk f && f.op == 0x05
  | .writeHome f => flitOk f && f.op == 0x06
  | .signal f => flitOk f && f.op == 0x07
  | .data f => flitOk f && f.op == 0x10
  | .ack f => flitOk f && f.op == 0x11
  | .result f => flitOk f && f.op == 0x12
  | .fault f => flitOk f && f.op == 0x13
  | .credit f => flitOk f && f.op == 0x00
  | .flitUnusedOp f => flitOk f && unusedOp f.op
  | .creditReturnTimer _ net cls => decide (net < 2 ∧ cls < 8)
  | .lineBurst l _ half tag _ => laneOk l && decide (half < 2 ∧ tag < 1024)
  | .laneAck l tag => laneOk l && decide (tag < 1024)
  | .laneNak l tag _ => laneOk l && decide (tag < 1024)
  | .pairingWindowExpiry l _ => laneOk l
  | .laneReplayTimer l _ => laneOk l
  | .laneSuspect l => laneOk l
  | .columnQuiesce col => colOk col
  | .quiesceHoldExpiry col _ => colOk col
  | .writebackAck line => decide (line < 2 ^ 32)
  | .hbmReadComplete line sec _ => decide (line < 2 ^ 32 ∧ sec < 4)
  | .laneMark ch => colOk ch
  | .hbmScrubSector sec _ => decide (sec < 2 ^ 34)
  | .stnScrubWord col _ _ _ => colOk col
  | .reliefRequest col => colOk col
  | .reliefEndRequest col => colOk col
  | .reliefDrainEnd col => colOk col
  | .d2dLinkFail link => decide (link < 8)
  | .cytilTransfer p hdr _ _ _ => portOk p && decide (hdr.length = 256)
  | .cytilNak p seq => portOk p && decide (seq < 4096)
  | .cytilIdle p a cr => portOk p && decide (a < 4096 ∧ cr.length = 4)
  | .cytilReplayTimer p => portOk p
  | .cytilLaneFail p lane _ => portOk p && decide (lane < 9)
  | .cytilPortUp p _ => portOk p
  | .timeSync p t _ => portOk p && decide (t < 2 ^ 48)
  | .timeSyncPeriod => true
  | .timeBaseAligned t => decide (t < 2 ^ 48)
  | .cylDomainWrite v t => w32 v && decide (t < 2 ^ 48)
  | .cylRouteWrite d v => decide (d < 1024) && w32 v
  | .cylPortCtrlWrite p v => portOk p && w32 v
  | .dmaGo s ch => dmaOk s ch
  | .dmaStop s ch => dmaOk s ch
  | .dmaArmShadow s ch => dmaOk s ch
  | .dmaRegWrite s ch off v => dmaOk s ch && decide (off < 0x100 ∧ v < 2 ^ 64)
  | .dmaSwqAdj s q v => stackOk s && decide (q < 8) && w32 v
  | .dmaTimerFire s t => stackOk s && decide (t < 16)
  | .dmaBurstStart s ch _ => dmaOk s ch
  | .dmaEndOfCount s ch => dmaOk s ch
  | .dmaBurstTimeout s ch => dmaOk s ch
  | .dmaRetryStart s ch => dmaOk s ch
  | .ptrClassWeightWrite s r v => stackOk s && decide (r < 2) && w32 v
  | .mxaProofTolWrite s v => stackOk s && w32 v
  | .scrubPeriodWrite s _ v => stackOk s && w32 v
  | .stnFlipMaskWrite s r v => stackOk s && decide (r < 3) && w32 v
  | .hbmFlipMaskWrite s v => stackOk s && w32 v
  | .qosClassCfgWrite _ v => w32 v
  | .lodSliceWrite v => w32 v
  | .pwrLimitWrite _ v => w32 v
  | .thmReliefWrite _ v => w32 v
  | .lampCtrlWrite l v => decide (l < 4) && w32 v
  | .dbgLedgerSel v => w32 v
  | .inkPmcCfgWrite i v => decide (i < 2048 ∧ v < 2 ^ 64)
  | .dbgUnlockGo v => w32 v
  | .msixControlWrite fn _ => fnOk fn
  | .registerWrite fn _ w v _ => fnOk fn && [1, 2, 4, 8].contains w && decide (v < 2 ^ (8 * w))
  | .turnEnd c => decide (c < 32)
  | .qosWindowBoundary => true
  | .requestAgeRaise _ => true
  | .floorBreach l _ c => decide (l < 256 ∧ c < 8)
  | .powerLimiterUpdate _ _ _ dies => dies.length == 4
  | .brakeAssert => true
  | .brakeRelease => true
  | .idleGateExpiry d => domOk d
  | .domainWake d => domOk d
  | .rampComplete d => domOk d
  | .regulatorOvercurrent d => domOk d
  | .hiccupRetry d => domOk d
  | .phaseFail d => domOk d
  | .sensePathOpen d _ => domOk d
  | .crackedConnection d _ => domOk d
  | .housekeepingRound _ => true
  | .thermNRelease => true
  | .sensorBroken r => decide (r < 160)
  | .supervisorTrip => true
  | .coreTakeover col => colOk col
  | .rowTakeover col b r => colOk col && decide (b < 17 ∧ r < 2048)
  | .bankTakeover col b => colOk col && decide (b < 16)
  | .hbmLaneRemap ch _ => colOk ch
  | .innkeeperFailover => true
  | .failoverComplete => true
  | .innkeeperCheckpoint => true
  | .rescueEntry => true
  | .supervisorHold => true
  | .supervisorRelease => true
  | .shedWindow b => decide (b ≤ 1000)
  | .telemetrySnapshot => true
  | .antiRollbackFuse => true
  | .repairLogWrite => true
  | .pldmPlatformRequest t _ => decide (t < 2)
  | .pldmFirmwareUpdate t _ _ => decide (t < 2)
  | .spdmRequest t _ _ => decide (t < 2)
  | .traceHeaderUpdate l s => decide (l < 256) && stackOk s
  | .traceDropRecord l s _ => decide (l < 256) && stackOk s
  | .pmcSample i => decide (i < 2048)
  | .hostReadCompletion _ _ _ => true
  | .completionTimeout _ => true
  | .configRequest fn r => fnOk fn && decide (r < 1024)
  | .coldStart => true
  | .sysRstAssert => true
  | .startupStep _ _ => true
  | .startFail _ => true
  | .railFault _ => true
  | .perstAssert => true
  | .perstRelease => true
  | .pcieLinkUp _ _ => true
  | .configReady => true
  | .linkRefclkLoss => true
  | .refclkLoss => true
  | .xtalLoss => true
  | .lampPeriod l _ => decide (l < 4)
  | .lampOpen l => decide (l < 4)
  | .lampShort l _ => decide (l < 4)
  | .mbxDoorbell fn _ => fnOk fn
  | .ringSlotReadFault l g k _ => galleyOk l g && decide (k ≤ 7)
  | .d2dLinkReplay link _ => decide (link < 8)
  | .latencyBreachClose l => decide (l < 256)
  | .hostAtomicCompletion _ _ _ => true
  | .takeoverCompleted s _ => stackOk s
  | .refclkReturn => true
  | .linkRefclkReturn => true

end Sys2Proof
end

