-- ==== Sys2Proof/Config.lean ====
section
/-! DEFINITION. What the spec leaves to the part or does not state: constants with no body, so that nothing
proved of the model rests on a value of them. Each names its assumption-log entry. -/

namespace Sys2Proof.Config

/-- Fused at test, differs from part to part: `DEV_CAPS.STEPPING` (01, R19). LOG 10. -/
opaque stepping : BitVec 8

/-- Fused at test: cluster `d` (domain number) is binned at 1,575 MHz instead of 1,600 (01, R17). LOG 10. -/
opaque binned : Nat → Bool

/-- The board configuration's subsystem vendor and subsystem ids (01, R20). LOG 10. -/
opaque subsystemIds : Nat × Nat

/-- The cluster's fused voltage-frequency table (15, R346): steps of 5 mV above 550 mV, by domain and clock in MHz. LOG 10. -/
opaque voltageStep : Nat → Nat → Nat

/-- The fused thermal resistance of Stonos region `r` of the package, in milli-degrees per watt (16, R369). LOG 10. -/
opaque thetaMilli : Nat → Nat

/-- The fused impedance of domain `d`, in micro-ohm (15, R358). LOG 10. -/
opaque impedance : Nat → Nat

/-- Where a lamp's blinking period begins on the device time base (20, R445). LOG 10. -/
opaque blinkPhase : Nat

/-- The device serial number (18, R408). LOG 10. -/
opaque serial : Nat

/-- GELU by the part's fixed polynomial (04, R104), on finite FP32 bits. LOG 11. -/
opaque gelu : Nat → Nat

/-- SiLU by the part's fixed polynomial (04, R104), on finite FP32 bits. LOG 11. -/
opaque silu : Nat → Nat

/-- The streaming attention unit's exp2 (06, R145), on finite FP32 bits. LOG 11. -/
opaque exp2 : Nat → Nat

/-- The streaming attention unit's log2 (06, R145), on positive FP32 bits, in units of 2^−40. LOG 11, LOG 138. -/
opaque log2 : Nat → Int

/-- cos of p × base^(−2i/rot) as FP32 bits: arguments p, `ROPE_BASE`, i, `ROT_DIM` (06, R144). LOG 11. -/
opaque ropeCos : Nat → Nat → Nat → Nat → Nat

/-- sin of the same angle (06, R144). LOG 11. -/
opaque ropeSin : Nat → Nat → Nat → Nat → Nat

/-- The result of a core arithmetic instruction: the Giholt core instruction reference defines it, this spec does not
(03; 00, R2). Arguments: the instruction's code and its source register values. LOG 12. -/
opaque alu : Nat → List Nat → Nat

/-- The register that a core load of 1 or 2 bytes writes, by size and value read (the same reference). LOG 12. -/
opaque extend : Nat → Nat → Nat

/-- Whether a core branch is taken on a condition value (the same reference). LOG 12. -/
opaque taken : Nat → Nat → Bool

/-- A byte that the spec leaves open, by a counter of the state and a place. LOG 13. -/
opaque freeByte : Nat → Nat → BitVec 8

/-- The bytes read when ciphertext is decrypted under another key than it was written with, or when a
miscorrected symbol is decrypted (10, R246, R263): arguments the sector and a tag of what was stored. LOG 14. -/
opaque garbled : Nat → Nat → Nat → BitVec 8

/-- Output of the Quoin security block's random bit generator (18, R407, R408), by draw and byte. LOG 15. -/
opaque randomByte : Nat → Nat → BitVec 8

/-- Whether an ECDSA P-384 signature over the SHA-384 of a message verifies under a fused debug key (18, R408). LOG 16. -/
opaque debugSignatureOk : List (BitVec 8) → List (BitVec 8) → Bool

/-- Whether the SHA-384 of an image's key matches an unrevoked fused key hash (18, R403). LOG 16. -/
opaque imageKeyOk : List (BitVec 8) → Bool

/-- Whether the signature over the image header's bytes 0 to 191 verifies (18, R403). LOG 16. -/
opaque imageSignatureOk : List (BitVec 8) → Bool

/-- SHA-384 of a byte string, 48 bytes (18, R403). LOG 16. -/
opaque sha384 : List (BitVec 8) → List (BitVec 8)

/-- The reply of the device to a PLDM or SPDM message beyond the fields this spec gives (18, R406). LOG 17. -/
opaque mctpReply : Nat → List Nat → List Nat

/-- Three or more flipped bits in one Stonos word (the spec states one and two): whether the word is delivered as if
corrected (08, R197; 10, R249). LOG 18. -/
opaque multiFlipCorrected : Nat → Nat → Bool

/-- Which words of the PF's space the debug and test register supplement opens at an unlock level (00, R2, R3): level, offset. LOG 125. -/
opaque suppOpens : Nat → Nat → Bool

/-- What a word of the supplement reads: unlock level, offset, what it holds. LOG 125. -/
opaque suppRead : Nat → Nat → Nat → Nat

/-- What a write makes of a word of the supplement: unlock level, offset, what it holds, value and byte mask of the write. LOG 125. -/
opaque suppWrite : Nat → Nat → Nat → Nat → Nat → Nat

/-- Which dword of configuration space, counted from 16, holds the MSI-X capability (02, R456). LOG 120. -/
opaque msixCap : Nat

/-- The alignment, as a power of two, that the `STRIDE` of a mask descriptor must have (06, R160 names it and gives none). LOG 139. -/
opaque maskStrideLog : Nat

end Sys2Proof.Config
end

