-- ==== Sys2Proof/Machine/Float.lean ====
section
/-! DEFINITION. The number formats, the roundings and the exact sums of 05: every array, epilogue, streaming attention
unit and reduction of the model computes with these operations. -/

namespace Sys2Proof.Machine

/-! ### Formats (05, R115, R116) -/

/-- How a format codes infinities and NaN. -/
inductive Specials where
  | ieee | nanOnly | noSpecials
  deriving DecidableEq, Repr

/-- A floating-point format: mantissa bits, exponent bits, bias. -/
structure Fmt where
  mb : Nat
  eb : Nat
  bias : Nat
  sp : Specials
  deriving DecidableEq, Repr

/-- Row FP32 of R115. -/
def Fmt.fp32 : Fmt := { mb := 23, eb := 8, bias := 127, sp := .ieee }
/-- Row BF16 of R115. -/
def Fmt.bf16 : Fmt := { mb := 7, eb := 8, bias := 127, sp := .ieee }
/-- Row FP16 of R115. -/
def Fmt.fp16 : Fmt := { mb := 10, eb := 5, bias := 15, sp := .ieee }
/-- Row FP8 E4M3 of R115. -/
def Fmt.e4m3 : Fmt := { mb := 3, eb := 4, bias := 7, sp := .nanOnly }
/-- Row FP8 E5M2 of R115. -/
def Fmt.e5m2 : Fmt := { mb := 2, eb := 5, bias := 15, sp := .ieee }
/-- Row MXFP6 E3M2 of R115. -/
def Fmt.e3m2 : Fmt := { mb := 2, eb := 3, bias := 3, sp := .noSpecials }
/-- Row MXFP6 E2M3 of R115. -/
def Fmt.e2m3 : Fmt := { mb := 3, eb := 2, bias := 1, sp := .noSpecials }
/-- Row MXFP4 E2M1 of R115. -/
def Fmt.e2m1 : Fmt := { mb := 1, eb := 2, bias := 1, sp := .noSpecials }

/-- The exponent field and mantissa of the largest finite value, as one number. -/
def Fmt.maxCode (f : Fmt) : Nat :=
  match f.sp with
  | .ieee => (2 ^ f.eb - 1) * 2 ^ f.mb - 1
  | .nanOnly => 2 ^ (f.eb + f.mb) - 2
  | .noSpecials => 2 ^ (f.eb + f.mb) - 1

/-- The place of the sign bit. -/
def Fmt.signBit (f : Fmt) : Nat := 2 ^ (f.eb + f.mb)

/-- The canonical NaN (05, R118); formats without NaN have none, and 0 stands here. -/
def Fmt.nanCode (f : Fmt) : Nat :=
  match f.sp with
  | .ieee => (2 ^ f.eb - 1) * 2 ^ f.mb + 2 ^ (f.mb - 1)
  | .nanOnly => 2 ^ (f.eb + f.mb) - 1
  | .noSpecials => 0

/-- The code of infinity without its sign. -/
def Fmt.infCode (f : Fmt) : Nat := (2 ^ f.eb - 1) * 2 ^ f.mb

/-! ### Exact values -/

/-- A value of a format: NaN, an infinity, or ± `m` × 2^`e`. -/
inductive Val where
  | nan
  | inf (neg : Bool)
  | fin (neg : Bool) (m : Nat) (e : Int)
  deriving DecidableEq, Repr

/-- An exact sum of products: `m` × 2^`e`. -/
structure Dy where
  m : Int
  e : Int
  deriving DecidableEq, Repr

/-- Exact zero. -/
def Dy.zero : Dy := { m := 0, e := 0 }

/-- Exact addition. -/
def Dy.add (a b : Dy) : Dy :=
  if a.m = 0 then b
  else if b.m = 0 then a
  else
    let e := min a.e b.e
    { m := a.m * 2 ^ (a.e - e).toNat + b.m * 2 ^ (b.e - e).toNat, e := e }

/-- Exact multiplication. -/
def Dy.mul (a b : Dy) : Dy := { m := a.m * b.m, e := a.e + b.e }

/-- The exact value of a finite `Val`; 0 for the others. -/
def Val.dy : Val → Dy
  | .fin neg m e => { m := if neg then -(m : Int) else m, e := e }
  | _ => Dy.zero

/-- ⌊log2 of a positive magnitude `m` × 2^`e`⌋. -/
def log2Floor (m : Nat) (e : Int) : Int := (Nat.log2 m : Int) + e

/-- The value of a stored element (R115). -/
def decodeFmt (f : Fmt) (code : Nat) : Val :=
  let neg := decide (code / f.signBit % 2 = 1)
  let mag := code % f.signBit
  let ef := mag / 2 ^ f.mb
  let mf := mag % 2 ^ f.mb
  if mag > f.maxCode then
    if f.sp = .ieee ∧ mf = 0 then .inf neg else .nan
  else if ef = 0 then .fin neg mf (1 - (f.bias : Int) - f.mb)
  else .fin neg (2 ^ f.mb + mf) ((ef : Int) - f.bias - f.mb)

/-- The two's complement value of `bits` bits. -/
def signedOf (bits w : Nat) : Int :=
  let v := w % 2 ^ bits
  if 2 * v < 2 ^ bits then v else (v : Int) - 2 ^ bits

/-- An exact integer × 2^`e` as a value (INT8, INT4, MXINT8: R116). -/
def Val.ofInt (k : Int) (e : Int) : Val := .fin (decide (k < 0)) k.natAbs e

/-- The E8M0 block scale: `none` is NaN (R116). -/
def e8m0 (b : Nat) : Option Int := if b = 255 then none else some ((b : Int) - 127)

/-! ### Rounding (05, R117, R126, R128) -/

/-- `m` × 2^`k` for a possibly negative k, rounded to the nearest integer with ties to even. -/
def rneShift (m : Nat) (k : Int) : Nat :=
  if 0 ≤ k then m * 2 ^ k.toNat
  else
    let d := 2 ^ (-k).toNat
    let q := m / d
    let r := m % d
    if 2 * r < d then q else if 2 * r > d then q + 1 else q + q % 2

/-- The exponent of one unit in the last place of `f` at a positive magnitude, with the subnormal spacing below the
smallest normal (R117, R128). -/
def Fmt.ulpExp (f : Fmt) (m : Nat) (e : Int) : Int :=
  max (log2Floor m e) (1 - (f.bias : Int)) - f.mb

/-- The magnitude code of `q` units of 2^`u`: the codes of a format stand in the order of their values, and the code of a
value beyond the largest finite continues that order. -/
def Fmt.codeOf (f : Fmt) (q : Nat) (u : Int) : Nat :=
  (u - (1 - (f.bias : Int) - f.mb)).toNat * 2 ^ f.mb + q

/-- Round-to-nearest-even of a magnitude to a magnitude code, as though the exponent range were unbounded above. -/
def Fmt.rneCode (f : Fmt) (m : Nat) (e : Int) : Nat :=
  if m = 0 then 0
  else
    let u := f.ulpExp m e
    f.codeOf (rneShift m (e - u)) u

/-- Stochastic rounding of a magnitude with a 32-bit draw (R128). -/
def Fmt.stochCode (f : Fmt) (draw m : Nat) (e : Int) : Nat :=
  if m = 0 then 0
  else
    let u := f.ulpExp m e
    let k := e - u
    let q := if 0 ≤ k then m * 2 ^ k.toNat else m / 2 ^ (-k).toNat
    let r := if 0 ≤ k then 0 else m % 2 ^ (-k).toNat
    let f32 := r * 2 ^ 32 / 2 ^ (-k).toNat
    f.codeOf (if f32 + draw ≥ 2 ^ 32 then q + 1 else q) u

/-- Sign and magnitude code together. -/
def Fmt.pack (f : Fmt) (neg : Bool) (mag : Nat) : Nat := (if neg then f.signBit else 0) + mag

/-- A rounded magnitude placed where overflow gives an infinity: the FP32 results of sums (R119, R120). -/
def Fmt.placeInf (f : Fmt) (neg : Bool) (mag : Nat) : Nat :=
  f.pack neg (if mag > f.maxCode then f.infCode else mag)

/-- An exact value rounded once to FP32, to nearest even; an exact zero is +0 (R119, R120, R122). -/
def roundF32 (d : Dy) : Bits :=
  if d.m = 0 then 0 else Fmt.fp32.placeInf (decide (d.m < 0)) (Fmt.fp32.rneCode d.m.natAbs d.e)

/-- The canonical FP32 NaN (R118). -/
def nanF32 : Bits := 0x7FC00000
/-- The FP32 infinities. -/
def infF32 (neg : Bool) : Bits := if neg then 0xFF800000 else 0x7F800000
/-- The FP32 zeros. -/
def zeroF32 (neg : Bool) : Bits := if neg then 0x80000000 else 0

/-- The value of an FP32 pattern. -/
def f32 (b : Bits) : Val := decodeFmt .fp32 b

/-- FP32 bits of a value by round-to-nearest-even, keeping the sign of zero. -/
def Val.toF32 : Val → Bits
  | .nan => nanF32
  | .inf neg => infF32 neg
  | .fin neg m e => Fmt.fp32.placeInf neg (Fmt.fp32.rneCode m e)

/-- The result of a conversion and whether R126's table marks it "saturated". -/
structure Conv where
  code : Nat
  sat : Bool
  deriving DecidableEq, Repr

/-- Placement of a rounded finite magnitude (R126). -/
def Fmt.place (f : Fmt) (neg : Bool) (mag : Nat) : Conv :=
  if mag > f.maxCode then { code := f.pack neg f.maxCode, sat := true } else { code := f.pack neg mag, sat := false }

/-- Placement of an infinity (R126): E4M3 saturates. -/
def Fmt.placeInfinity (f : Fmt) (neg : Bool) : Conv :=
  if f.sp = .ieee then { code := f.pack neg f.infCode, sat := false }
  else { code := f.pack neg f.maxCode, sat := true }

/-- Conversion from FP32 by round-to-nearest-even (R126). -/
def convert (f : Fmt) (b : Bits) : Conv :=
  match f32 b with
  | .nan => { code := f.nanCode, sat := false }
  | .inf neg => f.placeInfinity neg
  | .fin neg m e => f.place neg (f.rneCode m e)

/-- Conversion from FP32 by stochastic rounding (R128). -/
def convertStoch (f : Fmt) (draw : Nat) (b : Bits) : Conv :=
  match f32 b with
  | .nan => { code := f.nanCode, sat := false }
  | .inf neg => f.placeInfinity neg
  | .fin neg m e => f.place neg (f.stochCode draw m e)

/-- The conversions of a reduction to BF16: a finite value beyond the largest finite is ±infinity (R127). -/
def toBf16Reduction (b : Bits) : Nat :=
  match f32 b with
  | .nan => Fmt.bf16.nanCode
  | .inf neg => Fmt.bf16.pack neg Fmt.bf16.infCode
  | .fin neg m e => Fmt.bf16.placeInf neg (Fmt.bf16.rneCode m e)

/-- `mix` of R129. -/
def mix (z : Nat) : Nat :=
  let z := (z + 0x9E3779B97F4A7C15) % 2 ^ 64
  let z := ((z ^^^ (z >>> 30)) * 0xBF58476D1CE4E5B9) % 2 ^ 64
  let z := ((z ^^^ (z >>> 27)) * 0x94D049BB133111EB) % 2 ^ 64
  z ^^^ (z >>> 31)

/-- The 32-bit draw of an element (R129). -/
def draw (seed domain part entry m n : Nat) : Nat :=
  let key := ((seed <<< 32) ||| (domain <<< 8) ||| part) % 2 ^ 64
  let ctr := ((entry <<< 48) ||| (m <<< 24) ||| n) % 2 ^ 64
  mix (ctr ^^^ mix key) >>> 32

/-! ### FP32 arithmetic (IEEE 754, round-to-nearest-even; NaN canonical, R118) -/

/-- FP32 addition (R122, R135). -/
def fadd (a b : Bits) : Bits :=
  match f32 a, f32 b with
  | .nan, _ => nanF32
  | _, .nan => nanF32
  | .inf s, .inf t => if s = t then infF32 s else nanF32
  | .inf s, _ => infF32 s
  | _, .inf t => infF32 t
  | .fin s m e, .fin t n g =>
    if m = 0 ∧ n = 0 then zeroF32 (s && t)
    else roundF32 ((Val.fin s m e).dy.add (Val.fin t n g).dy)

/-- FP32 sign flip. -/
def fneg (a : Bits) : Bits := a ^^^ 0x80000000

/-- FP32 subtraction. -/
def fsub (a b : Bits) : Bits := fadd a (fneg b)

/-- The product of two values as IEEE 754 and R125 give it, exact when finite. -/
def Val.mul : Val → Val → Val
  | .nan, _ => .nan
  | _, .nan => .nan
  | .inf s, .inf t => .inf (s ^^ t)
  | .inf s, .fin t n _ => if n = 0 then .nan else .inf (s ^^ t)
  | .fin s m _, .inf t => if m = 0 then .nan else .inf (s ^^ t)
  | .fin s m e, .fin t n g => .fin (s ^^ t) (m * n) (e + g)

/-- FP32 multiplication. -/
def fmul (a b : Bits) : Bits := ((f32 a).mul (f32 b)).toF32

/-- FP32 division, correctly rounded. -/
def fdiv (a b : Bits) : Bits :=
  match f32 a, f32 b with
  | .nan, _ => nanF32
  | _, .nan => nanF32
  | .inf _, .inf _ => nanF32
  | .inf s, .fin t _ _ => infF32 (s ^^ t)
  | .fin s _ _, .inf t => zeroF32 (s ^^ t)
  | .fin s m e, .fin t n g =>
    if n = 0 then (if m = 0 then nanF32 else infF32 (s ^^ t))
    else if m = 0 then zeroF32 (s ^^ t)
    else
      -- 64 quotient bits beyond n's own and a sticky bit decide every rounding to 24 bits or fewer
      let sh := 64 + Nat.log2 n
      let q := m * 2 ^ sh / n
      let r := m * 2 ^ sh % n
      let k := 2 * q + (if r = 0 then 0 else 1)
      Fmt.fp32.placeInf (s ^^ t) (Fmt.fp32.rneCode k (e - g - sh - 1))

/-- Order of two finite values. -/
def Dy.lt (a b : Dy) : Bool := decide ((a.add { m := -b.m, e := b.e }).m < 0)

/-- Absolute value of an exact number. -/
def Dy.abs (d : Dy) : Dy := { m := (d.m.natAbs : Int), e := d.e }

/-- a ≤ b of exact numbers. -/
def Dy.le (a b : Dy) : Bool := !(b.lt a)

/-- Exact difference. -/
def Dy.sub (a b : Dy) : Dy := a.add { m := -b.m, e := b.e }

/-- a < b on FP32 patterns, false when either is NaN; −0 is not below +0 here. -/
def flt (a b : Bits) : Bool :=
  match f32 a, f32 b with
  | .nan, _ => false
  | _, .nan => false
  | .inf s, .inf t => s && !t
  | .inf s, .fin _ _ _ => s
  | .fin _ _ _, .inf t => !t
  | .fin s m e, .fin t n g => (Val.fin s m e).dy.lt (Val.fin t n g).dy

/-- Whether an FP32 pattern is NaN. -/
def isNaN (a : Bits) : Bool := f32 a == .nan

/-- Whether an FP32 pattern is a zero of either sign. -/
def isZero (a : Bits) : Bool := a % 2 ^ 31 == 0

/-- IEEE 754-2019 minimum: NaN if either is, −0 below +0 (R135). -/
def fmin (a b : Bits) : Bits :=
  if isNaN a || isNaN b then nanF32
  else if isZero a && isZero b then (if a ≥ 2 ^ 31 then a else b)
  else if flt b a then b else a

/-- IEEE 754-2019 maximum (R135). -/
def fmax (a b : Bits) : Bits :=
  if isNaN a || isNaN b then nanF32
  else if isZero a && isZero b then (if a ≥ 2 ^ 31 then b else a)
  else if flt a b then b else a

/-! ### Pass sums (05, R119 to R125) -/

/-- Decision of R125's rules 1 to 3 on the products of a pass. -/
def specialOf (ps : List Val) : Option Bits :=
  if ps.any (· == .nan) then some nanF32
  else if ps.any (· == .inf false) && ps.any (· == .inf true) then some nanF32
  else if ps.any (· == .inf false) then some (infF32 false)
  else if ps.any (· == .inf true) then some (infF32 true)
  else none

/-- The exact sum of finite products. -/
def exactSum (ps : List Val) : Dy := ps.foldl (fun a p => a.add p.dy) Dy.zero

/-- The pass sum of the 4-bit and 8-bit width classes: exact, rounded once (R119, R125). The products carry their block
scales; R119's two stages and its window lose nothing, so the exact sum is theirs. -/
def passExact (ps : List Val) : Bits := (specialOf ps).getD (roundF32 (exactSum ps))

/-- ⌊log2⌋ of a nonzero finite product. -/
def Val.log2? : Val → Option Int
  | .fin _ m e => if m = 0 then none else some (log2Floor m e)
  | _ => none

/-- E_max of R120 over the nonzero finite products. -/
def eMax (ps : List Val) : Option Int :=
  ps.foldl (fun a p =>
    match a, p.log2? with
    | none, x => x
    | some y, some x => some (max x y)
    | some y, none => some y) none

/-- A product in units of 2^`lsb`, its lower bits discarded towards zero (R120). -/
def truncUnits (lsb : Int) : Val → Int
  | .fin neg m e =>
    let k := e - lsb
    let q := if 0 ≤ k then m * 2 ^ k.toNat else m / 2 ^ (-k).toNat
    if neg then -(q : Int) else q
  | _ => 0

/-- The exact value a BF16 or FP16 pass window holds (R120). -/
def windowSum (ps : List Val) : Dy :=
  match eMax ps with
  | none => Dy.zero
  | some em => { m := ps.foldl (fun a p => a + truncUnits (em - 57) p) 0, e := em - 57 }

/-- The pass sum of the 16-bit width class (R120, R125). -/
def passWindow (ps : List Val) : Bits := (specialOf ps).getD (roundF32 (windowSum ps))

/-! ### Splitting (04, R109; 05, R123) -/

/-- One BF16 word of a split: x₀ saturates instead of rounding to infinity. -/
def splitWord (b : Bits) : Nat := (convert .bf16 b).code

/-- A BF16 code as FP32 bits. -/
def bf16ToF32 (c : Nat) : Bits := c * 2 ^ 16

/-- The three BF16 words of an FP32 operand (R123). -/
def split3 (x : Bits) : Nat × Nat × Nat :=
  match f32 x with
  | .fin _ _ _ =>
    let x0 := splitWord x
    let r1 := fsub x (bf16ToF32 x0)
    let x1 := splitWord r1
    let r2 := fsub r1 (bf16ToF32 x1)
    (x0, x1, splitWord r2)
  | _ => (splitWord x, 0, 0)

/-! ### Reduction arithmetic (05, R135 to R138) -/

/-- The operations of a reduction region (09, R222). -/
inductive RedOp where
  | addF32 | addBf16 | addI32 | addI64 | minF32 | maxF32 | minI32 | maxI32 | minI64 | maxI64
  deriving DecidableEq, Repr

/-- Combining a contribution into an element (R135); FP32 patterns for the FP32 and BF16 operations. -/
def RedOp.apply (o : RedOp) (a b : Nat) : Nat :=
  match o with
  | .addF32 => fadd a b
  | .addBf16 => fadd a b
  | .addI32 => (a + b) % 2 ^ 32
  | .addI64 => (a + b) % 2 ^ 64
  | .minF32 => fmin a b
  | .maxF32 => fmax a b
  | .minI32 => if signedOf 32 b < signedOf 32 a then b else a
  | .maxI32 => if signedOf 32 a < signedOf 32 b then b else a
  | .minI64 => if signedOf 64 b < signedOf 64 a then b else a
  | .maxI64 => if signedOf 64 a < signedOf 64 b then b else a

/-- `d` / 2^`b` rounded to the nearest integer, ties to even. -/
def Dy.toUnits (d : Dy) (b : Int) : Int :=
  let q := rneShift d.m.natAbs (d.e - b)
  if d.m < 0 then -(q : Int) else q

/-- Whether `d` / 2^`b` is an integer. -/
def Dy.isMultiple (d : Dy) (b : Int) : Bool :=
  if 0 ≤ d.e - b then true else d.m.natAbs % 2 ^ (b - d.e).toNat == 0

/-- Saturation of an accumulator at 128 bits two's complement, and whether it saturated (R137). -/
def sat128 (w : Int) : Int × Bool :=
  if w < -(2 ^ 127) then (-(2 ^ 127), true)
  else if w > 2 ^ 127 - 1 then (2 ^ 127 - 1, true)
  else (w, false)

/-- Adding a finite contribution to an exact-window accumulator: the new W and whether `OUT_OF_WINDOW` is set
(R136, R137). -/
def windowAdd (w : Int) (base : Int) (d : Dy) : Int × Bool :=
  let k := d.toUnits base
  let inWin := d.isMultiple base && decide (k.natAbs ≤ 2 ^ 120)
  let k := if inWin then k else max (-(2 ^ 126)) (min (2 ^ 126) k)
  let r := sat128 (w + k)
  (r.1, !inWin || r.2)

/-- The special state after a contribution: 0 none, 1 NaN, 2 +infinity, 3 −infinity (R138). -/
def specialAdd (st : Nat) (v : Val) : Nat :=
  match v with
  | .nan => 1
  | .inf neg =>
    let i := if neg then 3 else 2
    if st = 0 ∨ st = i then i else 1
  | .fin _ _ _ => st

/-- The FP32 value of an exact-window element (R138). -/
def windowValue (w : Int) (base : Int) (special : Nat) : Bits :=
  match special with
  | 0 => roundF32 { m := w, e := base }
  | 1 => nanF32
  | 2 => infF32 false
  | _ => infF32 true

end Sys2Proof.Machine
end

