-- ==== Sys2Proof/Machine/Approx.lean ====
section
/-! DEFINITION. The functions that the part evaluates by fixed polynomials which this spec does not give, held to the error bounds that it
does give: GELU and SiLU (04, R104), exp2 and log2 (06, R145), cosine and sine (06, R144). Each is the part's own result where that lies
within the bound, and the exact value correctly rounded where it does not (LOG 11). The exact values are computed in fixed point, 200 bits
after the point, to an error far below the bounds. -/

namespace Sys2Proof.Machine

/-! ### Fixed point with 200 fraction bits -/

/-- A number in units of 2^−200. -/
abbrev Fx := Int

/-- One. -/
def fxOne : Fx := 2 ^ 200
/-- 2π. -/
def fxTwoPi : Fx := 0x6487ed5110b4611a62633145c06e0e68948127044533e63a010
/-- ln 2. -/
def fxLn2 : Fx := 0xb17217f7d1cf79abc9e3b39803f2f6af40f343267298b62d8a
/-- log₂ e. -/
def fxLog2e : Fx := 0x171547652b82fe1777d0ffda0d23a7d11d6aef551bad2b4b116
/-- 1 / √(2π). -/
def fxInvSqrtTwoPi : Fx := 0x662114cf50d942343f2cf1402eae38bfd3829f30512706d8c0

/-- A product. -/
def fxMul (a b : Fx) : Fx := a * b / 2 ^ 200

/-- An exact value in fixed point, bits below 2^−200 dropped. -/
def Dy.fx (d : Dy) : Fx := if 0 ≤ d.e + 200 then d.m * 2 ^ (d.e + 200).toNat else d.m / 2 ^ (-(d.e + 200)).toNat

/-- A fixed-point number as an exact value. -/
def fxDy (x : Fx) : Dy := { m := x, e := -200 }

/-- Σ of the Taylor terms of e^y from a term and its number on. -/
def fxExpSum (y term : Fx) (n : Nat) : Nat → Fx
  | 0 => 0
  | fuel + 1 => term + fxExpSum y (fxMul term y / (n + 1 : Nat)) (n + 1) fuel

/-- 2^x. -/
def fxExp2 (x : Fx) : Dy :=
  let k := x / fxOne
  { m := fxExpSum (fxMul (x - k * fxOne) fxLn2) fxOne 0 80, e := k - 200 }

/-- `n` binary digits of the logarithm of a number from 1 to 2, the first of weight `w`. -/
def fxLog2Digits (f w : Fx) : Nat → Fx
  | 0 => 0
  | n + 1 =>
    let g := fxMul f f
    if g ≥ 2 * fxOne then w / 2 + fxLog2Digits (g / 2) (w / 2) n else fxLog2Digits g (w / 2) n

/-- log₂ of the positive magnitude `m` × 2^`e`, to 2^−120. -/
def fxLog2 (m : Nat) (e : Int) : Fx :=
  log2Floor m e * fxOne + fxLog2Digits ((m : Int) * fxOne / 2 ^ Nat.log2 m) fxOne 120

/-- Cosine and sine from a Taylor term of an angle and its number on. -/
def fxTrigSum (r term : Fx) (n : Nat) : Nat → Fx × Fx
  | 0 => (0, 0)
  | fuel + 1 =>
    let x := fxTrigSum r (fxMul term r / (n + 1 : Nat)) (n + 1) fuel
    match n % 4 with
    | 0 => (x.1 + term, x.2)
    | 1 => (x.1, x.2 + term)
    | 2 => (x.1 - term, x.2)
    | _ => (x.1, x.2 - term)

/-- Cosine and sine of an angle of any size. -/
def fxTrig (a : Fx) : Fx × Fx := fxTrigSum (a % fxTwoPi) fxOne 0 100

/-- Σ x^(2k+1) / (2k+1)!! from a term and its number on. -/
def fxPhiSum (x2 term : Fx) (k : Nat) : Nat → Fx
  | 0 => 0
  | fuel + 1 => term + fxPhiSum x2 (fxMul term x2 / (2 * k + 3 : Nat)) (k + 1) fuel

/-- The Gaussian distribution function for |x| < 13. -/
def fxPhi (x : Fx) : Fx :=
  let x2 := fxMul x x
  let density := fxMul (fxExp2 (-(fxMul (x2 / 2) fxLog2e))).fx fxInvSqrtTwoPi
  fxOne / 2 + fxMul density (fxPhiSum x2 x 0 500)

/-! ### Results held to a bound -/

/-- Whether a value lies within a distance of an exact one. -/
def Val.near (v : Val) (d tol : Dy) : Bool :=
  match v with
  | .fin _ _ _ => ((v.dy.sub d).abs).le tol
  | _ => false

/-- The part's own result where it keeps the bound, and the exact value rounded where it does not. -/
def bounded (own : Bits) (d tol : Dy) : Bits := if (f32 own).near d tol then own else roundF32 d

/-- |d| × 2^−n, and what the fixed-point evaluation may itself be off by. -/
def relTol (d : Dy) (n : Nat) : Dy := ({ m := (d.m.natAbs : Int), e := d.e - n } : Dy).add { m := 1, e := -100 }

/-- 2^−n, and what the fixed-point evaluation may itself be off by. -/
def absTol (n : Nat) : Dy := ({ m := 1, e := -(n : Int) } : Dy).add { m := 1, e := -100 }

/-- The bound of R104: 2^−20 relative, 2^−24 absolute below 2^−4. -/
def activationTol (d : Dy) : Dy := if d.abs.lt { m := 1, e := -4 } then absTol 24 else relTol d 20

/-- x Φ(x), where the tails are x itself and 0 to far within the bound. -/
def geluExact (x : Dy) : Dy :=
  if ({ m := 13, e := 0 } : Dy).le x then x
  else if x.le { m := -13, e := 0 } then Dy.zero
  else fxDy (fxMul x.fx (fxPhi x.fx))

/-- x / (1 + e^−x). -/
def siluExact (x : Dy) : Dy :=
  if ({ m := 100, e := 0 } : Dy).le x then x
  else if x.le { m := -100, e := 0 } then Dy.zero
  else fxDy (x.fx * fxOne / (fxOne + (fxExp2 (-(fxMul x.fx fxLog2e))).fx))

/-- GELU of a finite FP32 value (R104). -/
def geluF32 (x : Bits) : Bits :=
  let d := geluExact (f32 x).dy
  bounded (Config.gelu x) d (activationTol d)

/-- SiLU of a finite FP32 value (R104). -/
def siluF32 (x : Bits) : Bits :=
  let d := siluExact (f32 x).dy
  bounded (Config.silu x) d (activationTol d)

/-- exp2 of a finite FP32 value from −149 to 128 (R145): 2^−21 relative; below 2^−126 an FP32 subnormal; not above 1 for an argument that is
not above 0 (05, R134). -/
def exp2F32 (x : Bits) : Bits :=
  let d := fxExp2 (f32 x).dy.fx
  if ({ m := 1, e := -126 } : Dy).le d then
    let y := if (f32 (Config.exp2 x)).near d { m := d.m * (2 ^ 60 + 1), e := d.e - 81 } then Config.exp2 x else roundF32 d
    if flt 0 x then y else min y 0x3F800000
  else if Config.exp2 x < 2 ^ 23 then Config.exp2 x
  else roundF32 d

/-- log2 of a positive FP32 value (R145): within 2^−22 of a normal argument's, which no FP32 value could be for a large result, so it is not
rounded here (LOG 138). -/
def log2Dy (x : Bits) : Dy :=
  let own : Dy := { m := Config.log2 x, e := -40 }
  match f32 x with
  | .fin _ m e =>
    if x < 2 ^ 23 then own
    else
      let d := fxDy (fxLog2 m e)
      if ((own.sub d).abs).le (absTol 22) then own else d
  | _ => own

/-- p × base^(−2i / rot) as a fixed-point angle (R144). -/
def ropeAngle (p base i rot : Nat) : Fx :=
  match f32 base with
  | .fin _ m e => (p : Int) * (fxExp2 (-(fxLog2 m e * (2 * i : Nat)) / (rot : Nat))).fx
  | _ => 0

/-- A cosine or sine held to 2^−22 where R144 bounds it: positions below 2^24. -/
def ropeBounded (p : Nat) (own : Bits) (x : Fx) : Bits := if p < 2 ^ 24 then bounded own (fxDy x) (absTol 22) else own

/-- cos θ of R144. -/
def ropeCosF32 (p base i rot : Nat) : Bits := ropeBounded p (Config.ropeCos p base i rot) (fxTrig (ropeAngle p base i rot)).1

/-- sin θ of R144. -/
def ropeSinF32 (p base i rot : Nat) : Bits := ropeBounded p (Config.ropeSin p base i rot) (fxTrig (ropeAngle p base i rot)).2

end Sys2Proof.Machine
end

