-- ==== Sys2Proof/Machine/State.lean ====
section
/-! DEFINITION. The state of the block as plain data: every register, buffer, queue, counter, mode and pin the spec gives
the Giholt 940, the queue of waiting commands, the reasons a step can stop, and the state after reset.
Register fields are held under their names as numbers within their width; reserved bits are not held (00, R7). -/

namespace Sys2Proof.Machine

/-- A sparse array by number: the first entry of a number is its value, and a number without one holds the default its
reader names. -/
abbrev Tab (α : Type) := List (Nat × α)

/-! ### Reasons a step can stop -/

/-- Faults. -/
inductive Fault where
  /-- Raised by the flit commands whose address lies in a hole of the local physical address map (01, R21): the spec says no
  lodging issues such an access and gives it no effect. Safe: the model stops. -/
  | addressHole
  deriving DecidableEq, Repr

/-- Refusals. -/
inductive Refusal where
  /-- A command whose meaning is not written yet (none is left). Safe. -/
  | notModelled (mnemonic : String)
  deriving DecidableEq, Repr

/-! ### Memory (01, 08, 10) -/

/-- The bytes of the local physical address space (HBM4, Stonos scratch, host memory) as their point of coherence holds
them, and the poisoned 32-byte sectors. An unlisted byte reads 0 (LOG 20). -/
structure Memory where
  cells : List Host.Cell
  poison : List Nat
  deriving DecidableEq, Repr

/-! ### Lodgings (02, 13) -/

/-- Bytes 0-19 of a galley descriptor, as the porter copied them at enable (02, R26, R28). -/
structure GalleyDesc where
  base : Nat
  cplBase : Nat
  log2Size : Nat
  cls : Nat
  priority : Nat
  msixEn : Bool
  msixVector : Nat
  homeEn : Bool
  home : Nat
  stopOnError : Bool
  seqCheck : Bool
  deriving DecidableEq, Repr

/-- `STATE` of a galley (02, R26). -/
inductive GState where
  | disabled | active | stopped | draining
  deriving DecidableEq, Repr

/-- A galley: the porter's copy of its descriptor, and bytes 20-39. -/
structure Galley where
  desc : GalleyDesc
  state : GState
  errStatus : Nat
  errSeq : Nat
  head : Nat
  tail : Nat
  cplCount : Nat
  /-- The stop was caused by an Enable check (02, R27). -/
  enableStop : Bool
  /-- `SEQ` expected of the next command; none accepts any (02, R37 step 6). -/
  expectSeq : Option Nat
  /-- Accepted doorbells, newest first: the `TAIL` and the time (13, R323 latency). -/
  bells : List (Nat × Nat)
  deriving DecidableEq, Repr

/-- `GALLEY_FAULT` (02, R24). -/
structure GalleyFault where
  valid : Bool
  galley : Nat
  status : Nat
  detail : Nat
  deriving DecidableEq, Repr

/-- A lodging's contract (13, R323); lists are indexed by extent, stack, class or port. -/
structure Contract where
  dedicated : Nat
  shared : Nat
  weight : Nat
  domainTag : Nat
  tableMib : Nat
  extents : List (Nat × Nat)
  affSlices : List Nat
  affFirst : List Nat
  affRows : List Nat
  hashFirst : List Nat
  hashRows : List Nat
  cacheFrames : List Nat
  floor : List Nat
  latencyUs : Nat
  latClasses : Nat
  portShare : List Nat
  dmaCh : List Nat
  traceMib : Nat
  deriving DecidableEq, Repr

/-- A run of `count` mapped pages of `size` bytes each (13, R320). `region` is the region descriptor's virtual address of a reduction
region, and `desc` the bytes 0 to 3 that `MAP` read there (09, R222). -/
structure Mapping where
  va : Nat
  pa : Nat
  size : Nat
  count : Nat
  perm : Nat
  region : Option Nat
  desc : Nat
  deriving DecidableEq, Repr

/-- An event record (13, R334). -/
structure LodEvent where
  seq : Nat
  code : Nat
  resource : Nat
  detail : Nat
  time : Nat
  deriving DecidableEq, Repr

/-- The trace writer of one stack for one lodging (19, R416, R419). -/
structure TraceWriter where
  written : Nat
  dropped : Nat
  /-- Records dropped since the last type 5 record. -/
  sinceDrop : Nat
  /-- `WRITTEN` as the header in memory shows it. -/
  shown : Nat
  /-- The writer's buffer has no room (19, R419). -/
  full : Bool
  deriving DecidableEq, Repr

/-- `LOD_STATE.STATE` (13, R315). -/
inductive LState where
  | absent | active | resetting | destroying
  deriving DecidableEq, Repr

/-- A lodging. -/
structure Lodging where
  state : LState
  contract : Option Contract
  /-- Number of the lodging's AES-256 key among the generated ones (18, R407). -/
  key : Option Nat
  maps : List Mapping
  gdtBase : Nat
  dbDrops : Nat
  ctrlDrops : Nat
  gfault : GalleyFault
  galleys : Tab Galley
  signals : Tab Nat
  events : List LodEvent
  nextEvent : Nat
  digests : List (List Byte)
  /-- Open breaches: level, and for levels 4 and 7 the `RESOURCE`, for level 5 the flow as 8 × resource + class, for level 6
  the number 6 (13, R330, R333). -/
  breaches : List (Nat × Nat)
  lastLate : Nat
  trace : Tab TraceWriter
  /-- Notices of class 0x01 that a higher class displaced (02, R47), by status. -/
  displaced : Tab Nat
  /-- A Function Level Reset waits for another operation to end (18, R402). -/
  flrPending : Bool
  deriving DecidableEq, Repr

/-- An admin operation in progress (18). -/
structure AdminOp where
  opcode : Nat
  packet : List Byte
  start : Nat
  endT : Nat
  status : Nat
  detail : Nat
  work : Nat
  /-- Outcome decided, `MBX_RESULT` not yet written. -/
  decided : Bool
  /-- Steps 1 to 3 of R316 are done and running commands are awaited. -/
  waiting : Bool
  /-- Time of its doorbell (18, R401). -/
  asked : Nat
  deriving DecidableEq, Repr

/-- An admin mailbox (02, R54). -/
structure Mailbox where
  cmd : List Byte
  result : List Byte
  busy : Bool
  done : Bool
  rejects : Nat
  op : Option AdminOp
  deriving DecidableEq, Repr

/-- A row of an MSI-X table (02, R456). -/
structure MsixVec where
  addr : Nat
  data : Nat
  masked : Bool
  pending : Bool
  deriving DecidableEq, Repr

/-- MSI-X of one function. -/
structure MsixFn where
  enable : Bool
  functionMask : Bool
  vectors : Tab MsixVec
  deriving DecidableEq, Repr

/-! ### Commands in flight (02) -/

/-- Where a fetched command stands (02, R27, R40). -/
inductive Phase where
  | fetched | running | ended
  deriving DecidableEq, Repr

/-- A command that a porter has fetched and whose completion record is not written yet. -/
structure Cmd where
  id : Nat
  lod : Nat
  g : Nat
  /-- Ring packet number of its first packet. -/
  slot : Nat
  opcode : Nat
  flags : Nat
  qclass : Nat
  layer : Nat
  oper : Nat
  seq : Nat
  tag : Nat
  /-- The chain's packets, 64 bytes each (02, R34). -/
  packet : List Byte
  /-- The porter that fetched it. -/
  stack : Nat
  bellTime : Nat
  phase : Phase
  start : Nat
  endT : Nat
  status : Nat
  detail : Nat
  work : Nat
  /-- Notices of class 0x01 in the order found (02, R47). -/
  notices : List (Nat × Nat)
  /-- A failure met while work of the command still runs: status, detail. -/
  failing : Option (Nat × Nat)
  /-- Acknowledgements awaited. -/
  acks : Nat
  /-- Everything it sends has been sent. -/
  issued : Bool
  /-- What step 8 of the checks read for it (02, R37): its group table, sequence table, kernel descriptor or region descriptor, and the
  poison of each sector read. -/
  read : List Byte
  readPoison : List Bool
  /-- An `UNMAP` completes when no transaction of its lodging numbered below this is left (13, R322). -/
  upTo : Nat
  deriving DecidableEq, Repr

/-! ### Core code (03, 07) -/

/-- What a thread waits for. -/
inductive Wait where
  | ready
  | barrier
  | feeder (counter value : Nat)
  /-- Until the accesses of some numbers are performed (03, R61; 07, R180). -/
  | txns (ids : List Nat)
  | exited
  deriving DecidableEq, Repr

/-- A thread of core code (03, R60, R66). -/
structure Thread where
  pc : Nat
  regs : Tab Nat
  poison : List Nat
  wait : Wait
  /-- Accesses that a release fence puts before its later stores and atomics (07, R177). -/
  release : List Nat
  deriving DecidableEq, Repr

/-- A group of 64 threads and its issue state (03, R62). -/
structure Group where
  quarter : Nat
  /-- Group slot of the quarter, 0 to 15 (03, R60, R61). -/
  slot : Nat
  /-- First register of its allocation in the quarter's register file (03, R60). -/
  regBase : Nat
  threads : Tab Thread
  /-- Threads of `run_set`. -/
  runSet : List Nat
  runLen : Nat
  spun : Bool
  granted : Bool
  /-- Issue slot of the group at which each thread was last issued. -/
  lastIssue : Tab Nat
  slots : Nat
  deriving DecidableEq, Repr

/-- A transfer of a feeder (03, R73). -/
structure FeederXfer where
  idx : Nat
  grp : Nat
  src : Nat
  srcScratch : Bool
  dst : Nat
  dstScratch : Bool
  rowBytes : Nat
  rows : Nat
  srcStride : Int
  dstStride : Int
  zero : Bool
  counter : Nat
  /-- How far it has come: the row, and the bytes of it that are written. -/
  row : Nat
  pos : Nat
  /-- Remote homes whose acknowledgements it awaits. -/
  acks : Nat
  deriving DecidableEq, Repr

/-- A resident or saved block (03). -/
structure Block where
  id : Nat
  cmd : Nat
  lod : Nat
  col : Nat
  /-- Linear index in the grid. -/
  index : Nat
  regsPerThread : Nat
  scratchKib : Nat
  scratch : Memory
  groups : List Group
  counters : Tab Nat
  feeds : List FeederXfer
  nextFeed : Nat
  /-- Its groups stop at their next issue slot (13, R325, R328; 17, R387). -/
  stopping : Bool
  /-- Saved out of turn (13, R328). -/
  saved : Bool
  deriving DecidableEq, Repr

/-- A `KERNEL_LAUNCH` that runs (03, R80). -/
structure Launch where
  cmd : Nat
  lod : Nat
  code : Nat
  args : Nat
  groups : Nat
  regsPerThread : Nat
  scratchKib : Nat
  exclusive : Bool
  gridX : Nat
  gridY : Nat
  gridZ : Nat
  timeoutUs : Nat
  next : Nat
  /-- Blocks that ended normally. -/
  normal : Nat
  /-- Columns whose instruction cache was invalidated for it (03, R71). -/
  cleaned : List Nat
  deriving DecidableEq, Repr

/-- A line of a core's instruction cache (03, R70, R71). -/
structure ILine where
  lod : Nat
  line : Nat
  bytes : List Byte
  /-- The poison of its sectors (10, R260). -/
  poison : List Bool
  deriving DecidableEq, Repr

/-! ### Matrix arrays and attention units (04, 06) -/

/-- The shape and operands of one product (04, R99, R107). -/
structure GemmEntry where
  a : Nat
  b : Nat
  d : Nat
  c : Nat
  bias : Nat
  aScale : Nat
  bScale : Nat
  aTile : Nat
  bTile : Nat
  m : Nat
  n : Nat
  k : Nat
  lda : Nat
  ldb : Nat
  ldc : Nat
  ldd : Nat
  /-- Poisoned group table entry: neither checked nor run (04, R108). -/
  skipped : Bool
  deriving DecidableEq, Repr

/-- The fields of a matrix command that its entries share (04, R99). -/
structure GemmParams where
  opcode : Nat
  aFmt : Nat
  bFmt : Nat
  cFmt : Nat
  dFmt : Nat
  gauss : Bool
  stochastic : Bool
  biasEn : Bool
  cEn : Bool
  bTrans : Bool
  aTrans : Bool
  act : Nat
  segments : Nat
  alpha : Nat
  beta : Nat
  seed : Nat
  tolExp : Nat
  deriving DecidableEq, Repr

/-- Name of a unit: for a matrix operator the entry, 128-row block, 32-column block and K segment; for an attention operator the
sequence, row block, head and split. -/
structure UnitKey where
  cmd : Nat
  entry : Nat
  mb : Nat
  nb : Nat
  seg : Nat
  deriving DecidableEq, Repr

/-- Accumulators of a block of output elements, row after row: FP32 bits of the real and, for `GEMM_COMPLEX`, the imaginary part. -/
structure Acc where
  re : List Nat
  im : List Nat
  poison : Bool
  deriving DecidableEq, Repr

/-- One activation chunk of a unit on its array (04, R87). -/
structure Chunk where
  j : Nat
  array : Nat
  /-- Next pass and sub-pass. -/
  pass : Nat
  sub : Nat
  acc : Acc
  /-- Sums of the Gauss form awaiting use (04, R110). -/
  held : List (List Nat)
  /-- A pass failed its proof on this array and waits for its recomputation (04, R95). -/
  failed : Option Nat
  done : Bool
  deriving DecidableEq, Repr

/-- A unit of a matrix operator on a core. -/
structure MatUnit where
  key : UnitKey
  tol : Nat
  chunks : List Chunk
  deriving DecidableEq, Repr

/-- A unit that ended on its core, its accumulators waiting for the epilogue or the combination. -/
structure Part where
  key : UnitKey
  col : Nat
  chunks : List Acc
  /-- Output tiles of the block already written. -/
  tiles : Nat
  deriving DecidableEq, Repr

/-- A matrix operator that runs. -/
structure MatOp where
  cmd : Nat
  lod : Nat
  par : GemmParams
  entries : List GemmEntry
  parts : List Part
  /-- Combined blocks of several segments (04, R90). -/
  totals : List Part
  /-- Blocks whose tiles are written: (entry, mb, nb). -/
  written : List (Nat × Nat × Nat)
  passes : Nat
  saturated : Nat
  /-- Elements written, for a digest: code and poison by linear index (19, R427). -/
  elems : Tab (Nat × Bool)
  deriving DecidableEq, Repr

/-- One row's state over a split (06, R146). -/
structure RowState where
  m : Nat
  l : Nat
  o : List Nat
  poison : Bool
  deriving DecidableEq, Repr

/-- The fields of an attention command (06, R156, R157). -/
structure AttnParams where
  opcode : Nat
  seqTable : Nat
  seqCount : Nat
  qHeads : Nat
  kvHeads : Nat
  headDim : Nat
  oFmt : Nat
  kvFmt : Nat
  phase : Nat
  lseEn : Bool
  block : Bool
  window : Bool
  causal : Bool
  scale : Nat
  windowLen : Nat
  splits : Nat
  ropeLayout : Nat
  ropeMode : Nat
  ropeBase : Nat
  rotDim : Nat
  qScale : Nat
  kScale : Nat
  vScale : Nat
  numPartials : Nat
  tolExp : Nat
  deriving DecidableEq, Repr

/-- A sequence table entry (06, R158). -/
structure SeqEntry where
  q : Nat
  o : Nat
  pageTable : Nat
  lse : Nat
  qLen : Nat
  kvLen : Nat
  qPos0 : Nat
  kvPos0 : Nat
  dO : Nat
  dq : Nat
  dk : Nat
  dv : Nat
  partials : Nat
  maskDesc : Nat
  kNew : Nat
  vNew : Nat
  vTail : Nat
  qMxs : Nat
  /-- Its mask descriptor's map, stride and granule code (06, R159). -/
  maskMap : Nat
  maskStride : Nat
  maskGranule : Nat
  /-- Its entry or its mask descriptor came poisoned: neither checked nor run (06, R160). -/
  skipped : Bool
  deriving DecidableEq, Repr

/-- A vector element: its value in a pass and its block scale, which is `none` for NaN. -/
structure Elem where
  v : Val
  scale : Option Int
  deriving DecidableEq, Repr

/-- A query row of a unit: the query, and for `ATTENTION_BWD` the output gradient, the row's `LSE` and its delta (06, R163); and whether a
sector of it came poisoned. -/
structure QueryRow where
  q : List Elem
  dO : List Val
  lse : Nat
  delta : Nat
  poison : Bool
  deriving DecidableEq, Repr

/-- A unit of an attention operator on a core. -/
structure AttnUnit where
  key : UnitKey
  /-- The proof tolerance of its passes (04, R92; 06, R140). -/
  tol : Nat
  /-- The key blocks that its split computes, once the unit has read its masks and its rows (06, R147, R156). -/
  plan : Option (List Nat)
  /-- Mask map rows read, by granule row: the map byte the run begins at, its bytes, and the poison of each sector of it (06, R159). -/
  mask : Tab (Nat × List Byte × List Bool)
  queries : List QueryRow
  /-- Pages of the page table entries read so far, each once (06, R155). -/
  pages : Tab Nat
  /-- Position in the plan. -/
  next : Nat
  rows : List RowState
  deriving DecidableEq, Repr

/-- The state of one row of one split, kept until its merge. -/
structure RowPart where
  seq : Nat
  row : Nat
  head : Nat
  split : Nat
  st : RowState
  deriving DecidableEq, Repr

/-- An attention operator that runs. -/
structure AttnOp where
  cmd : Nat
  lod : Nat
  par : AttnParams
  seqs : List SeqEntry
  rows : List RowPart
  endedUnits : List UnitKey
  /-- Rows written: (sequence, row, head). -/
  written : List (Nat × Nat × Nat)
  /-- Sequences that an invalid page table entry failed (06, R167). -/
  dropped : List Nat
  /-- Key blocks whose contributions each backward unit has pushed (06, R163, R170). -/
  pushed : List (UnitKey × Nat)
  /-- Steps of a `KV_APPEND` done (06, R165). -/
  appended : Nat
  work : Nat
  /-- Output tiles that a conversion saturated: sequence, head, tile row, tile column (05, R127; LOG 141). -/
  satTiles : List (Nat × Nat × Nat × Nat)
  /-- Elements written, for a digest: code and poison by linear index (19, R427). -/
  elems : Tab (Nat × Bool)
  deriving DecidableEq, Repr

/-- What a core runs besides blocks (03, R58). -/
inductive CoreRun where
  | idle
  | mat (u : MatUnit)
  | attn (u : AttnUnit)
  deriving DecidableEq, Repr

/-- The core that serves a column (17, `REL_COLUMN_STATE.CORE`). -/
inductive Served where
  | original | spare | noCore
  deriving DecidableEq, Repr

/-- A column's core (01, 03, 04). -/
structure ColCore where
  served : Served
  run : CoreRun
  /-- `MXA_SUSPECT` bits of its arrays. -/
  suspect : Nat
  icache : List ILine
  /-- Pages held in the instruction TLB: lodging, page. -/
  itlb : List (Nat × Nat)
  /-- Quarter groups issued last, for R61. -/
  lastGroup : Tab Nat
  deriving DecidableEq, Repr

/-! ### Stonos (08, 09) -/

/-- A contribution's accumulator in a Reduce or pinned line (09, R225; 05, R136): the FP32 or integer pattern, or the exact
window W with its special state (0 none, 1 NaN, 2 +infinity, 3 −infinity). -/
structure RedElem where
  bits : Nat
  w : Int
  special : Nat
  set : Bool
  deriving DecidableEq, Repr

/-- What a cache line of a slice holds. -/
inductive LineKind where
  /-- A line of local HBM4: dirty sectors (bits 3:0). -/
  | localLine (present dirty : Nat)
  /-- A copy of a remote line: bytes and poisoned sectors. -/
  | shared (bytes : List Byte) (poison : Nat)
  /-- A Reduce line: elements, poisoned sectors, `OUT_OF_WINDOW` of its own. -/
  | reduce (op : Nat) (exact : Bool) (baseExp : Int) (elems : List RedElem) (poison : Nat) (outOfWindow : Bool) (region : Nat)
  /-- A line of a local exact-window region, pinned in wide form. -/
  | pinned (baseExp : Int) (elems : List RedElem) (poison : Nat) (region : Nat)
  deriving DecidableEq, Repr

/-- A cache line: `line` is the address in 128-byte lines (twice that and the half for a BF16 Reduce line), `col` the slice
that holds it. -/
structure CacheLine where
  lod : Nat
  line : Nat
  col : Nat
  kind : LineKind
  deriving DecidableEq, Repr

/-- Relief state of a slice (08, R218). -/
inductive Relief where
  | off | drain | relieved | ending
  deriving DecidableEq, Repr

/-- A slice (08, R197, R199). -/
structure Slice where
  relief : Relief
  spareRows : Nat
  spareBank : Bool
  retired : Bool
  /-- Rows served from spare rows: (bank, row). -/
  rowMap : List (Nat × Nat)
  /-- Bank that the spare bank replaces. -/
  bankMap : Option Nat
  /-- Rows that met the row test of R379 in the scrub pass: (bank, row). -/
  badRows : List (Nat × Nat)
  /-- Words corrected in the scrub pass, and the place of the walk (10, R257). -/
  corrected : List Nat
  scrubAt : Option Nat
  /-- The period of the pass in progress, in minutes (10, R265). -/
  scrubMinutes : Nat
  deriving DecidableEq, Repr

/-- Stonos registers of one stack (08, 09, 10). -/
structure StnRegs where
  ceCount : Nat
  ueCount : Nat
  flipLo : Nat
  flipMid : Nat
  flipArm : Bool
  flipSlice : Nat
  flipCheck : Nat
  /-- `STN_SCRUB_PERIOD`. -/
  scrubMinutes : Nat
  reduceWb : Nat
  reduceLost : Nat
  epochDrops : Nat
  deriving DecidableEq, Repr

/-! ### HBM4 (10) -/

/-- An HBM4 channel controller. -/
structure Channel where
  marked : Bool
  failed : Bool
  lane : Nat
  /-- Successive corrections that located `streakLane`. -/
  streakLane : Nat
  streak : Nat
  /-- Repair has been asked for and its requests are held. -/
  repairing : Bool
  remapped : Bool
  retired : Bool
  /-- Place of the patrol scrub's walk (10, R256), and the period of the pass in progress, in hours (R265). -/
  scrubAt : Option Nat
  scrubHours : Nat
  deriving DecidableEq, Repr

/-- HBM4 registers of one stack (10). -/
structure HbmRegs where
  ceCount : Nat
  ueCount : Nat
  poisonReads : Nat
  /-- `HBM_SCRUB_PERIOD`. -/
  scrubHours : Nat
  zeroFills : Nat
  bitmapUe : Nat
  flipLo : Nat
  flipArm : Bool
  flipChannel : Nat
  flipPattern : Nat
  flipHi : Nat
  deriving DecidableEq, Repr

/-- The HBM4 arrays besides the bytes of `Memory`: valid bits by 4 KiB page, the key each sector was last encrypted under
(0 the device key), and the symbols of stored codewords that differ from the code: (symbol, XOR). -/
structure Hbm where
  valid : List Nat
  keyOf : Tab Nat
  errs : Tab (List (Nat × Nat))
  regs : Tab HbmRegs
  channels : Tab Channel
  /-- Lines in write-back buffers, as they were replaced (08, R210). -/
  wbBuf : List CacheLine
  /-- Sectors of `Memory` that a cache holds clean and whose codeword in the array has another value or poison: what the array holds. -/
  under : Tab (List Byte × Bool)
  deriving DecidableEq, Repr

/-- The Stonos tier. -/
structure Stn where
  lines : List CacheLine
  slices : Tab Slice
  regs : Tab StnRegs
  /-- Flipped bits of stored words, by word address: data mask, check mask. -/
  wordErrs : Tab (Nat × Nat)
  /-- Scratch sectors whose valid bit is set, rising (08, R197, R198). -/
  valid : List Nat
  /-- Writes and atomics that each slice has performed in the cycle it performed one in last: column, cycle, sector, place of the source
  (07, R186). -/
  lastCycle : List (Nat × Nat × Nat × Nat)
  deriving DecidableEq, Repr

/-! ### Fabric (11) -/

/-- An atomic on its way: destination register, width, operation, ordering and operands (07, R179, R185). -/
structure AtomTxn where
  dst : Nat
  size : Nat
  op : AtomOp
  order : MemOrder
  src : Nat
  cmp : Nat
  /-- An operand register is poisoned (07, R194). -/
  bad : Bool
  deriving DecidableEq, Repr

/-- What a transaction that awaits a response is for. -/
inductive TxnKind where
  /-- A load of one thread: destination register, size. -/
  | load (blk grp thr dst size : Nat)
  /-- A store of one thread: the value. -/
  | store (blk grp thr size value : Nat) (poisoned : Bool)
  /-- An atomic of one thread sent to a slice or a remote home. -/
  | atomic (blk grp thr : Nat) (a : AtomTxn)
  /-- An atomic of one thread sent to the host as a PCIe AtomicOp (07, R188). -/
  | hostAtomic (blk grp thr : Nat) (a : AtomTxn)
  /-- A write of a block's feeder transfer to a remote home (03, R74). -/
  | feed (blk idx : Nat)
  /-- A read or write burst of a DMA channel (global number). -/
  | dma (ch : Nat) (isRead : Bool)
  /-- A response that a burst no longer awaits (12, R310). -/
  | dmaLate (ch : Nat)
  /-- A fetch of a remote line; `keep` is cleared by a later `EPOCH_INVALIDATE` (09, R237). -/
  | fetch (lod line : Nat) (keep : Bool)
  /-- A fetch that its home or the way to it refused: the status that its readers report, until a command of the lodging ends. -/
  | fetchFault (lod line st d : Nat)
  /-- A line written home, and the `EPOCH_FLUSH` commands that await its acknowledgement. -/
  | writeHome (cmds : List Nat) (line : CacheLine)
  /-- The atomic OR of a device-written flag into a region descriptor whose home is another device (09, R222). -/
  | flagOr
  /-- A write sent to its home for a command. -/
  | remoteWrite (cmd : Option Nat) (operand : Nat)
  /-- A remote signal update of a command. -/
  | remoteSignal (cmd : Nat)
  /-- An AtomicOp sent to this device's host for another device: that device, the request's tag and its address (07, R188; 09, R221). -/
  | homeAtomic (dst tag addr : Nat) (a : AtomTxn)
  /-- A fabric request that its slice passed on to a remote home or to the host, to be answered when its response comes. -/
  | flit (f : Flit)
  deriving DecidableEq, Repr

/-- A transaction; `got` holds the sectors that have come of a line it reads, by place in the line (11, R282). -/
structure Txn where
  id : Nat
  lod : Nat
  addr : Nat
  issued : Nat
  kind : TxnKind
  got : Tab (List Byte × Bool)
  /-- The command that awaits it after its block has ended (02, R44). -/
  cmd : Option Nat
  /-- The threads for which a fence has made it visible: 0 none, 1 its group's, 2 its block's (07, R171, R177). -/
  mark : Nat
  deriving DecidableEq, Repr

/-- A read request whose sectors HBM4 has still to deliver: the sectors that have come, by place in the line. -/
structure HeldRead where
  flit : Flit
  got : Tab (List Byte × Bool)
  deriving DecidableEq, Repr

/-- The fabric: transactions that await a response, response flits on their way, and credits by buffer:
key (input × 2 + network) × 8 + class. -/
structure Fabric where
  txns : List Txn
  nextTxn : Nat
  resp : List Flit
  held : List HeldRead
  /-- Flits of written-home lines whose last flit has not come (09, R227). -/
  parts : List Flit
  /-- Credits the sender lacks, by buffer. -/
  spent : Tab Nat
  /-- Credits the receiver holds to return, by buffer. -/
  owed : Tab Nat
  /-- Time of the last flit that returned credits, by router input (R268). -/
  reverse : Tab Nat
  discarded : Nat
  deriving DecidableEq, Repr

/-- A line on a vertical lane that its sender has not seen acknowledged. -/
structure SentLine where
  tag : Nat
  cycle : Nat
  tries : Nat
  deriving DecidableEq, Repr

/-- One lane of a vertical channel (11, R275 to R278). -/
structure LaneSt where
  nextTag : Nat
  replay : List SentLine
  /-- The half that waits for its other half: line sequence, Stonos cycle of its arrival. -/
  pairing : Option (Nat × Nat)
  /-- Sequence of the replayed line awaited while later bursts are discarded. -/
  awaiting : Option Nat
  delivered : Nat
  suspect : Bool
  failed : Bool
  deriving DecidableEq, Repr

/-- A column's vertical bundle (11, R279). -/
structure Bundle where
  sparesUsed : Nat
  quiescedAt : Option Nat
  deriving DecidableEq, Repr

/-- Vertical channels: lanes by number, bundles by column, `VCH_REPLAYS` and `VCH_ORPHANS` by stack. -/
structure Vch where
  lanes : Tab LaneSt
  bundles : Tab Bundle
  replays : Tab Nat
  orphans : Tab Nat
  deriving DecidableEq, Repr

/-- A die-to-die link direction (11, R271): the flits in its replay buffer. -/
structure D2d where
  up : Bool
  replay : List Nat
  resent : Nat
  deriving DecidableEq, Repr

/-! ### Cytil (11) -/

/-- What a transfer's header says of its sender and its traffic (11, R282). -/
structure XferHead where
  src : Nat
  domainTag : Nat
  qclass : Nat
  layer : Nat
  oper : Nat
  deriving DecidableEq, Repr

/-- A transfer in a port's replay buffer. -/
structure SentXfer where
  seq : Nat
  flits : Nat
  tries : Nat
  sentAt : Nat
  dst : Nat
  op : Nat
  addr : Nat
  tag : Nat
  bytes : List Byte
  poison : Bool
  txn : Option Nat
  head : XferHead
  /-- While it waits at its port: the number of its request, and whether its age has raised it (14, R338). -/
  req : Nat
  aged : Bool
  deriving DecidableEq, Repr

/-- A Cytil port (11, R281 to R288). -/
structure CytilPort where
  upEn : Bool
  encrypt : Bool
  /-- Encryption as of the last bring-up. -/
  encrypted : Bool
  up : Bool
  authFail : Bool
  spareInUse : Bool
  halfWidth : Bool
  laneFailed : Nat
  replays : Nat
  fecUncorr : Nat
  txSeq : Nat
  rxSeq : Nat
  replay : List SentXfer
  discarding : Bool
  /-- Credits spent by virtual channel. -/
  spent : List Nat
  /-- Flit buffers freed by virtual channel whose credits are to be returned. -/
  owed : List Nat
  keyEpoch : Nat
  keyCount : Nat
  delay : Nat
  syncs : Nat
  deriving DecidableEq, Repr

/-- `CYL_DOMAIN`, `CYL_ROUTE` and the ports. -/
structure Cyl where
  enable : Bool
  timeMaster : Bool
  device : Nat
  routes : Tab Nat
  ports : Tab CytilPort
  /-- Requests forwarded to another device: device, operation, address. -/
  forwarded : List (Nat × Nat × Nat)
  /-- Transfers that wait for credit or replay room. -/
  waiting : List SentXfer
  deriving DecidableEq, Repr

/-! ### DMA (12) -/

/-- An active or shadow register set. -/
structure DmaSet where
  src : Nat
  dst : Nat
  count : Nat
  asLodging : Bool
  lodging : Nat
  qclass : Nat
  cls : Nat
  priority : Nat
  retry : Nat
  srcFixed : Bool
  dstFixed : Bool
  burstLog : Nat
  trigger : Nat
  intEn : Bool
  paceSrc : Nat
  paceDir : Nat
  highKib : Nat
  lowKib : Nat
  deriving DecidableEq, Repr

/-- A burst that awaits responses. -/
structure Burst where
  bytes : Nat
  /-- Its data is in the staging buffer. -/
  readDone : Bool
  /-- Writes of sectors issued so far. -/
  sent : Nat
  writesIssued : Bool
  deriving DecidableEq, Repr

/-- A DMA channel (12, R292). -/
structure DmaCh where
  act : DmaSet
  sh : DmaSet
  running : Bool
  halted : Bool
  done : Bool
  shadowArmed : Bool
  triggerPending : Bool
  writeDrop : Bool
  missed : Nat
  haltStatus : Nat
  haltDetail : Nat
  remain : Nat
  /-- A class T channel accepts triggers since its `GO`. -/
  armed : Bool
  /-- The pacing request (12, R306). -/
  asserted : Bool
  attempts : Nat
  retryAt : Option Nat
  burst : Option Burst
  /-- The staging buffer: the burst's bytes read, and for each whether its source sector was poisoned. -/
  staging : List Byte
  stagingPoison : List Bool
  /-- Remote lines that have arrived for the burst: bytes, poisoned sectors. -/
  lines : Tab (List Byte × Nat)
  /-- The burst's credit is reserved (12, R306). -/
  reserved : Bool
  /-- A command channel's command. -/
  cmd : Option Nat
  deriving DecidableEq, Repr

/-- A `COPY`, `FILL` or `COPY_REMOTE` that runs (12, R301). -/
structure CopyOp where
  cmd : Nat
  lod : Nat
  stack : Nat
  remote : Bool
  fill : Bool
  pattern : Nat
  src : Nat
  dst : Nat
  length : Nat
  srcFixed : Bool
  dstFixed : Bool
  /-- Segments not yet dealt: offsets. -/
  nextSeg : Nat
  running : Nat
  written : Nat
  deriving DecidableEq, Repr

/-- DMA registers of a stack. -/
structure DmaRegs where
  period : Tab Nat
  phase : Tab Nat
  swq : Tab Int
  cmdRetry : Nat
  lateDiscard : Nat
  deriving DecidableEq, Repr

/-- The DMA channels and engines. `levels` holds bytes waiting in the paced buffers: key 16 × stack + source. `arb` is the
round-robin place of each engine path (12, R293). -/
structure Dma where
  chans : Tab DmaCh
  regs : Tab DmaRegs
  copies : List CopyOp
  levels : Tab Int
  arb : Tab Nat
  deriving DecidableEq, Repr

/-! ### Porters (02) -/

/-- A porter. -/
structure Porter where
  weights : List Nat
  nextWeights : List Nat
  left : List Nat
  lastClass : Nat
  lastLod : Tab Nat
  lastGalley : Tab Nat
  lateDiscard : Nat
  /-- Blocks that a launch's timeout stopped and whose end may still be reported (03, R83). -/
  lateBlocks : List Nat
  checkFails : Nat
  deriving DecidableEq, Repr

/-! ### Regulation and turns (13, 14) -/

/-- A flow at a resource (14, R336). -/
structure Flow where
  granted : Nat
  /-- Bytes granted in the last completed window. -/
  last : Nat
  demotion : Nat
  missedWindows : Nat
  metWindows : Nat
  deriving DecidableEq, Repr

/-- A request waiting at a regulated resource (14, R338). -/
structure QReq where
  id : Nat
  res : Nat
  lod : Nat
  cls : Nat
  /-- Router input it came by (14, R338). -/
  input : Nat
  since : Nat
  aged : Bool
  line : Nat
  urgency : Nat
  deriving DecidableEq, Repr

/-- The regulator. Flow keys: (resource × 257 + lodging) × 8 + class, lodging 256 for device-owned traffic. -/
structure Qos where
  cap : Tab Nat
  base : Tab Nat
  nextCap : Tab Nat
  nextBase : Tab Nat
  legacy : Nat
  nextLegacy : Nat
  ageRaises : Nat
  bw : Tab Nat
  flows : Tab Flow
  queue : List QReq
  nextReq : Nat
  lastClass : Tab Nat
  /-- Input granted last, by resource and class (14, R338). -/
  lastInput : Tab Nat
  windowStart : Nat
  deriving DecidableEq, Repr

/-- A pool cluster's turn (13, R328). -/
structure Turn where
  lod : Option Nat
  since : Nat
  quantum : Nat
  /-- Smooth weighted round-robin credit by lodging. -/
  credit : Tab Int
  /-- Times from which the lodging's units start and its restored blocks issue (R328). -/
  switchUntil : Option Nat
  restoreUntil : Option Nat
  deriving DecidableEq, Repr

/-! ### Power (15) -/

/-- `PWR_DOMAIN.STATE`. -/
inductive DState where
  | off | ramp | on | failed
  deriving DecidableEq, Repr

/-- A power domain. -/
structure Domain where
  state : DState
  fails : Nat
  cracked : Bool
  localSense : Bool
  phasesOk : Nat
  rampStart : Nat
  /-- Time of the last work, for the idle gate. -/
  busyAt : Nat
  retryAt : Option Nat
  /-- Capped at 75 % of rated current (R351, R358). -/
  capped : Bool
  deriving DecidableEq, Repr

/-- Power delivery. -/
structure Pwr where
  limit : Nat
  brakeAsserted : Bool
  brakeEvent : Bool
  brakeWatts : Nat
  frac : Nat
  memCap : Nat
  source : Nat
  samples : List Nat
  idleGateUs : Nat
  limitEvents : Nat
  domains : Tab Domain
  /-- Domains that wait for a wake (R354). -/
  wakeQueue : List Nat
  /-- Wakes and raises of the last 10 µs: time, step in amperes. -/
  wakes : List (Nat × Nat)
  deriving DecidableEq, Repr

/-! ### Thermal (16) -/

/-- Thermal sensing. Sensor numbers: compute 16s + i, Stonos 64 + 16s + r, footing 128 + 8s + f. -/
structure Thm where
  broken : List Nat
  reported : List Nat
  /-- By sensor: what each element and the sensor read in the last round. -/
  lastElem : Tab (Option Int × Option Int × Option Int)
  estCount : Tab Nat
  est : Tab Int
  dieTemp : Tab Int
  /-- Value of each location in the last round: clusters, regions, footing sensors, HBM4 stacks. -/
  locTemp : Tab Int
  dieSubst : List Nat
  dieThrottle : List Nat
  dieAtMax : List Nat
  therm : Bool
  tripped : Bool
  refresh2x : List Nat
  limit : Nat
  start : Nat
  stop : Nat
  nextStart : Nat
  nextStop : Nat
  busyW : Nat
  nextBusyW : Nat
  hotCount : Tab Nat
  coolCount : Tab Nat
  reliefWanted : List Nat
  endWanted : List Nat
  stacked : List Nat
  coolRounds : Nat
  /-- Consecutive rounds at or above the maximum, by location (R373). -/
  maxRounds : Tab Nat
  tripDue : Bool
  rounds : Nat
  /-- Dies inside the write window in the last completed round are not listed here. -/
  outside : List Nat
  removedClusters : List Nat
  deriving DecidableEq, Repr

/-! ### Spares and rescue (17) -/

/-- The kinds of takeover, in the order of their service after safety domains (17, R380). -/
inductive TakeKind where
  | phase | bank | row | core | via | hbmLane
  deriving DecidableEq, Repr

/-- A takeover that waits or runs: `place` names the column, channel or domain, `bank` and `row` inside it. -/
structure Takeover where
  kind : TakeKind
  stack : Nat
  place : Nat
  bank : Nat
  row : Nat
  asked : Nat
  started : Option Nat
  deriving DecidableEq, Repr

/-- Reliability. -/
structure Rel where
  mode : Nat
  cause : Nat
  stackLost : Nat
  stackUnreached : Nat
  takeovers : Nat
  queue : List Takeover
  spareSpent : List Nat
  /-- Cores switched off or lost, by physical number. -/
  coresOff : List Nat
  spentSensors : Nat
  rescueDue : Option Nat
  /-- Clusters that take no work (17, R386). -/
  lostClusters : List Nat
  /-- The valid pages as rescue entry saved them to GiB 511 of HBM4 (17, R389 step 4). -/
  bitmapCopy : List Nat
  deriving DecidableEq, Repr

/-! ### Innkeeper (18), ledgers, trace and counters (19) -/

/-- A firmware slot of the flash (18, R404). -/
structure Slot where
  image : List Byte
  commit : Option Nat
  deriving DecidableEq, Repr

/-- The Innkeeper, the supervisor and the Quoin security block. -/
structure Ink where
  activeStack2 : Bool
  standbyReady : Bool
  supervisorHold : Bool
  supervisorEvents : Nat
  shedLevel : Nat
  bootSlot : Nat
  fusedSvn : Nat
  bootSvn : Nat
  slots : List Slot
  repairLog : List (Nat × Nat)
  repairWaiting : List (Nat × Nat)
  firmwareRuns : Bool
  /-- Rounds that have completed, and the time of the oldest round not completed. -/
  roundDue : Nat
  onTime : Nat
  failoverAt : Option Nat
  checkpointAt : Nat
  pairsLeft : Nat
  snapshot : List Byte
  snapshotAt : Nat
  /-- Operations that the standby pair carries to their end, by mailbox: each has already been ended there (R460). -/
  carried : List (Nat × AdminOp)
  nextKey : Nat
  draws : Nat
  /-- Replies over MCTP that wait for the end of a failover: transport, reply (R406). -/
  replies : List (Nat × List Nat)
  /-- Firmware images that came over PLDM during a failover. -/
  pldmWaiting : List (Nat × List Byte × Bool)
  /-- Sensor values of the last telemetry interval (R400, R406): temperatures by location, and package input power in mW. -/
  pldmTemps : Tab Int
  pldmPower : Nat
  deriving DecidableEq, Repr

/-- Debug unlock (18, R408). -/
structure Unlock where
  level : Nat
  granted : Nat
  locked : Bool
  fails : Nat
  result : Nat
  nonce : List Byte
  response : List Byte
  deriving DecidableEq, Repr

/-- A ledger (19, R411, R413): newest entry first. -/
structure Ledger where
  entries : List Nat
  h : Nat
  base : Nat
  deriving DecidableEq, Repr

/-- A programmable counter's configuration (19, R424). -/
structure PmcCfg where
  en : Bool
  lodgingEn : Bool
  layerEn : Bool
  operEn : Bool
  lodging : Nat
  event : Nat
  layer : Nat
  oper : Nat
  deriving DecidableEq, Repr

/-- Ledgers, counters and their registers. -/
structure Dbg where
  ledgers : Tab Ledger
  copyCount : Nat
  copyBase : Nat
  copyData : List Nat
  pmcPeriod : Nat
  pmcCfg : Tab PmcCfg
  pmcValue : Tab Nat
  /-- Time of each counter's last sample. -/
  pmcSampled : Tab Nat
  fixed : Tab Nat
  deriving DecidableEq, Repr

/-! ### Board (20) -/

/-- A service lamp. -/
structure Lamp where
  override : Bool
  diagEn : Bool
  onUs : Nat
  /-- On-time of the period in progress. -/
  current : Nat
  failing : Nat
  isOpen : Bool
  openEvent : Bool
  short : Bool
  deriving DecidableEq, Repr

/-- Board, clocks, resets and the PCIe link. -/
structure Brd where
  startStep : Nat
  starting : Bool
  startFail : Bool
  railFault : Bool
  xtalLost : Bool
  faultRail : Nat
  pkgEn : Bool
  hbmEn : Bool
  sysRstLow : Bool
  perst : Bool
  refclk : Bool
  linkRefclk : Bool
  /-- `REFCLK` loss stands for a `PERST_N` assertion (R437). -/
  refclkPerst : Bool
  linkUp : Bool
  linkRate : Nat
  linkWidth : Nat
  ready : Bool
  dead : Bool
  lamps : Tab Lamp
  lastDone : Option Nat
  deriving DecidableEq, Repr

/-- A bit of a RW1C field that the hardware sets (00, R6, R9): `GALLEY_FAULT.VALID` of a lodging, `MBX_STATUS.DONE` of a function,
`CYL_PORT_STATUS.AUTH_FAIL`, `DMA_CH_STATUS.DONE` and `WRITE_DROP` of a channel, `PWR_BRAKE.EVENT`, and the two bits of a lamp. -/
inductive Rw1c where
  | galleyFault (lod : Nat)
  | mbxDone (fn : Nat)
  | authFail (port : Nat)
  | dmaDone (ch : Nat)
  | dmaWriteDrop (ch : Nat)
  | brakeEvent
  | lampShort (lamp : Nat)
  | lampOpen (lamp : Nat)
  deriving DecidableEq, Repr

/-- Something the device puts out. `fn` is a function's number, 256 for the PF; that of a TLP is its requester (01, R451). -/
inductive Out where
  | msix (fn vector : Nat)
  /-- A transfer on a Cytil port, and the `ACK_SEQ` and `CREDITS` that its header carries (11, R282). -/
  | cytil (port : Nat) (x : SentXfer) (ack : Nat) (credits : List Nat)
  | configRetry (fn : Nat)
  | configData (fn reg value : Nat)
  /-- A memory read TLP of `n` bytes. -/
  | hostRead (fn addr n : Nat)
  /-- A memory write TLP; `ep` is its poison bit (10, R261). -/
  | hostWrite (fn addr : Nat) (bytes : List Byte) (ep : Bool)
  /-- An AtomicOp TLP: FetchAdd, Swap or CAS as `op` is add, exchange or compareExchange (07, R188). -/
  | hostAtomic (fn addr size : Nat) (op : AtomOp) (operands : List Nat) (ep : Bool)
  | fabricCredit (input net cls count : Nat)
  | laneAck (lane tag : Nat)
  | laneNak (lane tag : Nat)
  | cytilNak (port seq : Nat)
  | timeSync (port : Nat)
  | aer (fn code : Nat)
  | mctp (transport : Nat) (reply : List Nat)
  deriving DecidableEq, Repr

/-! ### The whole -/

/-- The state of the device. -/
structure State where
  /-- Commands waiting, first in first out. -/
  pending : List Instr
  /-- Device time base, ns mod 2^48 (02, R43). -/
  now : Nat
  /-- The time base is held for the master's (11, R289). -/
  holding : Bool
  /-- Nanoseconds by which the time base is still to fall back to the master's, its rate lowered (11, R289). -/
  slow : Nat
  mem : Memory
  lods : Tab Lodging
  mail : Tab Mailbox
  msix : Tab MsixFn
  porters : Tab Porter
  cmds : List Cmd
  nextCmd : Nat
  launches : List Launch
  blocks : List Block
  nextBlock : Nat
  mats : List MatOp
  attns : List AttnOp
  cores : Tab ColCore
  mxaTol : Tab Nat
  mxaRetries : Tab Nat
  mxaSuspected : Tab Nat
  stn : Stn
  hbm : Hbm
  fab : Fabric
  vch : Vch
  d2d : Tab D2d
  cyl : Cyl
  dma : Dma
  qos : Qos
  turns : Tab Turn
  quantumUs : Nat
  pwr : Pwr
  thm : Thm
  rel : Rel
  ink : Ink
  unlock : Unlock
  dbg : Dbg
  brd : Brd
  out : List Out
  /-- RW1C bits that were set in the present nanosecond: a write of 1 in it does not clear them (00, R9). -/
  fresh : List Rw1c
  /-- Words of the registers that the debug and test register supplement gives, by offset in the PF's space (00, R2, R3). -/
  supp : Tab Nat
  /-- The model's own: place in the sequence of free values (LOG 13). -/
  freeAt : Nat
  deriving DecidableEq, Repr

/-! ### Reset -/

/-- A galley in state DISABLED that no enable has read. -/
def Galley.reset : Galley :=
  { desc := { base := 0, cplBase := 0, log2Size := 0, cls := 0, priority := 0, msixEn := false, msixVector := 0,
              homeEn := false, home := 0, stopOnError := false, seqCheck := false },
    state := .disabled, errStatus := 0, errSeq := 0, head := 0, tail := 0, cplCount := 0, enableStop := false,
    expectSeq := none, bells := [] }

/-- A lodging in state ABSENT (13, R315: entered by cold start). -/
def Lodging.reset : Lodging :=
  { state := .absent, contract := none, key := none, maps := [], gdtBase := 0, dbDrops := 0, ctrlDrops := 0,
    gfault := { valid := false, galley := 0, status := 0, detail := 0 }, galleys := [], signals := [], events := [],
    nextEvent := 0, digests := [], breaches := [], lastLate := 0, trace := [], displaced := [], flrPending := false }

/-- An idle mailbox (02). -/
def Mailbox.reset : Mailbox :=
  { cmd := List.replicate 64 0, result := List.replicate 32 0, busy := false, done := false, rejects := 0, op := none }

/-- An MSI-X row: masked (02, R456). -/
def MsixVec.reset : MsixVec := { addr := 0, data := 0, masked := true, pending := false }

/-- MSI-X of a function: Enable and Function Mask clear, every vector masked (02, R456). -/
def MsixFn.reset : MsixFn := { enable := false, functionMask := false, vectors := [] }

/-- A porter: every class weight 1 (02), and no round in progress (LOG 19). -/
def Porter.reset : Porter :=
  { weights := List.replicate 8 1, nextWeights := List.replicate 8 1, left := List.replicate 8 0, lastClass := 7,
    lastLod := [], lastGalley := [], lateDiscard := 0, lateBlocks := [], checkFails := 0 }

/-- A trace writer whose header fields are zero (19, R416). -/
def TraceWriter.reset : TraceWriter := { written := 0, dropped := 0, sinceDrop := 0, shown := 0, full := false }

/-- A thread that has written no register (03, R60). -/
def Thread.reset (pc : Nat) : Thread := { pc := pc, regs := [], poison := [], wait := .ready, release := [] }

/-- An idle core of a column (LOG 21: no repair at manufacture). -/
def ColCore.reset : ColCore :=
  { served := .original, run := .idle, suspect := 0, icache := [], itlb := [], lastGroup := [] }

/-- A slice with every spare left (LOG 21). -/
def Slice.reset : Slice :=
  { relief := .off, spareRows := 0, spareBank := false, retired := false, rowMap := [], bankMap := none, badRows := [],
    corrected := [], scrubAt := none, scrubMinutes := 60 }

/-- Stonos registers: `STN_SCRUB_PERIOD` 60, the rest 0 (08, 10). -/
def StnRegs.reset : StnRegs :=
  { ceCount := 0, ueCount := 0, flipLo := 0, flipMid := 0, flipArm := false, flipSlice := 0, flipCheck := 0,
    scrubMinutes := 60, reduceWb := 0, reduceLost := 0, epochDrops := 0 }

/-- A healthy channel (10; LOG 21). -/
def Channel.reset : Channel :=
  { marked := false, failed := false, lane := 0, streakLane := 0, streak := 0, repairing := false, remapped := false,
    retired := false, scrubAt := none, scrubHours := 24 }

/-- HBM4 registers: `HBM_SCRUB_PERIOD` 24, the rest 0 (10). -/
def HbmRegs.reset : HbmRegs :=
  { ceCount := 0, ueCount := 0, poisonReads := 0, scrubHours := 24, zeroFills := 0, bitmapUe := 0,
    flipLo := 0, flipArm := false, flipChannel := 0, flipPattern := 0, flipHi := 0 }

/-- A lane in service (11; LOG 21). -/
def LaneSt.reset : LaneSt :=
  { nextTag := 0, replay := [], pairing := none, awaiting := none, delivered := 0, suspect := false,
    failed := false }

/-- A bundle with every spare via left (11; LOG 21). -/
def Bundle.reset : Bundle := { sparesUsed := 0, quiescedAt := none }

/-- A die-to-die link in service. -/
def D2d.reset : D2d := { up := true, replay := [], resent := 0 }

/-- A Cytil port that is down (11). -/
def CytilPort.reset : CytilPort :=
  { upEn := false, encrypt := false, encrypted := false, up := false, authFail := false, spareInUse := false,
    halfWidth := false, laneFailed := 0, replays := 0, fecUncorr := 0, txSeq := 0, rxSeq := 0, replay := [],
    discarding := false, spent := [0, 0, 0, 0], owed := [0, 0, 0, 0], keyEpoch := 0, keyCount := 0, delay := 0, syncs := 0 }

/-- A DMA register set: `RETRY` 3, `BURST_LOG` 6, the rest 0 (12). -/
def DmaSet.reset : DmaSet :=
  { src := 0, dst := 0, count := 0, asLodging := false, lodging := 0, qclass := 0, cls := 0, priority := 0, retry := 3,
    srcFixed := false, dstFixed := false, burstLog := 6, trigger := 0, intEn := false, paceSrc := 0, paceDir := 0,
    highKib := 0, lowKib := 0 }

/-- An idle DMA channel (12). -/
def DmaCh.reset : DmaCh :=
  { act := DmaSet.reset, sh := DmaSet.reset, running := false, halted := false, done := false, shadowArmed := false,
    triggerPending := false, writeDrop := false, missed := 0, haltStatus := 0, haltDetail := 0, remain := 0,
    armed := false, asserted := false, attempts := 0, retryAt := none, burst := none, staging := [],
    stagingPoison := [], lines := [], reserved := false, cmd := none }

/-- DMA registers of a stack: `DMA_CMD_RETRY` 3, the rest 0 (12). -/
def DmaRegs.reset : DmaRegs := { period := [], phase := [], swq := [], cmdRetry := 3, lateDiscard := 0 }

/-- A flow with no history: D starts at 0 (14, R341). -/
def Flow.reset : Flow := { granted := 0, last := 0, demotion := 0, missedWindows := 0, metWindows := 0 }

/-- A pool cluster in nobody's turn. -/
def Turn.reset : Turn := { lod := none, since := 0, quantum := 2000, credit := [], switchUntil := none, restoreUntil := none }

/-- Working phases N of domain `d` (15, R346). -/
def Domain.phases (d : Nat) : Nat :=
  if d < 32 then 4 else if d < 36 then 3 else if d < 40 then 4 else if d < 48 then 2 else 1

/-- A domain after cold start: OFF, all phases healthy (LOG 21); `PD49` is always ON (15, R348). -/
def Domain.reset (d : Nat) : Domain :=
  { state := if d = 49 then .on else .off, fails := 0, cracked := false, localSense := false,
    phasesOk := Domain.phases d + 2, rampStart := 0, busyAt := 0, retryAt := none, capped := false }

/-- A ledger after cold start: empty (19, R411). -/
def Ledger.reset : Ledger := { entries := [], h := 0, base := 0 }

/-- A programmable counter that counts nothing. -/
def PmcCfg.reset : PmcCfg :=
  { en := false, lodgingEn := false, layerEn := false, operEn := false, lodging := 0, event := 0, layer := 0, oper := 0 }

/-- A lamp: no override, `DIAG_EN` 1 (20). -/
def Lamp.reset : Lamp :=
  { override := false, diagEn := true, onUs := 0, current := 0, failing := 0, isOpen := false, openEvent := false,
    short := false }

/-- A firmware slot with no image and no commit word (LOG 22). -/
def Slot.reset : Slot := { image := [], commit := none }

/-- The device when a cold start begins (20, R438, R440): `PD49` ramps, every lodging is ABSENT, no register has been
written. Values the spec does not state are those of LOG 19 to LOG 22. -/
def State.reset : State :=
  { pending := [], now := 0, holding := false, slow := 0, mem := { cells := [], poison := [] }, lods := [], mail := [], msix := [],
    porters := [], cmds := [], nextCmd := 0, launches := [], blocks := [], nextBlock := 0, mats := [], attns := [],
    cores := [], mxaTol := [], mxaRetries := [], mxaSuspected := [],
    stn := { lines := [], slices := [], regs := [], wordErrs := [], valid := [], lastCycle := [] },
    hbm := { valid := [], keyOf := [], errs := [], regs := [], channels := [], wbBuf := [], under := [] },
    fab := { txns := [], nextTxn := 0, resp := [], held := [], parts := [], spent := [], owed := [], reverse := [], discarded := 0 },
    vch := { lanes := [], bundles := [], replays := [], orphans := [] },
    d2d := [],
    cyl := { enable := false, timeMaster := false, device := 0, routes := [], ports := [], forwarded := [], waiting := [] },
    dma := { chans := [], regs := [], copies := [], levels := [], arb := [] },
    qos := { cap := [], base := [], nextCap := [], nextBase := [], legacy := 0, nextLegacy := 0, ageRaises := 0, bw := [],
             flows := [], queue := [], nextReq := 0, lastClass := [], lastInput := [], windowStart := 0 },
    turns := [], quantumUs := 2000,
    pwr := { limit := 850, brakeAsserted := false, brakeEvent := false, brakeWatts := 425, frac := 0, memCap := 0,
             source := 0, samples := [], idleGateUs := 50, limitEvents := 0, domains := [], wakeQueue := [], wakes := [] },
    thm := { broken := [], reported := [], lastElem := [], estCount := [], est := [], dieTemp := [], locTemp := [],
             dieSubst := [], dieThrottle := [], dieAtMax := [], therm := false, tripped := false, refresh2x := [],
             limit := 850, start := 88, stop := 82, nextStart := 88, nextStop := 82, busyW := 8, nextBusyW := 8,
             hotCount := [], coolCount := [], reliefWanted := [], endWanted := [], stacked := [], coolRounds := 0,
             maxRounds := [], tripDue := false, rounds := 0, outside := [], removedClusters := [] },
    rel := { mode := 0, cause := 0, stackLost := 0, stackUnreached := 0, takeovers := 0, queue := [], spareSpent := [],
             coresOff := [], spentSensors := 0, rescueDue := none, lostClusters := [], bitmapCopy := [] },
    ink := { activeStack2 := false, standbyReady := false, supervisorHold := false, supervisorEvents := 0, shedLevel := 0,
             bootSlot := 0, fusedSvn := 0, bootSvn := 0, slots := [Slot.reset, Slot.reset], repairLog := [],
             repairWaiting := [], firmwareRuns := false, roundDue := 0, onTime := 0, failoverAt := none,
             checkpointAt := 0, pairsLeft := 2, snapshot := [], snapshotAt := 0, carried := [], nextKey := 1, draws := 0,
             replies := [], pldmWaiting := [], pldmTemps := [], pldmPower := 0 },
    unlock := { level := 0, granted := 0, locked := false, fails := 0, result := 0, nonce := List.replicate 32 0,
                response := List.replicate 96 0 },
    dbg := { ledgers := [], copyCount := 0, copyBase := 0, copyData := [], pmcPeriod := 0, pmcCfg := [], pmcValue := [],
             pmcSampled := [], fixed := [] },
    brd := { startStep := 0, starting := true, startFail := false, railFault := false, xtalLost := false, faultRail := 0,
             pkgEn := false, hbmEn := false, sysRstLow := false, perst := true, refclk := true, linkRefclk := true,
             refclkPerst := false, linkUp := false, linkRate := 0, linkWidth := 0, ready := false, dead := false,
             lamps := [], lastDone := none },
    out := [], fresh := [], supp := [], freeAt := 0 }

end Sys2Proof.Machine
end

