-- ==== Sys2Proof/Machine/Ops.lean ====
section
/-! DEFINITION. The shared operations over the state: sparse tables, bytes, the canonical memory, the numbering of stacks,
columns and slices, the time base, the address map, and the updates of one lodging, galley, command or slice. -/

namespace Sys2Proof.Machine

/-! ### Sparse tables -/

/-- The entry of number `k`, or the default. -/
def Tab.get {α : Type} (t : Tab α) (k : Nat) (d : α) : α :=
  match t with
  | [] => d
  | (j, v) :: r => if j = k then v else Tab.get r k d

/-- The table with entry `k` set. -/
def Tab.set {α : Type} (t : Tab α) (k : Nat) (v : α) : Tab α :=
  match t with
  | [] => [(k, v)]
  | (j, w) :: r => if j = k then (k, v) :: r else (j, w) :: Tab.set r k v

/-- The table with entry `k` changed by `f`. -/
def Tab.mod {α : Type} (t : Tab α) (k : Nat) (d : α) (f : α → α) : Tab α := t.set k (f (t.get k d))

/-- The table without entry `k`. -/
def Tab.drop {α : Type} (t : Tab α) (k : Nat) : Tab α := t.filter (fun e => e.1 != k)

/-- Add one to a counter entry that wraps at 2^32. -/
def Tab.incr (t : Tab Nat) (k n : Nat) : Tab Nat := t.set k ((t.get k 0 + n) % 2 ^ 32)

/-- `x` is in the list, and inserted at its end where it is not. -/
def insertNew {α : Type} [DecidableEq α] (l : List α) (x : α) : List α := if x ∈ l then l else l ++ [x]

/-- A counter of 32 bits that wraps. -/
def wrap32 (n : Nat) : Nat := n % 2 ^ 32

/-- A counter that saturates at 65,535. -/
def sat16 (n : Nat) : Nat := min n 65535

/-! ### Bit fields and bytes -/

/-- Bits [lo + n − 1 : lo] (00, R4). -/
def bits (v lo n : Nat) : Nat := v / 2 ^ lo % 2 ^ n

/-- Bit `i`. -/
def bit (v i : Nat) : Bool := v / 2 ^ i % 2 == 1

/-- 1 for true. -/
def ofBool (b : Bool) : Nat := if b then 1 else 0

/-- Number of set bits among the low `n`. -/
def popcount (v n : Nat) : Nat := (List.range n).countP (fun i => bit v i)

/-- The positions of the set bits among the low `n`, ascending. -/
def setBits (v n : Nat) : List Nat := (List.range n).filter (fun i => bit v i)

/-- The number a little-endian byte string spells (00, R5). -/
def leNat : List Byte → Nat
  | [] => 0
  | b :: r => b.toNat + 256 * leNat r

/-- `n` bytes of a number, little-endian. -/
def leBytes (n v : Nat) : List Byte :=
  match n with
  | 0 => []
  | n + 1 => BitVec.ofNat 8 v :: leBytes n (v / 256)

/-- Bytes `off` to `off` + `n` − 1, zeros past the end. -/
def slice (b : List Byte) (off n : Nat) : List Byte :=
  let r := (b.drop off).take n
  r ++ List.replicate (n - r.length) 0

/-- A little-endian field of a packet or descriptor. -/
def field (b : List Byte) (off n : Nat) : Nat := leNat (slice b off n)

/-- One byte as a number. -/
def byteAt (b : List Byte) (off : Nat) : Nat := (b.getD off 0).toNat

/-- Whether two address ranges meet. -/
def overlaps (a n b m : Nat) : Bool := decide (a < b + m ∧ b < a + n)

/-- Bytes at `off` replaced. -/
def patch (b : List Byte) (off : Nat) (v : List Byte) : List Byte := b.take off ++ v ++ b.drop (off + v.length)

/-- The address rounded down to a multiple. -/
def alignDown (a n : Nat) : Nat := a / n * n

/-! ### Memory (07, R173, R174; 10, R250, R260) -/

/-- The byte at an address; an unlisted one reads 0 (LOG 20; R198, R251). -/
def cellGet : List Host.Cell → Nat → Byte
  | [], _ => 0
  | (a, b) :: r, k => if a = k then b else cellGet r k

/-- One byte written, keeping the canonical form: rising addresses, no zero byte listed. -/
def cellSet : List Host.Cell → Nat → Byte → List Host.Cell
  | [], k, v => if v = 0 then [] else [(k, v)]
  | (a, b) :: r, k, v =>
    if k < a then (if v = 0 then (a, b) :: r else (k, v) :: (a, b) :: r)
    else if k = a then (if v = 0 then r else (k, v) :: r)
    else (a, b) :: cellSet r k v

/-- Membership in a rising list made true or false. -/
def markSet : List Nat → Nat → Bool → List Nat
  | [], k, v => if v then [k] else []
  | a :: r, k, v =>
    if k < a then (if v then k :: a :: r else a :: r)
    else if k = a then (if v then a :: r else r)
    else a :: markSet r k v

/-- Addresses strictly rise and no listed byte is zero. -/
def cellsWf : List Host.Cell → Bool
  | [] => true
  | [(_, b)] => b != 0
  | (a, b) :: (a', b') :: r => b != 0 && decide (a < a') && cellsWf ((a', b') :: r)

/-- Numbers strictly rise. -/
def rising : List Nat → Bool
  | [] => true
  | [_] => true
  | a :: b :: r => decide (a < b) && rising (b :: r)

/-- The canonical form of a memory. -/
def Memory.wf (m : Memory) : Bool := cellsWf m.cells && rising m.poison

/-- One byte read. -/
def Memory.byte (m : Memory) (a : Nat) : Byte := cellGet m.cells a

/-- `n` bytes read. -/
def Memory.read (m : Memory) (a n : Nat) : List Byte := (List.range n).map (fun i => m.byte (a + i))

/-- Bytes written, poison apart. -/
def Memory.put (m : Memory) (a : Nat) : List Byte → Memory
  | [] => m
  | b :: r => Memory.put { m with cells := cellSet m.cells a b } (a + 1) r

/-- Whether the 32-byte sector of an address is poisoned. -/
def Memory.poisoned (m : Memory) (a : Nat) : Bool := m.poison.contains (a / 32)

/-- A sector's poison set or cleared. -/
def Memory.mark (m : Memory) (sector : Nat) (p : Bool) : Memory := { m with poison := markSet m.poison sector p }

/-- The sectors that `n` bytes at `a` touch. -/
def sectorsOf (a n : Nat) : List Nat :=
  if n = 0 then [] else (List.range ((a + n - 1) / 32 - a / 32 + 1)).map (· + a / 32)

/-- Whether a write of `n` bytes at `a` covers the whole of a sector. -/
def covers (a n sector : Nat) : Bool := decide (a ≤ 32 * sector ∧ 32 * sector + 32 ≤ a + n)

/-- Bytes written with their poison: a whole sector takes the poison of the data; a partial write leaves a poisoned
sector poisoned (R250). -/
def Memory.write (m : Memory) (a : Nat) (b : List Byte) (p : Bool) : Memory :=
  (sectorsOf a b.length).foldl
    (fun m sec => m.mark sec (p || (m.poison.contains sec && !covers a b.length sec))) (m.put a b)

/-- Whether any sector of a range is poisoned. -/
def Memory.anyPoison (m : Memory) (a n : Nat) : Bool := (sectorsOf a n).any (fun sec => m.poison.contains sec)

/-! ### Numbering (01, R11, R12) -/

/-- The stack of a global column. -/
def stackOf (col : Nat) : Nat := col / 64

/-- The cluster (domain number) of a global column. -/
def clusterOf (col : Nat) : Nat := col / 8

/-- The physical core at an active position of a column. -/
def coreOf (col : Nat) : Nat := 72 * (col / 64) + 9 * (col % 64 / 8) + col % 8

/-- The spare core of a column's cluster. -/
def spareOf (col : Nat) : Nat := 72 * (col / 64) + 9 * (col % 64 / 8) + 8

/-- The HBM4 site of a global column. -/
def siteOf (col : Nat) : Nat := 2 * (col / 64) + col % 64 / 32

/-- The column whose slice is the relief partner (08, R216). -/
def partnerOf (col : Nat) : Nat := if col % 2 = 0 then col + 1 else col - 1

/-! ### Address map (01, R21; 08, R201, R204; 09, R220) -/

/-- What a physical address names. -/
inductive Place where
  | hbm | scratch | host | registers | hole | remote
  deriving DecidableEq, Repr

/-- The map of R21; device numbers other than 0 above it (R220; LOG 23). -/
def placeOf (pa : Nat) : Place :=
  if pa ≥ 2 ^ 52 then .remote
  else if pa < 2 ^ 39 then .hbm
  else if pa < 2 ^ 40 then .hole
  else if pa < 2 ^ 40 + 2 ^ 33 then .scratch
  else if pa < 2 ^ 41 then .hole
  else if pa < 2 ^ 41 + 2 ^ 26 then .registers
  else if pa < 2 ^ 51 then .hole
  else .host

/-- The global column that holds a local HBM4 address or the low 39 bits of a remote one (08, R204, R205). -/
def homeColumn (pa : Nat) : Nat :=
  (bits pa 12 8 ^^^ bits pa 20 8 ^^^ bits pa 28 8 ^^^ bits pa 36 3) % 256

/-- `channel_addr` of R204. -/
def channelAddr (pa : Nat) : Nat := bits pa 20 19 * 2 ^ 12 + bits pa 0 12

/-- Frame row of a scratch aperture address (R201). -/
def scratchRow (pa : Nat) : Nat := bits (pa - 2 ^ 40) 22 9

/-- Stack of a scratch aperture address (R201). -/
def scratchStack (pa : Nat) : Nat := bits (pa - 2 ^ 40) 31 2

/-- Slice field of a scratch aperture address (R201). -/
def scratchField (pa : Nat) : Nat := bits (pa - 2 ^ 40) 16 6

/-- Slice of a scratch location; in a hashed row the slice field is XORed with O[12:7] (R201). -/
def scratchSlice (pa : Nat) (hashed : Bool) : Nat :=
  scratchField pa ^^^ (if hashed then bits (pa - 2 ^ 40) 7 6 else 0)

/-! ### Time (02, R43, R52) -/

/-- Elapsed time between two values of the time base. -/
def elapsed (start t : Nat) : Nat := (t + 2 ^ 48 - start % 2 ^ 48) % 2 ^ 48

/-- Elapsed time since `start`. -/
def State.since (s : State) (start : Nat) : Nat := elapsed start s.now

/-- Whether the time base stands at a tick of the microsecond timers (R52). -/
def State.atTick (s : State) : Bool := s.now % 1000 == 0

/-- The last tick at or before now. -/
def lastTick (now : Nat) : Nat := now / 1000 * 1000

/-- Whether a tick at which `ns` have elapsed since `start` is at or before now (R52: the first tick at or after expiry). -/
def State.expired (s : State) (start ns : Nat) : Bool :=
  decide (ns ≤ elapsed start (lastTick s.now) ∧ s.now - lastTick s.now ≤ s.since start)

/-- Whether the time base has reached a time that lay at most 2^40 ns ahead when it was set. -/
def State.passed (s : State) (t : Option Nat) : Bool :=
  match t with
  | none => true
  | some t => decide (elapsed t s.now < 2 ^ 48 - 2 ^ 40)

/-! ### Lodgings, galleys, commands -/

/-- Lodging `l`. -/
def State.lod (s : State) (l : Nat) : Lodging := s.lods.get l Lodging.reset

/-- Lodging `l` changed. -/
def State.modLod (s : State) (l : Nat) (f : Lodging → Lodging) : State :=
  { s with lods := s.lods.mod l Lodging.reset f }

/-- Galley `g` of lodging `l`. -/
def State.galley (s : State) (l g : Nat) : Galley := (s.lod l).galleys.get g Galley.reset

/-- A galley changed. -/
def State.modGalley (s : State) (l g : Nat) (f : Galley → Galley) : State :=
  s.modLod l (fun x => { x with galleys := x.galleys.mod g Galley.reset f })

/-- The lodgings there are. -/
def allLods : List Nat := List.range 256

/-- A command by number. -/
def State.cmd? (s : State) (id : Nat) : Option Cmd := s.cmds.find? (fun c => c.id == id)

/-- A command changed. -/
def State.modCmd (s : State) (id : Nat) (f : Cmd → Cmd) : State :=
  { s with cmds := s.cmds.map (fun c => if c.id == id then f c else c) }

/-- The commands of a galley, in ring order. -/
def State.galleyCmds (s : State) (l g : Nat) : List Cmd := s.cmds.filter (fun c => c.lod == l && c.g == g)

/-- A mailbox: function n for VF n, 256 for the PF. -/
def fnKey : Fn → Nat
  | .pf => 256
  | .vf n => n

/-- The function number that a detail carries (02, R48). -/
def fnNumber : Fn → Nat
  | .pf => 0xFFFF
  | .vf n => n

/-- The mailbox of a function. -/
def State.mbx (s : State) (fn : Fn) : Mailbox := s.mail.get (fnKey fn) Mailbox.reset

/-- A mailbox changed. -/
def State.modMbx (s : State) (fn : Fn) (f : Mailbox → Mailbox) : State :=
  { s with mail := s.mail.mod (fnKey fn) Mailbox.reset f }

/-- The porter of a stack. -/
def State.porter (s : State) (k : Nat) : Porter := s.porters.get k Porter.reset

/-- A porter changed. -/
def State.modPorter (s : State) (k : Nat) (f : Porter → Porter) : State :=
  { s with porters := s.porters.mod k Porter.reset f }

/-- The core of a column. -/
def State.core (s : State) (col : Nat) : ColCore := s.cores.get col ColCore.reset

/-- A column's core changed. -/
def State.modCore (s : State) (col : Nat) (f : ColCore → ColCore) : State :=
  { s with cores := s.cores.mod col ColCore.reset f }

/-- A slice. -/
def State.sliceAt (s : State) (col : Nat) : Slice := s.stn.slices.get col Slice.reset

/-- A slice changed. -/
def State.modSlice (s : State) (col : Nat) (f : Slice → Slice) : State :=
  { s with stn := { s.stn with slices := s.stn.slices.mod col Slice.reset f } }

/-- The Stonos registers of a stack. -/
def State.stnRegs (s : State) (k : Nat) : StnRegs := s.stn.regs.get k StnRegs.reset

/-- Stonos registers changed. -/
def State.modStnRegs (s : State) (k : Nat) (f : StnRegs → StnRegs) : State :=
  { s with stn := { s.stn with regs := s.stn.regs.mod k StnRegs.reset f } }

/-- The HBM4 registers of a stack. -/
def State.hbmRegs (s : State) (k : Nat) : HbmRegs := s.hbm.regs.get k HbmRegs.reset

/-- HBM4 registers changed. -/
def State.modHbmRegs (s : State) (k : Nat) (f : HbmRegs → HbmRegs) : State :=
  { s with hbm := { s.hbm with regs := s.hbm.regs.mod k HbmRegs.reset f } }

/-- A channel controller. -/
def State.channel (s : State) (col : Nat) : Channel := s.hbm.channels.get col Channel.reset

/-- A channel controller changed. -/
def State.modChannel (s : State) (col : Nat) (f : Channel → Channel) : State :=
  { s with hbm := { s.hbm with channels := s.hbm.channels.mod col Channel.reset f } }

/-- The number of a vertical lane. -/
def laneKey (l : Lane) : Nat :=
  ((2 * l.idx + ofBool l.up) * 4 + l.lane % 4) * 4 + (match l.link with | .column => 0 | .channel => 1 | .footing => 2)

/-- Lanes per direction of a vertical channel (11, R273). -/
def lanesOf : LinkKind → Nat
  | .column => 4
  | .channel => 2
  | .footing => 2

/-- A vertical lane. -/
def State.laneAt (s : State) (l : Lane) : LaneSt := s.vch.lanes.get (laneKey l) LaneSt.reset

/-- A vertical lane changed. -/
def State.modLane (s : State) (l : Lane) (f : LaneSt → LaneSt) : State :=
  { s with vch := { s.vch with lanes := s.vch.lanes.mod (laneKey l) LaneSt.reset f } }

/-- Whether a lane carries new lines: neither suspect nor failed (11, R274). -/
def LaneSt.healthy (x : LaneSt) : Bool := !x.suspect && !x.failed

/-- The lane that carries the line of an address (11, R274): A[8:7] of a column link or a footing port, A[7] of a channel link, or the next
healthy lane in ascending order, wrapping at the top; none carries a line where no lane is healthy. -/
def State.laneFor (s : State) (l : Lane) (addr : Nat) : Option Nat :=
  let n := lanesOf l.link
  ((List.range n).map (fun i => (addr / 128 + i) % n)).find? (fun i => (s.laneAt { l with lane := i }).healthy)

/-- Whether a vertical channel runs at reduced rate in either direction (11, R278). -/
def State.linkReduced (s : State) (k : LinkKind) (idx : Nat) : Bool :=
  [true, false].any (fun up => (List.range (lanesOf k)).any (fun i => !(s.laneAt { link := k, idx := idx, up := up, lane := i }).healthy))

/-- A column's vertical bundle. -/
def State.bundle (s : State) (col : Nat) : Bundle := s.vch.bundles.get col Bundle.reset

/-- A power domain. -/
def State.domain (s : State) (d : Nat) : Domain := s.pwr.domains.get d (Domain.reset d)

/-- A power domain changed. -/
def State.modDomain (s : State) (d : Nat) (f : Domain → Domain) : State :=
  { s with pwr := { s.pwr with domains := s.pwr.domains.mod d (Domain.reset d) f } }

/-- A Cytil port. -/
def State.port (s : State) (p : Nat) : CytilPort := s.cyl.ports.get p CytilPort.reset

/-- A Cytil port changed. -/
def State.modPort (s : State) (p : Nat) (f : CytilPort → CytilPort) : State :=
  { s with cyl := { s.cyl with ports := s.cyl.ports.mod p CytilPort.reset f } }

/-- Something put out. -/
def State.emit (s : State) (o : Out) : State := { s with out := s.out ++ [o] }

/-- One nanosecond passes: the device time base counts unless it is held or falls back, and no RW1C bit is fresh any more (11, R289; LOG 1,
LOG 4). -/
def State.tick (s : State) : State :=
  { s with now := if s.holding ∨ s.slow ≠ 0 then s.now else (s.now + 1) % 2 ^ 48, slow := s.slow - 1, fresh := [] }

/-- A RW1C bit that the hardware sets now (00, R9). -/
def State.setNow (s : State) (b : Rw1c) : State := { s with fresh := insertNew s.fresh b }

/-- A RW1C bit after a write: `old` before it, and whether the write has a 1 there. A bit set in the same nanosecond stays (00, R9). -/
def State.cleared (s : State) (b : Rw1c) (old one : Bool) : Bool := old && (!one || s.fresh.contains b)

/-- The error that a function logs in its AER capability for the host's answer to one of its reads (10, R262, R462): 1 Advisory Non-Fatal
Error for a poisoned completion, 2 Unsupported Request, 3 Completer Abort, 4 Completion Timeout. -/
def aerOf : HostAns → Option Nat
  | .data => none
  | .ep => some 1
  | .unsupported => some 2
  | .abort => some 3
  | .timeout => some 4

/-- Whether a host answer poisons what it answers (10, R262, R462). -/
def hostPoisons : HostAns → Bool
  | .ep => true
  | .abort => true
  | .timeout => true
  | _ => false

/-- The requester of a host access that serves a lodging: its VF, and the PF for the device's own, which goes as lodging 256 (01, R451). -/
def requester (lod : Nat) : Nat := if lod < 256 then lod else 256

/-- What the function that serves a lodging logs of the host's answer (10, R262, R462). -/
def State.logHost (s : State) (lod : Nat) (ans : HostAns) : State :=
  match aerOf ans with
  | some c => s.emit (.aer (requester lod) c)
  | none => s

/-- The contract of a lodging, where it has one. -/
def State.contract? (s : State) (l : Nat) : Option Contract := (s.lod l).contract

/-- Cache frames per slice of a lodging in a stack: c of R206. -/
def State.cacheFrames (s : State) (l k : Nat) : Nat :=
  match s.contract? l with
  | some c => c.cacheFrames.getD k 0
  | none => 0

/-- One free value taken (LOG 13). -/
def State.takeFree (s : State) : State := { s with freeAt := s.freeAt + 1 }

/-- The bytes that another key than the one of the last encryption makes of a sector (10, R263; LOG 14). -/
def garbledSector (sector tag : Nat) : List Byte := (List.range 32).map (fun i => Config.garbled sector tag i)

end Sys2Proof.Machine
end

