-- ==== Sys2Proof/Machine/Flags.lean ====
section
/-! DEFINITION. What the device reports: status codes and notices (02, R47, R48), MSI-X messages (02, R456), the event log of a
lodging (13, R334), ledger entries (19, R410 to R414) and the counters (19, R422, R424). -/

namespace Sys2Proof.Machine

/-! ### Status codes (02, R48) -/

/-- A status and its detail. -/
abbrev Status := Nat × Nat

/-- The class of a status. -/
def statusClass (st : Nat) : Nat := st / 256

/-- Whether a command's signal is updated at its end: class 0x00 or 0x01 (R44). -/
def statusOk (st : Nat) : Bool := decide (statusClass st ≤ 1)

/-- The stage of a command at which a status is found (R47): 0 check, 1 translation and permission, 2 execution (LOG 133). -/
def statusStage (st : Nat) : Nat :=
  if statusClass st = 2 ∨ st = 0x0306 then 0 else if st = 0x0300 ∨ st = 0x0301 ∨ st = 0x0304 then 1 else 2

/-- The status of the higher class, within a class that of the earlier stage, and within a stage the one found first (R47). -/
def worse (old : Option Status) (new : Status) : Option Status :=
  match old with
  | none => some new
  | some o =>
    if statusClass new.1 > statusClass o.1 then some new
    else if statusClass new.1 = statusClass o.1 ∧ statusStage new.1 < statusStage o.1 then some new
    else some o

/-- A failure noted while a command runs. -/
def Cmd.fail (c : Cmd) (st d : Nat) : Cmd := { c with failing := worse c.failing (st, d) }

/-- A notice of class 0x01 noted while a command runs; each status once. -/
def Cmd.notice (c : Cmd) (st d : Nat) : Cmd :=
  if c.notices.any (fun n => n.1 == st) then
    -- the lane and spare bits of `DEGRADED_RATE` gather in one detail (R48)
    if st = 0x0103 then
      { c with notices := c.notices.map (fun n => if n.1 = st then (st, n.2 ||| d) else n) }
    else c
  else { c with notices := c.notices ++ [(st, d)] }

/-- The status a command ends with: its failure, else its first notice, else `OK` (R47). -/
def Cmd.outcome (c : Cmd) : Status :=
  match c.failing with
  | some f => f
  | none => c.notices.headD (0, 0)

/-- A failure of a command of the state. -/
def State.failCmd (s : State) (id st d : Nat) : State := s.modCmd id (fun c => c.fail st d)

/-- A notice of a command of the state. -/
def State.noticeCmd (s : State) (id st d : Nat) : State := s.modCmd id (fun c => c.notice st d)

/-- Layer and operator identifiers of a command (19, R409); the second number carries the QoS class of its traffic above bit 15. -/
def Cmd.ids (c : Cmd) : Nat × Nat := (c.layer, c.oper % 2 ^ 16 + 2 ^ 16 * c.qclass)

/-- Identifiers of a command of the state. -/
def State.idsOf (s : State) (id : Nat) : Nat × Nat :=
  match s.cmd? id with
  | some c => c.ids
  | none => (0, 0)

/-! ### Interrupts (02, R456) -/

/-- The MSI-X of a function. -/
def State.msixFn (s : State) (k : Nat) : MsixFn := s.msix.get k MsixFn.reset

/-- A vector's row. -/
def MsixFn.row (m : MsixFn) (v : Nat) : MsixVec := m.vectors.get v MsixVec.reset

/-- An event of a vector: a message, or its pending bit while the message is held back (R456). -/
def State.raise (s : State) (k v : Nat) : State :=
  let m := s.msixFn k
  if m.enable && !m.functionMask && !(m.row v).masked then s.emit (.msix k v)
  else { s with msix := s.msix.set k { m with vectors := m.vectors.mod v MsixVec.reset (fun r => { r with pending := true }) } }

/-- Messages of pending vectors that the masks now allow (R456). -/
def State.releasePending (s : State) (k : Nat) : State :=
  let m := s.msixFn k
  if m.enable && !m.functionMask then
    let due := (m.vectors.filter (fun e => e.2.pending && !e.2.masked)).map (·.1)
    let m := { m with vectors := m.vectors.map (fun e => if e.2.pending && !e.2.masked then (e.1, { e.2 with pending := false }) else e) }
    { s with msix := s.msix.set k m, out := s.out ++ due.map (fun v => Out.msix k v) }
  else s

/-- A galley's vector, raised where `MSIX_EN` is 1 (R27, R29, R41, R45). -/
def State.raiseGalley (s : State) (l g : Nat) : State :=
  let d := (s.galley l g).desc
  if d.msixEn then s.raise l d.msixVector else s

/-! ### Lodging events (13, R334) -/

/-- An event logged for a lodging; it raises vector 0 of its VF. -/
def State.event (s : State) (l code resource detail : Nat) : State :=
  let s := s.modLod l (fun x =>
    let e : LodEvent := { seq := x.nextEvent, code := code, resource := resource, detail := detail, time := s.now }
    { x with events := (x.events ++ [e]).drop (x.events.length + 1 - 64), nextEvent := wrap32 (x.nextEvent + 1) })
  s.raise l 0

/-! ### Ledgers (19) -/

/-- The ledger of a unit. -/
def State.ledger (s : State) (u : Nat) : Ledger := s.dbg.ledgers.get u Ledger.reset

/-- An entry of R412. -/
def ledgerEntry (time code arg layer oper : Nat) : Nat :=
  bits time 4 20 * 2 ^ 44 + code % 2 ^ 8 * 2 ^ 36 + arg % 2 ^ 4 * 2 ^ 32 + layer % 2 ^ 16 * 2 ^ 16 + oper % 2 ^ 16

/-- The anchor of R413 for an event at `time`. -/
def ledgerAnchor (time : Nat) : Nat := bits time 4 20 * 2 ^ 44 + 0xFF * 2 ^ 36 + bits time 24 24

/-- Whether an entry is an anchor. -/
def isAnchor (e : Nat) : Bool := bits e 36 8 == 0xFF

/-- One entry pushed; the 257th drops the oldest, and an overwritten anchor gives `BASE` its bits (R411, R413). -/
def Ledger.push (l : Ledger) (e : Nat) : Ledger :=
  let es := e :: l.entries
  match es.drop 256 with
  | [] => { l with entries := es }
  | o :: _ => { l with entries := es.take 256, base := if isAnchor o then bits o 0 24 else l.base }

/-- An event written, preceded by an anchor when the high time bits changed (R413). -/
def Ledger.write (l : Ledger) (time code arg layer oper : Nat) : Ledger :=
  let l := if bits time 24 24 = l.h then l else { l.push (ledgerAnchor time) with h := bits time 24 24 }
  l.push (ledgerEntry time code arg layer oper)

/-- A ledger entry of a unit. -/
def State.log (s : State) (u code arg layer oper : Nat) : State :=
  { s with dbg := { s.dbg with ledgers := s.dbg.ledgers.set u ((s.ledger u).write s.now code arg layer oper) } }

/-- Unit numbers of R410. -/
def unitCluster (d : Nat) : Nat := 288 + d
/-- A Stonos slice's unit. -/
def unitSlice (col : Nat) : Nat := 320 + col
/-- A channel controller's unit. -/
def unitChannel (col : Nat) : Nat := 576 + col
/-- A porter's unit. -/
def unitPorter (k : Nat) : Nat := 832 + k
/-- The unit of the DMA engine of a global channel. -/
def unitEngine (gch : Nat) : Nat := 836 + 4 * (gch / 32) + gch % 32 / 8
/-- A Cytil port's unit. -/
def unitPort (p : Nat) : Nat := 852 + p
/-- A die-to-die link's unit: link 2s toward s + 1, 2s + 1 toward s − 1. -/
def unitLink (i : Nat) : Nat := 864 + i
/-- A regulator's unit. -/
def unitRegulator (d : Nat) : Nat := 872 + d
/-- The housekeeping logic of footing die k. -/
def unitHousekeeping (k : Nat) : Nat := 922 + k
/-- The Innkeeper's unit. -/
def unitInnkeeper : Nat := 926
/-- The hardware safety supervisor's unit. -/
def unitSupervisor : Nat := 927

/-- The physical core that serves a column: the original, or the cluster's spare (17). -/
def State.physCore (s : State) (col : Nat) : Nat :=
  match (s.core col).served with
  | .spare => spareOf col
  | _ => coreOf col

/-! ### Requests to the Innkeeper (17, R379, R380) -/

/-- A takeover asked of the Innkeeper, once for each resource (17, R380, R385). -/
def State.askTakeover (s : State) (t : Takeover) : State :=
  if s.rel.queue.any (fun x => x.kind == t.kind && x.place == t.place && x.bank == t.bank && x.row == t.row) then s
  else { s with rel := { s.rel with queue := s.rel.queue ++ [t] } }

/-- A core takeover asked for (04, R95; 17, R381). -/
def State.askCore (s : State) (col : Nat) : State :=
  s.askTakeover { kind := .core, stack := stackOf col, place := col, bank := 0, row := 0, asked := s.now, started := none }

/-- A bank takeover asked for (17, R382). -/
def State.askBank (s : State) (col bank : Nat) : State :=
  s.askTakeover { kind := .bank, stack := stackOf col, place := col, bank := bank, row := 0, asked := s.now, started := none }

/-- A row takeover asked for (17, R382). -/
def State.askRow (s : State) (col bank row : Nat) : State :=
  s.askTakeover { kind := .row, stack := stackOf col, place := col, bank := bank, row := row, asked := s.now, started := none }

/-- A row that meets the row test of R379: its takeover is asked for, and its bank's where 8 of its rows meet it in one pass. -/
def State.rowTest (s : State) (col bank row : Nat) : State :=
  let x := s.sliceAt col
  if x.retired || x.rowMap.contains (bank, row) || x.bankMap == some bank then s
  else
    let s := s.modSlice col (fun x => { x with badRows := insertNew x.badRows (bank, row) })
    if (s.sliceAt col).badRows.countP (fun r => r.1 == bank) ≥ 8 then s.askBank col bank else s.askRow col bank row

/-! ### Counters (19, R422, R424) -/

/-- Whether a counter's filters let an event pass (R424). -/
def PmcCfg.counts (c : PmcCfg) (event : Nat) (lod : Option Nat) (layer oper : Nat) : Bool :=
  c.en && c.event == event && (!c.lodgingEn || lod == some c.lodging) && (!c.layerEn || c.layer == layer)
    && (!c.operEn || c.oper == oper)

/-- `n` events of a kind that arise in a stack. -/
def State.count (s : State) (stack event : Nat) (lod : Option Nat) (ids : Nat × Nat) (n : Nat) : State :=
  { s with dbg := { s.dbg with
      pmcValue := s.dbg.pmcCfg.foldl (fun t e =>
        if e.1 / 512 = stack ∧ e.2.counts event lod ids.1 (ids.2 % 2 ^ 16) then t.set e.1 ((t.get e.1 0 + n) % 2 ^ 64) else t)
        s.dbg.pmcValue } }

/-- Fixed counters by offset ÷ 8 from 0xC000 (19, registers). -/
def fixedOf (stack off : Nat) : Nat := (0x100 * stack + off) / 8

/-- Bytes added to a fixed counter, modulo 2^64 (R422). -/
def State.addBytes (s : State) (k n : Nat) : State :=
  { s with dbg := { s.dbg with fixed := s.dbg.fixed.set k ((s.dbg.fixed.get k 0 + n) % 2 ^ 64) } }

/-! ### Grants of regulated resources (14, R336, R337) -/

/-- The number of a flow: the traffic of a lodging (256: the device itself) in one class at one resource. -/
def flowKey (res lod cls : Nat) : Nat := (res * 257 + lod) * 8 + cls

/-- Bytes granted to a flow in the current window. -/
def State.grant (s : State) (res lod cls n : Nat) : State :=
  let f := fun (x : Flow) => ({ x with granted := x.granted + n } : Flow)
  { s with qos := { s.qos with flows := s.qos.flows.mod (flowKey res (min lod 256) (cls % 8)) Flow.reset f } }

/-- The class that traffic identifiers carry. -/
def classOf (ids : Nat × Nat) : Nat := ids.2 / 2 ^ 16 % 8

/-- A notice for the running commands of a lodging whose traffic carries some identifiers. -/
def State.noticeIds (s : State) (lod : Nat) (ids : Nat × Nat) (st d : Nat) : State :=
  { s with cmds := s.cmds.map (fun (c : Cmd) => if c.lod = lod ∧ c.phase = .running ∧ c.ids = ids then c.notice st d else c) }

/-- The notice 0x0103 for the running commands whose traffic a link or channel in repair carries (10, R247; 11, R278). -/
def State.degraded (s : State) (lod : Nat) (ids : Nat × Nat) (b : Nat) : State :=
  s.noticeIds lod ids 0x0103 b

end Sys2Proof.Machine
end

