-- ==== Sys2Proof/Machine/Remote.lean ====
section
/-! DEFINITION. Sending over Cytil: the port toward a device, the transfer, its place in the replay buffer and its credits
(11, R282 to R287, R290), and the transactions that await a response. -/

namespace Sys2Proof.Machine

/-! ### Fabric and Cytil operations (11, R266) -/

/-- `OP` codes of R266. -/
def opRead : Nat := 0x01
/-- `WRITE`. -/
def opWrite : Nat := 0x02
/-- `WRITE_PARTIAL`. -/
def opWritePartial : Nat := 0x03
/-- `ATOMIC`. -/
def opAtomic : Nat := 0x04
/-- `ADD_TO_LINE`. -/
def opAddToLine : Nat := 0x05
/-- `WRITE_HOME`. -/
def opWriteHome : Nat := 0x06
/-- `SIGNAL`. -/
def opSignal : Nat := 0x07
/-- `DATA`. -/
def opData : Nat := 0x10
/-- `ACK`. -/
def opAck : Nat := 0x11
/-- `RESULT`. -/
def opResult : Nat := 0x12
/-- `FAULT`. -/
def opFault : Nat := 0x13

/-- The virtual channel of an operation (R283): 0 requests, 1 responses, 2 signals, 3 write-homes. -/
def vcOf (op : Nat) : Nat := if op ≥ 0x10 then 1 else if op = opSignal then 2 else if op = opWriteHome then 3 else 0

/-- Data flits of a transfer: 256 bytes each for the operations that carry data flits, and for an atomic whose operands do not fit
`SMALL` (R282; LOG 35). -/
def dataFlits (op n : Nat) : Nat :=
  if op = opWrite ∨ op = opWritePartial ∨ op = opData ∨ op = opWriteHome ∨ (op = opAtomic ∧ n > 28) then (n + 255) / 256 else 0

/-- The ports toward a device that are up (R286, R287). -/
def State.routePorts (s : State) (dev : Nat) : List Nat :=
  (setBits (s.cyl.routes.get dev 0) 12).filter (fun p => (s.port p).up)

/-- Whether a device can be reached: domain traffic permitted and a port up (R286, R290). -/
def State.reachable (s : State) (dev : Nat) : Bool := s.cyl.enable && !(s.routePorts dev).isEmpty

/-- The port of a transfer: position ADDR[19:7] mod w (R286). -/
def State.portFor (s : State) (dev addr : Nat) : Option Nat :=
  let ps := s.routePorts dev
  ps[bits addr 7 13 % ps.length]?

/-- Flits a port may still keep in its replay buffer (R284: 1,024). -/
def CytilPort.replayRoom (p : CytilPort) : Nat := 1024 - (p.replay.map (·.flits)).sum

/-- Flit buffers of a virtual channel that the sender still holds credit for (R283: 128). -/
def CytilPort.credit (p : CytilPort) (vc : Nat) : Nat := 128 - p.spent.getD vc 0

/-- What became of a transfer that was to be sent. -/
inductive Sent where
  | unreachable
  | held
  | sent (s : State)

/-- Bytes of part of a line with their enables, as a `WRITE_PARTIAL` transfer carries them: the line's 128 bytes, then 16 bytes of byte
enables (LOG 35). -/
def partialBytes (off : Nat) (b : List Byte) : List Byte :=
  patch (List.replicate 128 0) off b ++ leBytes 16 ((2 ^ b.length - 1) * 2 ^ off)

/-- An atomic's operands as a transfer carries them: 8-byte operands in `SMALL`, wider ones as the fabric flit does (LOG 35). -/
def packAtom (b : List Byte) : List Byte := if byteAt b 1 ≤ 8 then slice b 0 4 ++ slice b 4 8 ++ slice b 20 8 else slice b 0 36

/-- Operand bytes of an atomic on its way: operation, width, ordering, byte offset, operand, comparison (LOG 35). -/
def atomBytes (op : AtomOp) (size : Nat) (order : MemOrder) (off src cmp : Nat) : List Byte :=
  let code : Nat := match op with
    | .exchange => 0 | .compareExchange => 1 | .add => 2 | .and => 3 | .or => 4 | .xor => 5 | .smin => 6 | .smax => 7
    | .umin => 8 | .umax => 9 | .fadd => 10 | .fmin => 11 | .fmax => 12
  let ord : Nat := match order with | .relaxed => 0 | .acquire => 1 | .release => 2 | .acqRel => 3
  leBytes 1 code ++ leBytes 1 size ++ leBytes 1 ord ++ leBytes 1 off ++ leBytes 16 src ++ leBytes 16 cmp

/-- An operation code of `atomBytes`. -/
def atomOfCode (n : Nat) : Option AtomOp :=
  [AtomOp.exchange, .compareExchange, .add, .and, .or, .xor, .smin, .smax, .umin, .umax, .fadd, .fmin, .fmax][n]?

/-- The command whose traffic a transaction is. -/
def State.txnCmd (s : State) (k : TxnKind) : Option Nat :=
  let blk := fun (b : Nat) => (s.blocks.find? (fun x => x.id == b)).map (·.cmd)
  match k with
  | .load b _ _ _ _ => blk b
  | .store b _ _ _ _ _ => blk b
  | .atomic b _ _ _ => blk b
  | .hostAtomic b _ _ _ => blk b
  | .feed b _ => blk b
  | .dma ch _ => (s.dma.chans.get ch DmaCh.reset).cmd
  | .writeHome (c :: _) _ => some c
  | .remoteWrite c _ => c
  | .remoteSignal c => some c
  | _ => none

/-- Lodging and identifiers of the traffic of a transaction (14, R336; 19, R409). -/
def State.trafficOf (s : State) (txn : Option Nat) : Nat × Nat × Nat :=
  match txn.bind (fun n => s.fab.txns.find? (fun t => t.id == n)) with
  | none => (256, 0, 0)
  | some t =>
    (t.lod,
      match (s.txnCmd t.kind).bind s.cmd?, t.kind with
      | some c, _ => c.ids
      | none, .dma ch _ => (0, 2 ^ 16 * (s.dma.chans.get ch DmaCh.reset).act.qclass)
      | none, .flit f => (f.layer, f.oper + 2 ^ 16 * f.qclass)
      | none, _ => (0, 0))

/-- The header of a transfer of this device (11, R282). -/
def State.headOf (s : State) (txn : Option Nat) : XferHead :=
  let t := s.trafficOf txn
  { src := s.cyl.device, domainTag := (match s.contract? t.1 with | some c => c.domainTag | none => 0), qclass := classOf t.2,
    layer := t.2.1, oper := t.2.2 % 2 ^ 16 }

/-- A transfer put on port `p`: sequence, replay buffer, credits, bytes counted. A key is renewed before 2^32 transfers (R288). A transfer
that comes from elsewhere keeps its header. -/
def State.putTransfer (s : State) (p dst op addr tag : Nat) (bytes : List Byte) (txn : Option Nat) (poison : Bool)
    (head : Option XferHead := none) : State :=
  let flits := 1 + dataFlits op bytes.length
  let vc := vcOf op
  let x : SentXfer := { seq := (s.port p).txSeq, flits := flits, tries := 0, sentAt := s.now, dst := dst, op := op, addr := addr, tag := tag,
                        bytes := bytes, poison := poison, txn := txn, head := head.getD (s.headOf txn), req := 0, aged := false }
  let s := s.modPort p (fun q =>
    { q with
      replay := q.replay ++ [x],
      txSeq := (q.txSeq + flits) % 4096,
      spent := q.spent.set vc (q.spent.getD vc 0 + flits),
      keyEpoch := if q.encrypted ∧ q.keyCount + 1 = 2 ^ 32 - 1 then q.keyEpoch + 1 else q.keyEpoch,
      keyCount := if q.encrypted then (q.keyCount + 1) % (2 ^ 32 - 1) else q.keyCount })
  let s := s.addBytes (fixedOf (p / 3) (0x40 + 0x10 * (p % 3))) (256 * flits)
  let s := s.grant (20 + p) (s.trafficOf txn).1 x.head.qclass (256 * flits)
  let owed := (s.port p).owed
  (s.modPort p (fun q => { q with owed := q.owed.map (fun n => n - min n 255) })).emit
    (.cytil p x (((s.port p).rxSeq + 4095) % 4096) (owed.map (fun n => min n 255)))

/-- Whether a transfer for the same line is still unacknowledged on another port, or waits for credit before this one (R270, R287, R291). -/
def State.lineElsewhere (s : State) (p dst addr : Nat) : Bool :=
  s.cyl.ports.any (fun e => e.1 != p && e.2.replay.any (fun x => x.dst == dst && x.addr / 128 == addr / 128))
    || s.cyl.waiting.any (fun x => x.dst == dst && x.addr / 128 == addr / 128)

/-- A transfer sent to a device, held for want of credit or replay room or behind its line on another port, or with nowhere to go. -/
def State.cylSend (s : State) (dst op addr tag : Nat) (bytes : List Byte) (txn : Option Nat) (poison : Bool := false)
    (head : Option XferHead := none) : Sent :=
  if !s.reachable dst then .unreachable
  else
    match s.portFor dst addr with
    | none => .unreachable
    | some p =>
      let flits := 1 + dataFlits op bytes.length
      if (s.port p).credit (vcOf op) < flits ∨ (s.port p).replayRoom < flits ∨ s.lineElsewhere p dst addr then .held
      else .sent (s.putTransfer p dst op addr tag bytes txn poison head)

/-- A transfer that waits at its port, as a request with a number of its own (14, R338). -/
def State.enqueue (s : State) (x : SentXfer) : State :=
  { s with
    cyl := { s.cyl with waiting := s.cyl.waiting ++ [{ x with sentAt := s.now, req := s.qos.nextReq, aged := false }] },
    qos := { s.qos with nextReq := s.qos.nextReq + 1 } }

/-- A transfer sent, or put behind those that wait for credit; `none` where its device cannot be reached. -/
def State.sendOrWait (s : State) (dst op addr tag : Nat) (bytes : List Byte) (txn : Option Nat) (poison : Bool := false)
    (head : Option XferHead := none) : Option State :=
  match s.cylSend dst op addr tag bytes txn poison head with
  | .sent s' => some s'
  | .unreachable => none
  | .held => some (s.enqueue { seq := 0, flits := 1 + dataFlits op bytes.length, tries := 0, sentAt := s.now, dst := dst, op := op, addr := addr,
                               tag := tag, bytes := bytes, poison := poison, txn := txn, head := head.getD (s.headOf txn), req := 0, aged := false })

/-- A response sent to the device that asked, or waiting for credit; one whose device cannot be reached is lost. -/
def State.cylReply (s : State) (dst op addr tag : Nat) (bytes : List Byte) (poison : Bool) (head : Option XferHead := none) : State :=
  (s.sendOrWait dst op addr tag bytes none poison head).getD s

/-! ### Transactions -/

/-- A new transaction and its number. -/
def State.newTxn (s : State) (lod addr : Nat) (kind : TxnKind) : State × Nat :=
  ({ s with fab := { s.fab with
      txns := s.fab.txns ++ [{ id := s.fab.nextTxn, lod := lod, addr := addr, issued := s.now, kind := kind, got := [], cmd := none, mark := 0 }],
      nextTxn := s.fab.nextTxn + 1 } }, s.fab.nextTxn)

/-- A transaction by number. -/
def State.txn? (s : State) (id : Nat) : Option Txn := s.fab.txns.find? (fun t => t.id == id)

/-- A transaction by the tag of its response: the low 16 bits of its number on Cytil, the low 10 on the fabric. -/
def State.txnByTag? (s : State) (tag width : Nat) : Option Txn := s.fab.txns.find? (fun t => t.id % 2 ^ width == tag)

/-- A transaction ended. -/
def State.dropTxn (s : State) (id : Nat) : State :=
  { s with fab := { s.fab with txns := s.fab.txns.filter (fun t => t.id != id) } }

/-- The device number of a global address (09, R220). -/
def deviceOf (pa : Nat) : Nat := bits pa 52 10

/-- The local physical address at its home. -/
def localOf (pa : Nat) : Nat := pa % 2 ^ 52

/-- The stack of an address at its home (01, R21; 08, R201, R204). -/
def homeStack (pa : Nat) : Nat :=
  match placeOf (localOf pa) with
  | .scratch => scratchStack (localOf pa)
  | .host => 0
  | _ => stackOf (homeColumn (localOf pa % 2 ^ 39))

/-- A failed status in the form the issuing command reports it (02, R48): the device for 0x0305, the stack for 0x0501, the port for 0x0502,
else its operand. -/
def failDetail (st d operand addr : Nat) : Nat :=
  if st = 0x0305 then deviceOf addr else if st = 0x0501 then homeStack addr else if st = 0x0502 then d else operand

end Sys2Proof.Machine
end

