-- ==== Sys2Proof/Machine/Home.lean ====
section
/-! DEFINITION. The point of coherence: the HBM4 sector code with its valid bits and keys (10), the words of Stonos (08), the cache
of a lodging with its replacement and relief (08), and the reading and writing of one sector at its home by any agent. -/

namespace Sys2Proof.Machine

/-! ### The sector code (10, R243 to R247) -/

/-- Multiplication by α = 0x02 in GF(2^8) with x^8 + x^4 + x^3 + x^2 + 1. -/
def gfDouble (a : Nat) : Nat := if 2 * a ≥ 256 then (2 * a) ^^^ 0x11D else 2 * a

/-- α^`n` × `a`. -/
def gfShift (a : Nat) : Nat → Nat
  | 0 => a
  | n + 1 => gfDouble (gfShift a n)

/-- Error symbols gathered: one entry for a symbol, none that is zero. -/
def gather (e : List (Nat × Nat)) : List (Nat × Nat) :=
  ((List.range 36).map (fun j => (j, e.foldl (fun a x => if x.1 = j then a ^^^ x.2 else a) 0))).filter (fun x => x.2 != 0)

/-- Syndrome i of an error pattern; symbol j is the coefficient of x^(35 − j) (R243). -/
def syndrome (e : List (Nat × Nat)) (i : Nat) : Nat := e.foldl (fun a x => a ^^^ gfShift x.2 (i * (35 - x.1))) 0

/-- What the decoder makes of a received word, given its difference from a codeword. -/
inductive RsResult where
  | clean
  | one (symbol value : Nat)
  | far
  deriving DecidableEq, Repr

/-- Whether a word is a codeword, within one symbol of one, or neither. -/
def rsDecode (e : List (Nat × Nat)) : RsResult :=
  let s0 := syndrome e 0
  let s1 := syndrome e 1
  let s2 := syndrome e 2
  let s3 := syndrome e 3
  if s0 = 0 ∧ s1 = 0 ∧ s2 = 0 ∧ s3 = 0 then .clean
  else
    match (List.range 36).find? (fun j =>
      s0 != 0 && s1 == gfShift s0 (35 - j) && s2 == gfShift s0 (2 * (35 - j)) && s3 == gfShift s0 (3 * (35 - j))) with
    | some j => .one j s0
    | none => .far

/-- The poison encoding (R245). -/
def poisonPattern : List (Nat × Nat) := [(32, 0x5A), (33, 0x5A), (34, 0x5A), (35, 0x5A)]

/-- The byte lane of a symbol: 8 for the ECC lane (R244). -/
def laneOf (symbol : Nat) : Nat := if symbol ≥ 32 then 8 else symbol % 8

/-- The decoder's verdict on a sector (R246, R247, R248). -/
inductive Verdict where
  | asStored
  | corrected (symbol : Nat)
  /-- Delivered unpoisoned with a wrong value: three or more symbols, or an error beside an erased lane. -/
  | wrong (counted : Bool)
  | poisonRead
  | uncorrectable
  /-- The channel is failed. -/
  | channelFailed
  deriving DecidableEq, Repr

/-- Decoding of a sector whose stored symbols differ by `errs` from the codeword of its data and poison. -/
def decodeSector (errs : List (Nat × Nat)) (poison : Bool) (ch : Channel) : Verdict :=
  if ch.failed || ch.retired then .channelFailed
  else if ch.marked then
    -- the marked lane's symbols are erasures; an error elsewhere cannot be detected (R247), and poison is kept (R260; LOG 24)
    if poison then .poisonRead
    else
      match gather errs with
      | [] => .asStored
      | (j, v) :: r => if ((j, v) :: r).all (fun x => laneOf x.1 == ch.lane) then .corrected j else .wrong false
  else
    let p := gather (if poison then errs ++ poisonPattern else errs)
    match rsDecode p with
    | .clean => if p = [] then .asStored else .wrong false
    | .one j v => if gather (p ++ [(j, v)]) = [] then .corrected j else .wrong true
    | .far =>
      match rsDecode (gather (p ++ poisonPattern)) with
      | .far => .uncorrectable
      | _ => .poisonRead

/-- A correction located in a lane (R247). -/
def Channel.located (c : Channel) (lane : Nat) : Channel :=
  if c.streakLane = lane ∧ c.streak ≠ 0 then { c with streak := c.streak + 1 } else { c with streakLane := lane, streak := 1 }

/-! ### Words of Stonos (08, R198, R201, R202, R219) -/

/-- Whether a frame row of a stack is assigned as hashed scratch (R200). -/
def State.rowHashed (s : State) (k row : Nat) : Bool :=
  s.lods.any (fun e =>
    match e.2.contract with
    | some c => decide (c.hashFirst.getD k 0 ≤ row ∧ row < c.hashFirst.getD k 0 + c.hashRows.getD k 0)
    | none => false)

/-- The global column whose slice stores a scratch address. -/
def State.scratchColumn (s : State) (pa : Nat) : Nat :=
  64 * scratchStack pa + scratchSlice pa (s.rowHashed (scratchStack pa) (scratchRow pa))

/-- The stack of a scratch address whose frame was withdrawn with its retired slice (17, R386): an access ends with 0x0501. -/
def State.withdrawn (s : State) (pa : Nat) : Option Nat :=
  if placeOf pa = .scratch then
    (if (s.sliceAt (s.scratchColumn pa)).retired then some (scratchStack pa) else none)
  else none

/-- The slice-local line index L of a scratch address (R202). -/
def scratchLine (pa : Nat) : Nat := 512 * scratchRow pa + bits (pa - 2 ^ 40) 7 9

/-- The number of a stored word: scratch words by slice, words of cache lines above 2^40 by address. -/
def State.wordKey (s : State) (pa : Nat) : Nat :=
  if placeOf pa = .scratch then s.scratchColumn pa * 2 ^ 22 + scratchLine pa * 16 + bits pa 3 4 else 2 ^ 40 + pa / 8

/-- The column whose slice holds the word of a scratch address or of a cached line. -/
def State.wordColumn (s : State) (pa : Nat) : Nat :=
  if placeOf pa = .scratch then s.scratchColumn pa
  else
    match s.stn.lines.find? (fun l => l.line == pa / 128 && (match l.kind with | .localLine _ _ => true | _ => false)) with
    | some l => l.col
    | none => homeColumn pa

/-- A bank that the spec leaves open: the tag store chooses that of a cache line (R202; LOG 13). -/
def State.freeBank (s : State) : Nat := (Config.freeByte s.freeAt 0).toNat % 16

/-- A row of such a bank. -/
def State.freeRow (s : State) : Nat := ((Config.freeByte s.freeAt 1).toNat + 256 * (Config.freeByte s.freeAt 2).toNat) % 2048

/-- The bank for a ledger entry: R202 for scratch; free for a cache line. -/
def State.wordBank (s : State) (pa : Nat) : Nat :=
  if placeOf pa = .scratch then bits (scratchLine pa) 0 4 ^^^ bits (scratchLine pa) 8 4 else s.freeBank

/-- The row of a word in its bank: 8 lines of each of the 16 banks to a row of 1 KiB (R197); free for a cache line, as its bank is. -/
def State.wordRow (s : State) (pa : Nat) : Nat := if placeOf pa = .scratch then scratchLine pa / 128 else s.freeRow

/-- Flipped bits of a word: data and check together. -/
def flipCount (e : Nat × Nat) : Nat := popcount e.1 64 + popcount e.2 8

/-- Whether SEC-DED delivers a word as corrected: one flipped bit; three or more are the part's (LOG 18). -/
def wordCorrected (key : Nat) (e : Nat × Nat) : Bool :=
  flipCount e == 1 || (decide (flipCount e ≥ 3) && Config.multiFlipCorrected key (flipCount e))

/-- A stored word as its reader's decoder meets it: a corrected word is counted, an uncorrectable one counted and logged; the flag says that
it was uncorrectable (R198; 17, R379). -/
def State.meetWord (s : State) (key col bank row : Nat) (ids : Nat × Nat) : State × Bool :=
  let e := s.stn.wordErrs.get key (0, 0)
  if flipCount e = 0 then (s, false)
  else if wordCorrected key e then (s.modStnRegs (stackOf col) (fun r => { r with ceCount := wrap32 (r.ceCount + 1) }), false)
  else
    let s := s.modStnRegs (stackOf col) (fun r => { r with ueCount := wrap32 (r.ueCount + 1) })
    (((s.log (unitSlice col) 0x04 bank ids.1 ids.2).rowTest col bank row).takeFree, true)

/-- Whether a local line in cache holds a sector clean. -/
def State.heldClean (s : State) (sector : Nat) : Bool :=
  s.stn.lines.any (fun l => l.line == sector / 4 &&
    (match l.kind with | .localLine present dirty => bit present (sector % 4) && !bit dirty (sector % 4) | _ => false))

/-- What the HBM4 array holds of a sector: the coherent value, but where a cache holds the sector clean with another (10, R249, R256). -/
def State.arraySector (s : State) (sector : Nat) : List Byte × Bool :=
  s.hbm.under.get sector (s.mem.read (32 * sector) 32, s.mem.poisoned (32 * sector))

/-- The array's value of a sector kept before the coherent one changes without it. -/
def State.keepArray (s : State) (sector : Nat) : State :=
  { s with hbm := { s.hbm with under := s.hbm.under.set sector (s.arraySector sector) } }

/-- Word `w` of a sector as its reader's decoder meets it: an uncorrectable one poisons the sector where it is held, and not in HBM4 while
the line is clean. A scratch sector whose valid bit is clear reports no error (R198). -/
def State.checkWord (s : State) (sector w : Nat) (ids : Nat × Nat) : State :=
  if placeOf (32 * sector) = .scratch ∧ !s.stn.valid.contains sector then s
  else
    let pa := 32 * sector + 8 * w
    let r := s.meetWord (s.wordKey pa) (s.wordColumn pa) (s.wordBank pa) (s.wordRow pa) ids
    if r.2 then
      let s := if r.1.heldClean sector then r.1.keepArray sector else r.1
      { s with mem := s.mem.mark sector true }
    else r.1

/-- The words of a sector as a reader's decoder meets them. -/
def State.checkWords (s : State) (sector : Nat) (ids : Nat × Nat) : State :=
  (List.range 4).foldl (fun s w => s.checkWord sector w ids) s

/-- One word written in a slice: its old flips are gone, and an armed flip mask inverts its bits (R219). -/
def State.writeWord (s : State) (col key : Nat) : State :=
  let r := s.stnRegs (stackOf col)
  if r.flipArm && r.flipSlice == col % 64 then
    let s := s.modStnRegs (stackOf col) (fun r => { r with flipArm := false })
    let e := (r.flipMid * 2 ^ 32 + r.flipLo, r.flipCheck)
    { s with stn := { s.stn with wordErrs := if flipCount e = 0 then s.stn.wordErrs.drop key else s.stn.wordErrs.set key e } }
  else { s with stn := { s.stn with wordErrs := s.stn.wordErrs.drop key } }

/-- The words of a sector written (R219). -/
def State.storeWords (s : State) (sector : Nat) (words : List Nat) : State :=
  words.foldl (fun s w => s.writeWord (s.wordColumn (32 * sector + 8 * w)) (s.wordKey (32 * sector + 8 * w))) s

/-! ### The valid bitmap (08, R197; 10, R251, R255) -/

/-- The number of an HBM4 address's page in its channel: PA[38:20] (R204). -/
def channelPage (pa : Nat) : Nat := bits pa 20 19

/-- The page number of page `p` of a channel (R204). -/
def pageOf (col p : Nat) : Nat := p * 256 + ((col ^^^ bits p 0 8 ^^^ bits p 8 8 ^^^ bits p 16 3) % 256)

/-- The number of word `w` of a channel's bitmap among the stored words. -/
def bitmapKey (col w : Nat) : Nat := 2 ^ 60 + col * 2 ^ 13 + w

/-! ### HBM4 sectors -/

/-- The key a lodging's accesses use: its own, or the device key 0 (10, R263). -/
def State.keyTag (s : State) (lod : Nat) : Nat := ((s.lod lod).key).getD 0

/-- Whether the valid bit of the page of an HBM4 address is set (10, R251). -/
def State.pageValid (s : State) (pa : Nat) : Bool := s.hbm.valid.contains (pa / 4096)

/-- What a sector read or a sector's delivery gives. -/
structure Sector where
  bytes : List Byte
  poison : Bool
  deriving DecidableEq, Repr

/-- A zero sector (08, R198; 10, R251). -/
def Sector.zero : Sector := { bytes := List.replicate 32 0, poison := false }

/-- A decode counted, logged, and its located lane followed (R246, R247). -/
def State.countVerdict (s : State) (col : Nat) (v : Verdict) (ids : Nat × Nat) : State :=
  match v with
  | .asStored => s
  | .corrected j =>
    (s.modHbmRegs (stackOf col) (fun r => { r with ceCount := wrap32 (r.ceCount + 1) })).modChannel col
      (fun c => c.located (laneOf j))
  | .wrong counted => if counted then s.modHbmRegs (stackOf col) (fun r => { r with ceCount := wrap32 (r.ceCount + 1) }) else s
  | .poisonRead => s.modHbmRegs (stackOf col) (fun r => { r with poisonReads := wrap32 (r.poisonReads + 1) })
  | .uncorrectable =>
    (s.modHbmRegs (stackOf col) (fun r => { r with ueCount := wrap32 (r.ueCount + 1) })).log (unitChannel col) 0x05 0 ids.1 ids.2
  | .channelFailed => s

/-- What a verdict delivers: as stored and corrected sectors are codewords, and so without poison (R246). -/
def Verdict.deliver (v : Verdict) (sector : Nat) (x : Sector) : Sector :=
  match v with
  | .asStored => { x with poison := false }
  | .corrected _ => { x with poison := false }
  | .wrong _ => { bytes := garbledSector sector 2, poison := false }
  | _ => { x with poison := true }

/-- The notice of a channel in repair or at reduced rate, for the commands whose traffic uses it (R247; 11, R278). -/
def State.noteChannel (s : State) (lod sector : Nat) (ids : Nat × Nat) : State :=
  let col := homeColumn (32 * sector)
  if (s.channel col).marked || s.linkReduced .channel col then s.degraded lod ids 4 else s

/-- One sector read from the HBM4 array and decoded, decrypted under the requester's key (10, R246, R251, R263). The verdict says
whether it was corrected (R249). -/
def State.hbmRead (s : State) (lod sector : Nat) (ids : Nat × Nat) : State × Sector × Verdict :=
  let pa := 32 * sector
  if !s.pageValid pa then (s, Sector.zero, .asStored)
  else
    let col := homeColumn pa
    let x : Sector := { bytes := (s.arraySector sector).1, poison := (s.arraySector sector).2 }
    let v := decodeSector (s.hbm.errs.get sector []) x.poison (s.channel col)
    let s := s.countVerdict col v ids
    let s := (s.addBytes (fixedOf (stackOf col) 0x10) 32).grant (siteOf col) lod (classOf ids) 32
    let y := v.deliver sector x
    let y := if s.hbm.keyOf.get sector 0 = s.keyTag lod then y else { y with bytes := garbledSector sector 1 }
    (s.noteChannel lod sector ids, y, v)

/-- The stored symbols of a sector after a write by its controller: the flip mask applies to the first sector written
after it was armed (R259). -/
def State.hbmFlip (s : State) (sector : Nat) : State :=
  let col := homeColumn (32 * sector)
  let r := s.hbmRegs (stackOf col)
  if r.flipArm && r.flipChannel == col % 64 then
    let syms := setBits r.flipLo 32 ++ (setBits r.flipHi 4).map (· + 32)
    let s := s.modHbmRegs (stackOf col) (fun r => { r with flipArm := false })
    { s with hbm := { s.hbm with errs := s.hbm.errs.set sector (gather (syms.map (fun j => (j, r.flipPattern)))) } }
  else { s with hbm := { s.hbm with errs := s.hbm.errs.drop sector } }

/-- Zero-fill of a page at its first write (R252, R253): the valid bit is set in its bitmap word, and the page's 128 sectors are written zero
under the page's key; the first sector written is sector 0 of the page. -/
def State.zeroFill (s : State) (lod pa : Nat) (ids : Nat × Nat) : State :=
  if s.pageValid pa then s
  else
    let page := pa / 4096
    let col := homeColumn pa
    let secs := (List.range 128).map (· + 128 * page)
    let m := secs.foldl (fun m sec => m.mark sec false) (s.mem.put (4096 * page) (List.replicate 4096 0))
    let s := { s with mem := m, hbm := { s.hbm with
      valid := markSet s.hbm.valid page true,
      errs := s.hbm.errs.filter (fun e => e.1 / 128 != page),
      under := s.hbm.under.filter (fun e => e.1 / 128 != page),
      keyOf := secs.foldl (fun t sec => t.set sec (s.keyTag lod)) s.hbm.keyOf } }
    let s := s.writeWord col (bitmapKey col (channelPage pa / 64))
    let s := s.modHbmRegs (stackOf col) (fun r => { r with zeroFills := wrap32 (r.zeroFills + 1) })
    (s.noteChannel lod (pa / 32) ids).hbmFlip (128 * page)

/-- A sector written to the HBM4 array with the value and poison it has at its home, under a lodging's key (R247, R249, R263). -/
def State.hbmWrite (s : State) (lod sector : Nat) (ids : Nat × Nat) : State :=
  let s := { s with hbm := { s.hbm with keyOf := s.hbm.keyOf.set sector (s.keyTag lod), under := s.hbm.under.drop sector } }
  let s := s.addBytes (fixedOf (stackOf (homeColumn (32 * sector))) 0x18) 32
  let s := s.grant (siteOf (homeColumn (32 * sector))) lod 0 32
  (s.noteChannel lod sector ids).hbmFlip sector

/-- The array's value and poison of a sector rewritten without its cached copy, where there is one (R255, R256). -/
def State.rewriteArray (s : State) (sector : Nat) (b : List Byte) (p : Bool) : State :=
  (if s.heldClean sector then { s with hbm := { s.hbm with under := s.hbm.under.set sector (b, p) } }
   else { s with mem := (s.mem.put (32 * sector) b).mark sector p }).hbmFlip sector

/-- A sector written to HBM4 with the poison encoding, its data symbols as read. -/
def State.poisonSector (s : State) (sector : Nat) : State :=
  s.rewriteArray sector (if (s.hbm.errs.get sector []).isEmpty then (s.arraySector sector).1 else garbledSector sector 3) true

/-! ### An uncorrectable bitmap word (10, R255) -/

/-- Word `w` of a channel's bitmap cannot be corrected: cached sectors of its 64 pages become dirty, the others are poisoned in HBM4, and
the 64 bits are set (R255). -/
def State.bitmapLost (s : State) (col w : Nat) : State :=
  let pages := (List.range 64).map (fun i => pageOf col (64 * w + i))
  let s := { s with stn := { s.stn with lines := s.stn.lines.map (fun (l : CacheLine) =>
    match l.kind with
    | .localLine present dirty =>
      if pages.contains (l.line / 32) then { l with kind := .localLine present (dirty ||| present) } else l
    | _ => l) } }
  let cached := fun (s : State) (sec : Nat) => s.stn.lines.any (fun l => l.line == sec / 4 &&
    (match l.kind with | .localLine present _ => bit present (sec % 4) | .pinned _ _ _ _ => true | _ => false))
  let s := ((pages.map (fun p => (List.range 128).map (· + 128 * p))).flatten).foldl
    (fun s sec => if cached s sec then s else s.poisonSector sec) s
  let s := { s with hbm := { s.hbm with valid := pages.foldl (fun v p => markSet v p true) s.hbm.valid } }
  let s := s.modHbmRegs (stackOf col) (fun r => { r with bitmapUe := wrap32 (r.bitmapUe + 1) })
  s.writeWord col (bitmapKey col w)

/-- A bitmap word as its reader's decoder meets it. -/
def State.checkBitmapWord (s : State) (col w : Nat) (ids : Nat × Nat) : State :=
  let k := bitmapKey col w
  let e := s.stn.wordErrs.get k (0, 0)
  if flipCount e = 0 then s
  else if wordCorrected k e then s.modStnRegs (stackOf col) (fun r => { r with ceCount := wrap32 (r.ceCount + 1) })
  else
    let s := s.modStnRegs (stackOf col) (fun r => { r with ueCount := wrap32 (r.ueCount + 1) })
    (s.log (unitSlice col) 0x04 s.freeBank ids.1 ids.2).takeFree.bitmapLost col w

/-- The bitmap word of an HBM4 address as an access reads it. -/
def State.checkBitmap (s : State) (pa : Nat) (ids : Nat × Nat) : State := s.checkBitmapWord (homeColumn pa) (channelPage pa / 64) ids

/-- A sector delivered into the state where its line is cached: the coherent bytes and poison are those delivered, and the array keeps its
own (R249). -/
def State.deliverInto (s : State) (sector : Nat) (y : Sector) : State :=
  let s := if s.arraySector sector = (y.bytes, y.poison) then s else s.keepArray sector
  { s with mem := (s.mem.put (32 * sector) y.bytes).mark sector y.poison }

/-! ### Cache lines (08, R206 to R210, R214, R217, R218) -/

/-- Ways of a line (R214). -/
def CacheLine.ways (c : CacheLine) : Nat :=
  match c.kind with
  | .reduce _ exact _ _ _ _ _ => if exact then 4 else 1
  | .pinned _ _ _ _ => 4
  | _ => 1

/-- Whether a line holds BF16 accumulators of half a home line (09, R225). -/
def CacheLine.half (c : CacheLine) : Bool :=
  match c.kind with
  | .reduce op _ _ _ _ _ _ => op == 1
  | _ => false

/-- Whether a line is of a kind that holds remote memory. -/
def CacheLine.isReduce (c : CacheLine) : Bool :=
  match c.kind with
  | .reduce _ _ _ _ _ _ _ => true
  | _ => false

/-- Whether a line is pinned (09, R230). -/
def CacheLine.isPinned (c : CacheLine) : Bool :=
  match c.kind with
  | .pinned _ _ _ _ => true
  | _ => false

/-- The address of the 128-byte line that a cache line belongs to. -/
def CacheLine.addr (c : CacheLine) : Nat := if c.half then 64 * c.line else 128 * c.line

/-- The line number by which an address falls in a set (R206); a pinned scratch line goes by its line in its slice (LOG 135). -/
def lineField (pa : Nat) : Nat := if placeOf pa = .scratch then scratchLine pa else channelAddr (pa % 2 ^ 39) / 128

/-- The set of an address for a lodging with c frames (R206). -/
def setOf (pa c : Nat) : Nat := if c = 0 then 0 else lineField pa % (32 * c)

/-- Where channel n's lines are allocated: n, or its relief partner (R217, R218). -/
def State.allocColumn (s : State) (col : Nat) : Nat :=
  match (s.sliceAt col).relief with
  | .off => col
  | .drain => partnerOf col
  | .relieved => partnerOf col
  | .ending => col

/-- The column whose slice holds a cache line of an address: relief moves no scratch (R217). -/
def State.lineColumn (s : State) (pa : Nat) : Nat :=
  if placeOf pa = .scratch then s.scratchColumn pa else s.allocColumn (homeColumn (pa % 2 ^ 39))

/-- Lines of a lodging in one set of one slice. -/
def State.inSet (s : State) (lod col set c : Nat) : List CacheLine :=
  s.stn.lines.filter (fun l => l.lod == lod && l.col == col && setOf l.addr c == set)

/-- A local line of a lodging held in cache. -/
def State.localLine? (s : State) (lod line : Nat) : Option CacheLine :=
  s.stn.lines.find? (fun l => l.lod == lod && l.line == line && (match l.kind with | .localLine _ _ => true | _ => false))

/-- The pinned line of an address, whichever lodging holds it (09, R230). -/
def State.pinned? (s : State) (line : Nat) : Option CacheLine :=
  s.stn.lines.find? (fun l => l.line == line && l.isPinned)

/-- A Shared copy of a remote line. -/
def State.shared? (s : State) (lod line : Nat) : Option CacheLine :=
  s.stn.lines.find? (fun l => l.lod == lod && l.line == line && (match l.kind with | .shared _ _ => true | _ => false))

/-- The lines without one. -/
def dropLine (ls : List CacheLine) (l : CacheLine) : List CacheLine := ls.filter (fun x => x != l)

/-- The lines with one replaced and made the most recently used. -/
def State.useLine (s : State) (old new : CacheLine) : State :=
  { s with stn := { s.stn with lines := new :: dropLine s.stn.lines old } }

/-- A line added as the most recently used. -/
def State.addLine (s : State) (l : CacheLine) : State := { s with stn := { s.stn with lines := l :: s.stn.lines } }

/-- A line moved on to the most recently used place (R206). -/
def State.touchLine (s : State) (l : CacheLine) : State := s.useLine l l

/-- A line changed where it stands. -/
def State.swapLine (s : State) (old new : CacheLine) : State :=
  { s with stn := { s.stn with lines := s.stn.lines.map (fun x => if x = old then new else x) } }

/-- Whether a line stands in a line buffer and in no cache frame (08, R208): its column number is 256 above the slice's, and 512 above it
for a copy that answers one read and is not kept (09, R237). -/
def CacheLine.buffered (c : CacheLine) : Bool := decide (c.col ≥ 256)

/-- The line buffers of a lodging emptied once their data has been used (08, R208). -/
def State.purgeBuffers (s : State) (lod : Nat) : State :=
  if s.stn.lines.any (fun l => l.lod == lod && l.buffered && !l.isPinned) then
    { s with stn := { s.stn with lines := s.stn.lines.filter (fun l => !(l.lod == lod && l.buffered && !l.isPinned)) } }
  else s

/-- The copy of a remote line that answers one read, used up (09, R237). -/
def State.useUp (s : State) (lod line : Nat) : State :=
  if s.stn.lines.any (fun l => l.lod == lod && l.line == line && decide (l.col ≥ 512)) then
    { s with stn := { s.stn with lines := s.stn.lines.filter (fun l => !(l.lod == lod && l.line == line && decide (l.col ≥ 512))) } }
  else s

/-- A line removed. -/
def State.removeLine (s : State) (l : CacheLine) : State := { s with stn := { s.stn with lines := dropLine s.stn.lines l } }

/-! ### The stored words of copies, Reduce lines and pinned lines (08, R197, R198, R219; 10, R257) -/

/-- Words that a line stores: four for each sector present, 16 for a copy or a Reduce line, 64 for an exact-window line (R214). -/
def CacheLine.words (l : CacheLine) : List Nat :=
  match l.kind with
  | .localLine present _ => ((setBits present 4).map (fun i => [4 * i, 4 * i + 1, 4 * i + 2, 4 * i + 3])).flatten
  | .reduce _ exact _ _ _ _ _ => List.range (if exact then 64 else 16)
  | .pinned _ _ _ _ => List.range 64
  | _ => List.range 16

/-- The number of a word of a line among the stored words. -/
def CacheLine.wordKey (l : CacheLine) (w : Nat) : Nat :=
  match l.kind with
  | .localLine _ _ => 2 ^ 40 + 16 * l.line + w
  | _ => 2 ^ 62 + ((l.lod * 2 ^ 60 + l.line) * 2 + ofBool l.half) * 64 + w

/-- The sector of its home line that a word of a line belongs to: 16 bytes for each exact-window element, 4 for each FP32 accumulator of a
BF16 half line. -/
def CacheLine.sectorOfWord (l : CacheLine) (w : Nat) : Nat :=
  match l.kind with
  | .pinned _ _ _ _ => w / 16
  | .reduce op exact _ _ _ _ _ => if exact then w / 16 else if op = 1 then 2 * (l.line % 2) + w / 8 else w / 4
  | _ => w / 4

/-- The words that hold element `i` of a Reduce or pinned line. -/
def CacheLine.wordsOfElem (l : CacheLine) (i : Nat) : List Nat :=
  match l.kind with
  | .pinned _ _ _ _ => [2 * i, 2 * i + 1]
  | .reduce op exact _ _ _ _ _ => if exact then [2 * i, 2 * i + 1] else if op = 3 ∨ op = 8 ∨ op = 9 then [i] else [i / 2]
  | _ => [i]

/-- A sector's poison set in a mask. -/
def poisonBit (p i : Nat) : Nat := if bit p i then p else p + 2 ^ i

/-- A line with a sector poisoned. -/
def CacheLine.poisoned (l : CacheLine) (i : Nat) : CacheLine :=
  match l.kind with
  | .shared b p => { l with kind := .shared b (poisonBit p i) }
  | .reduce op exact base elems p oow region => { l with kind := .reduce op exact base elems (poisonBit p i) oow region }
  | .pinned base elems p region => { l with kind := .pinned base elems (poisonBit p i) region }
  | _ => l

/-- Words of a copy, Reduce line or pinned line as their reader's decoder meets them: an uncorrectable one poisons its sector of the line
(R198; R260). A line buffer stores no words. -/
def State.checkCopy (s : State) (l : CacheLine) (ws : List Nat) (ids : Nat × Nat) : State × CacheLine :=
  if l.buffered then (s, l)
  else
    let r := ws.foldl (fun (acc : State × CacheLine) w =>
      let m := acc.1.meetWord (l.wordKey w) l.col acc.1.freeBank acc.1.freeRow ids
      (m.1, if m.2 then acc.2.poisoned (l.sectorOfWord w) else acc.2)) (s, l)
    (r.1.swapLine l r.2, r.2)

/-- Words of a line written in its slice (R219). -/
def State.writeCopy (s : State) (l : CacheLine) (ws : List Nat) : State :=
  if l.buffered then s else ws.foldl (fun s w => s.writeWord l.col (l.wordKey w)) s

/-! ### Write-back (08, R207, R210) -/

/-- The clean sectors of a line that leaves its slice: the array's value is the coherent one again. -/
def State.restoreArray (s : State) (l : CacheLine) : State :=
  match l.kind with
  | .localLine present dirty =>
    (setBits present 4).foldl (fun s i =>
      if bit dirty i then s
      else
        let x := s.arraySector (4 * l.line + i)
        { s with mem := (s.mem.put (32 * (4 * l.line + i)) x.1).mark (4 * l.line + i) x.2,
                 hbm := { s.hbm with under := s.hbm.under.drop (4 * l.line + i) } }) s
  | _ => s

/-- The write-back buffer that holds a sector (R210). -/
def State.inWriteBack (s : State) (sector : Nat) : Bool :=
  s.hbm.wbBuf.any (fun l => l.line == sector / 4 && (match l.kind with | .localLine _ dirty => bit dirty (sector % 4) | _ => false))

/-- The dirty sectors of a local line, as the slice delivers them, written to HBM4; the line stays present in a write-back buffer until
the acknowledgement (R198, R207, R210). -/
def State.writeBack (s : State) (l : CacheLine) (ids : Nat × Nat) : State :=
  match l.kind with
  | .localLine _ dirty =>
    let s := (setBits dirty 4).foldl (fun s i => (s.checkWords (4 * l.line + i) (0, 0)).hbmWrite l.lod (4 * l.line + i) ids) s
    let s := s.restoreArray l
    if dirty = 0 then s else { s with hbm := { s.hbm with wbBuf := insertNew s.hbm.wbBuf l } }
  | _ => s

/-- A write-back that an operation awaits before it replaces the line again: its acknowledgement has come (R210; LOG 136). -/
def State.ackedLine (s : State) (line : Nat) : State :=
  { s with hbm := { s.hbm with wbBuf := s.hbm.wbBuf.filter (fun l => l.line != line) } }

/-! ### Exact-window lines (09, R230 to R232; 05, R136 to R138) -/

/-- An element's FP32 value as it leaves its home (R231). -/
def RedElem.value (e : RedElem) (base : Int) : Bits := windowValue e.w base e.special

/-- An element that holds a stored FP32 value (R232), and whether the conversion left the window. -/
def RedElem.ofF32 (base : Int) (b : Bits) : RedElem × Bool :=
  match f32 b with
  | .fin neg m e =>
    let r := windowAdd 0 base (Val.fin neg m e).dy
    ({ bits := 0, w := r.1, special := 0, set := true }, r.2)
  | v => ({ bits := 0, w := 0, special := specialAdd 0 v, set := true }, false)

/-- The 128 bytes that a reader of a pinned line sees. -/
def pinnedBytes (base : Int) (elems : List RedElem) : List Byte := (elems.map (fun e => leBytes 4 (e.value base))).flatten

/-- A sector of a pinned line as a reader sees it (R231). -/
def State.readPinned (s : State) (l : CacheLine) (i : Nat) (ids : Nat × Nat) : State × Sector :=
  let r := s.checkCopy l (l.words.filter (fun w => l.sectorOfWord w == i)) ids
  match r.2.kind with
  | .pinned base elems poison _ => (r.1, { bytes := slice (pinnedBytes base elems) (32 * i) 32, poison := bit poison i })
  | _ => (r.1, Sector.zero)

/-- The poison of the sectors of a line after a write of `n` bytes at `off` (10, R250). -/
def poisonAfter (old off n : Nat) (p : Bool) : Nat :=
  (List.range 4).foldl (fun q i =>
    if overlaps (32 * i) 32 off n then
      let keep := p || (bit q i && !covers off n i)
      if keep == bit q i then q else q ^^^ 2 ^ i
    else q) old

/-- Bytes stored into a pinned line: every element touched takes the value its bytes then spell (R232). The flag says that the window was
left. -/
def State.putPinned (s : State) (l : CacheLine) (off : Nat) (b : List Byte) (p : Bool) : State × Bool :=
  match l.kind with
  | .pinned base elems poison region =>
    let bytes := patch (pinnedBytes base elems) off b
    let touched := fun i => decide (off < 4 * i + 4 ∧ 4 * i < off + b.length)
    let conv := (List.range 32).map (fun i =>
      if touched i then RedElem.ofF32 base (field bytes (4 * i) 4)
      else (elems.getD i { bits := 0, w := 0, special := 0, set := true }, false))
    let new := { l with kind := .pinned base (conv.map (·.1)) (poisonAfter poison off b.length p) region }
    ((s.useLine l new).writeCopy new (((List.range 32).filter touched).map (fun i => l.wordsOfElem i)).flatten, conv.any (·.2))
  | _ => (s, false)

/-- A page's zero-fill at the first write of a local HBM4 line, wherever the line is held (10, R252). -/
def State.fillPage (s : State) (lod pa : Nat) (ids : Nat × Nat) : State := if placeOf pa = .hbm then s.zeroFill lod pa ids else s

/-! ### Device-written flags (09, R222, R240) -/

/-- The elements of a Reduce line as the write-home carries them: contribution bits, poison, flag, then the values. -/
def reduceBytes (exact : Bool) (elems : List RedElem) (poison : Nat) (oow : Bool) : List Byte :=
  let set := elems.foldr (fun e n => 2 * n + ofBool e.set) 0
  leBytes 4 set ++ leBytes 1 poison ++ leBytes 1 (ofBool oow) ++
    (elems.map (fun e =>
      if exact then leBytes 16 ((e.w % 2 ^ 128).toNat) ++ leBytes 1 e.special else leBytes 8 e.bits)).flatten

/-- A 57-bit virtual address's page run in a lodging. -/
def Lodging.mapping? (l : Lodging) (va : Nat) : Option Mapping :=
  l.maps.find? (fun m => decide (m.va ≤ va ∧ va < m.va + m.size * m.count))

/-- The physical address of a mapped virtual address. -/
def Lodging.pa? (l : Lodging) (va : Nat) : Option Nat :=
  match l.mapping? va with
  | some m => some (m.pa + (va - m.va))
  | none => none

/-- A sector written with its merged bytes: poison under R250. -/
def State.mergeSector (s : State) (sector off : Nat) (b : List Byte) (p : Bool) : State :=
  { s with mem := s.mem.write (32 * sector + off) b p }

/-- The missing sector of a cached local line filled from HBM4; a corrected one is dirty (R249). -/
def State.fillSector (s : State) (l : CacheLine) (lod sector : Nat) (ids : Nat × Nat) : State × CacheLine × Sector :=
  match l.kind with
  | .localLine present dirty =>
    let r := s.hbmRead lod sector ids
    let dirty := match r.2.2 with | .corrected _ => dirty ||| 2 ^ (sector % 4) | _ => dirty
    let new := { l with kind := .localLine (present ||| 2 ^ (sector % 4)) dirty }
    (((r.1.deliverInto sector r.2.1).useLine l new).storeWords sector [0, 1, 2, 3], new, r.2.1)
  | _ => (s, l, Sector.zero)

/-- The line made to hold a sector, checked where it held it. -/
def State.haveSector (s : State) (l : CacheLine) (lod sector : Nat) (ids : Nat × Nat) : State × CacheLine :=
  match l.kind with
  | .localLine present _ =>
    if bit present (sector % 4) then (s.checkWords sector ids, l)
    else
      let r := s.fillSector l lod sector ids
      (r.1, r.2.1)
  | _ => (s, l)

/-- A sector of local HBM4 that no cache holds, as its controller or a write-back buffer delivers it for a merge (R210, R250). -/
def State.bufferSector (s : State) (lod sector : Nat) (ids : Nat × Nat) : State :=
  if s.inWriteBack sector then s
  else
    let r := s.hbmRead lod sector ids
    r.1.deliverInto sector r.2.1

/-- Bytes of one sector written by a line buffer; a retired channel discards its writes (R208; 17, R386). -/
def State.bufferStore (s : State) (lod sector off : Nat) (b : List Byte) (p : Bool) (ids : Nat × Nat) : State :=
  if (s.channel (homeColumn (32 * sector))).retired then s else (s.mergeSector sector off b p).hbmWrite lod sector ids

/-- The words of a sector that bytes touch. -/
def wordsAt (off n : Nat) : List Nat := (List.range 4).filter (fun w => decide (off < 8 * w + 8 ∧ 8 * w < off + n))

/-- Bytes of one sector written in a cached line. -/
def State.lineStore (s : State) (l : CacheLine) (sector off : Nat) (b : List Byte) (p : Bool) : State :=
  match l.kind with
  | .localLine present dirty =>
    let i := sector % 4
    ((s.mergeSector sector off b p).useLine l { l with kind := .localLine (present ||| 2 ^ i) (dirty ||| 2 ^ i) }).storeWords sector
      (wordsAt off b.length)
  | _ => s

/-- A scratch sector written: its valid bit is set, and its words are (08, R198, R250). -/
def State.scratchStore (s : State) (sector off : Nat) (b : List Byte) (p : Bool) (ids : Nat × Nat) : State :=
  let s := if off = 0 ∧ b.length = 32 then s else s.checkWords sector ids
  let s := (s.mergeSector sector off b p).storeWords sector (wordsAt off b.length)
  { s with stn := { s.stn with valid := markSet s.stn.valid sector true } }

/-- Bytes written to host memory: one posted TLP for each sector, poisoned where the sector's data is (10, R261, R461; LOG 134). -/
def State.hostStore (s : State) (lod pa : Nat) (b : List Byte) (p : Bool) : State :=
  ({ s.addBytes (0x400 / 8) b.length with mem := s.mem.put pa b } : State).emit (.hostWrite (requester lod) (pa - 2 ^ 51) b p)

/-- A sector of host memory read: the device keeps no record of poison there (10, R262). -/
def State.hostLoad (s : State) (lod sector : Nat) : State × Sector :=
  ((s.addBytes (0x408 / 8) 32).emit (.hostRead (requester lod) (32 * sector - 2 ^ 51) 32),
   { bytes := s.mem.read (32 * sector) 32, poison := false })

/-- A byte of this device's memory ORed with a flag at its home slice, which allocates nothing for it (R222; LOG 137). -/
def State.orLocal (s : State) (lod pa flag : Nat) : State :=
  let sector := pa / 32
  let or := fun (b : Byte) => [BitVec.ofNat 8 (b.toNat ||| flag)]
  match s.pinned? (pa / 128) with
  | some l =>
    let r := (s.fillPage lod pa (0, 0)).readPinned l (sector % 4) (0, 0)
    match r.1.pinned? (pa / 128) with
    | some l => (r.1.putPinned l (pa % 128) (or (r.2.bytes.getD (pa % 32) 0)) false).1
    | none => r.1
  | none =>
    match placeOf pa with
    | .hbm =>
      let s := (s.checkBitmap pa (0, 0)).zeroFill lod pa (0, 0)
      match s.localLine? lod (pa / 128) with
      | some l =>
        let r := s.haveSector l lod sector (0, 0)
        r.1.lineStore r.2 sector (pa % 32) (or (r.1.mem.byte pa)) false
      | none =>
        let s := s.bufferSector lod sector (0, 0)
        s.bufferStore lod sector (pa % 32) (or (s.mem.byte pa)) false (0, 0)
    | .scratch => s.scratchStore sector (pa % 32) (or (s.mem.byte pa)) false (0, 0)
    | .host => (s.hostLoad lod sector).1.hostStore lod pa (or (s.mem.byte pa)) false
    | _ => s

/-- A device-written flag of a region descriptor, by atomic OR to byte 8 at its home (R222): bit 0 `OUT_OF_WINDOW`, bit 1 `LOST`. A home on
another device gets an `ATOMIC`. -/
def State.orRegionFlag (s : State) (lod region flag : Nat) : State :=
  match (s.lod lod).pa? (region + 8) with
  | none => s
  | some pa =>
    if placeOf pa = .remote then
      let t := s.newTxn lod pa .flagOr
      (t.1.sendOrWait (deviceOf pa) opAtomic (localOf pa) (t.2 % 2 ^ 16) (packAtom (atomBytes .or 4 .relaxed (pa % 128) flag 0)) (some t.2)).getD s
    else s.orLocal lod pa flag

/-! ### Write-home, replacement, allocation (08, R206, R214; 09, R224, R227, R240) -/

/-- A Reduce line written home over Cytil for some `EPOCH_FLUSH` commands (R227, R231); the transfer waits where there is no credit. `none`
where its home cannot be reached, which leaves the line as it is (R240). -/
def State.sendHome (s : State) (l : CacheLine) (cmds : List Nat) : Option State :=
  let r := s.checkCopy l l.words (0, 0)
  match r.2.kind with
  | .reduce _ exact _ elems poison oow _ =>
    let txn := r.1.newTxn l.lod l.addr (.writeHome cmds r.2)
    match txn.1.sendOrWait (deviceOf l.addr) opWriteHome (localOf l.addr) (txn.2 % 2 ^ 16) (reduceBytes exact elems poison oow) (some txn.2) with
    | none => none
    | some s' =>
      let s' := (s'.removeLine r.2).modStnRegs (stackOf l.col) (fun r => { r with reduceWb := wrap32 (r.reduceWb + 1) })
      some (s'.count (stackOf l.col) 0x034 (some l.lod) (0, 0) 1)
  | _ => none

/-- A Reduce line discarded because it must be replaced and its home cannot be reached (R240). -/
def State.discardReduce (s : State) (l : CacheLine) : State :=
  match l.kind with
  | .reduce _ _ _ _ _ _ region =>
    let s := s.removeLine l
    let s := s.modStnRegs (stackOf l.col) (fun r => { r with reduceLost := wrap32 (r.reduceLost + 1) })
    s.orRegionFlag l.lod region 2
  | _ => s

/-- Replacement of a line; a pinned line is not replaced (R207, R214; 09, R224, R230, R240). -/
def State.replace (s : State) (l : CacheLine) (ids : Nat × Nat) : Option State :=
  match l.kind with
  | .localLine _ _ => some ((s.writeBack l ids).removeLine l)
  | .shared _ _ => some (s.removeLine l)
  | .reduce _ _ _ _ _ _ _ => some ((s.sendHome l []).getD (s.discardReduce l))
  | .pinned _ _ _ _ => none

/-- The line that a miss replaces: the least recently used of the set that is not pinned and whose write-back is not
waiting for its acknowledgement (R206, R210). -/
def State.victim? (s : State) (lod col set c : Nat) : Option CacheLine :=
  ((s.inSet lod col set c).filter (fun l => !l.isPinned && !s.hbm.wbBuf.any (fun x => x.line == l.line))).getLast?

/-- Room for `need` ways in a set of 16 (R206, R214); `false` when none can be made. -/
def State.makeRoom (s : State) (lod col set c need : Nat) (ids : Nat × Nat) : Nat → State × Bool
  | 0 => (s, false)
  | fuel + 1 =>
    if ((s.inSet lod col set c).map (·.ways)).sum + need ≤ 16 then (s, true)
    else
      match s.victim? lod col set c with
      | none => (s, false)
      | some l =>
        match s.replace l ids with
        | none => (s, false)
        | some s' => s'.makeRoom lod col set c need ids fuel

/-- A line of a lodging allocated for an address: the state with it, its words written where it is no local line, or `none` where the lodging
has no cache frames in the stack or no room can be made. -/
def State.allocate (s : State) (lod pa : Nat) (line : Nat) (kind : LineKind) (ids : Nat × Nat) : Option (State × CacheLine) :=
  let col := s.lineColumn pa
  let c := s.cacheFrames lod (stackOf col)
  if c = 0 then none
  else
    let l : CacheLine := { lod := lod, line := line, col := col, kind := kind }
    match s.makeRoom lod col (setOf pa c) c l.ways ids 17 with
    | (s', true) =>
      match kind with
      | .localLine _ _ => some (s'.addLine l, l)
      | _ => some ((s'.addLine l).writeCopy l l.words, l)
    | (_, false) => none

/-- Bytes stored into a pinned line, its page filled first and its region's flag set where the window was left (R232, R233; 10, R252). -/
def State.storePinned (s : State) (l : CacheLine) (off : Nat) (b : List Byte) (p : Bool) (ids : Nat × Nat) : State :=
  match l.kind with
  | .pinned _ _ _ region =>
    let r := (s.fillPage l.lod l.addr ids).putPinned l off b p
    if r.2 then r.1.orRegionFlag l.lod region 1 else r.1
  | _ => s

/-! ### One sector at its home (07, R174; 08, R209; 10, R249 to R252) -/

/-- A hit counted (19, R424). -/
def State.countHit (s : State) (lod sector : Nat) (ids : Nat × Nat) (hit : Bool) : State :=
  s.count (stackOf (homeColumn (32 * sector))) (if hit then 0x030 else 0x031) (some lod) ids 1

/-- A sector as it stands in the memory. -/
def State.sectorNow (s : State) (sector : Nat) : Sector :=
  { bytes := s.mem.read (32 * sector) 32, poison := s.mem.poisoned (32 * sector) }

/-- A read of one sector of local HBM4 at its home slice: hit, write-back buffer, fill of the cache, or line buffer
(R206 to R210); a corrected sector is marked dirty (R249). -/
def State.hbmSector (s : State) (lod sector : Nat) (ids : Nat × Nat) : State × Sector :=
  let line := sector / 4
  let s := s.checkBitmap (32 * sector) ids
  let miss := fun (s : State) (l : CacheLine) =>
    let r := s.fillSector l lod sector ids
    (r.1.countHit lod sector ids false, r.2.2)
  match s.localLine? lod line with
  | some l =>
    match l.kind with
    | .localLine present _ =>
      if bit present (sector % 4) then
        let s := (s.checkWords sector ids).touchLine l
        (s.countHit lod sector ids true, s.sectorNow sector)
      else miss s l
    | _ => (s, Sector.zero)
  | none =>
    if s.inWriteBack sector then (s, s.sectorNow sector)
    else
      match s.allocate lod (32 * sector) line (.localLine 0 0) ids with
      | none =>
        let r := s.hbmRead lod sector ids
        (r.1.countHit lod sector ids false, r.2.1)
      | some (s, l) => miss s l

/-- A write of bytes of one sector of local HBM4 at its home slice: zero-fill of an invalid page, write allocation with a fill
of the sector where the write is partial, or the line buffer (R207, R208, R250, R252). -/
def State.hbmStore (s : State) (lod sector off : Nat) (b : List Byte) (p : Bool) (ids : Nat × Nat) : State :=
  let whole := off == 0 && b.length == 32
  let s := (s.checkBitmap (32 * sector) ids).zeroFill lod (32 * sector) ids
  let found : Option (State × CacheLine) :=
    match s.localLine? lod (sector / 4) with
    | some l => some (s, l)
    | none => if s.inWriteBack sector ∧ !whole then none else s.allocate lod (32 * sector) (sector / 4) (.localLine 0 0) ids
  match found with
  | some (s, l) =>
    if whole then s.lineStore l sector off b p
    else
      let r := s.haveSector l lod sector ids
      r.1.lineStore r.2 sector off b p
  | none =>
    let s := if whole then s else (s.bufferSector lod sector ids).countHit lod sector ids false
    s.bufferStore lod sector off b p ids

/-- A read of one sector of Stonos scratch (08, R198). -/
def State.scratchSector (s : State) (sector : Nat) (ids : Nat × Nat) : State × Sector :=
  let s := s.checkWords sector ids
  (s, s.sectorNow sector)

/-- A read of one sector at a local physical address; a pinned line answers for its region (09, R231). -/
def State.readSector (s : State) (lod sector : Nat) (ids : Nat × Nat) : State × Sector :=
  match s.pinned? (sector / 4) with
  | some l => s.readPinned l (sector % 4) ids
  | none =>
    match placeOf (32 * sector) with
    | .hbm => s.hbmSector lod sector ids
    | .scratch => s.scratchSector sector ids
    | .host => s.hostLoad lod sector
    | _ => (s, Sector.zero)

/-- A write of bytes within one sector at a local physical address; a pinned line takes it for its region (09, R232), and a write to host
memory is posted (10, R261, R461). -/
def State.storeSector (s : State) (lod sector off : Nat) (b : List Byte) (p : Bool) (ids : Nat × Nat) : State :=
  match s.pinned? (sector / 4) with
  | some l => s.storePinned l (32 * (sector % 4) + off) b p ids
  | none =>
    match placeOf (32 * sector) with
    | .hbm => s.hbmStore lod sector off b p ids
    | .scratch => s.scratchStore sector off b p ids
    | .host => s.hostStore lod (32 * sector + off) b p
    | _ => s

/-! ### Ranges of local physical addresses -/

/-- The pieces of `n` bytes at `a` by sector: sector, offset in it, length. -/
def piecesFrom (a n : Nat) : Nat → List (Nat × Nat × Nat)
  | 0 => []
  | fuel + 1 =>
    if n = 0 then []
    else
      let k := min n (32 - a % 32)
      (a / 32, a % 32, k) :: piecesFrom (a + k) (n - k) fuel

/-- The pieces of a range by sector. -/
def pieces (a n : Nat) : List (Nat × Nat × Nat) := piecesFrom a n (n / 32 + 2)

/-- A range read at its home: bytes, and for each byte's sector whether it is poisoned. -/
def State.readRange (s : State) (lod pa n : Nat) (ids : Nat × Nat) : State × List Byte × List Bool :=
  (pieces pa n).foldl (fun acc pc =>
    let r := acc.1.readSector lod pc.1 ids
    (r.1, acc.2.1 ++ slice r.2.bytes pc.2.1 pc.2.2, acc.2.2 ++ [r.2.poison])) (s, [], [])

/-- A range written at its home with one poison for all of it. -/
def State.writeRange (s : State) (lod pa : Nat) (b : List Byte) (p : Bool) (ids : Nat × Nat) : State :=
  ((pieces pa b.length).foldl (fun acc pc =>
    (acc.1.storeSector lod pc.1 pc.2.1 (acc.2.take pc.2.2) p ids, acc.2.drop pc.2.2)) (s, b)).1

end Sys2Proof.Machine
end

