-- ==== Sys2Proof/Machine/Operands.lean ====
section
/-! DEFINITION. The operand forms: fields and reserved bits of packets (02, R32 to R37), and the virtual addresses that commands,
core code and the porters name: translation, permission, and reading and writing through it (13, R318 to R322). -/

namespace Sys2Proof.Machine

/-! ### Packets (02, R32, R34) -/

/-- A field of a command's chain, by byte offset in the chain. -/
def Cmd.f (c : Cmd) (off n : Nat) : Nat := field c.packet off n

/-- Header flags (R32). -/
def flagFence (fl : Nat) : Bool := bit fl 0
/-- `SIGNAL_ON_DONE`. -/
def flagSignal (fl : Nat) : Bool := bit fl 1
/-- `INT_ON_DONE`. -/
def flagInt (fl : Nat) : Bool := bit fl 2
/-- `DIGEST`. -/
def flagDigest (fl : Nat) : Bool := bit fl 3
/-- `TRACE`. -/
def flagTrace (fl : Nat) : Bool := bit fl 4
/-- `EXT`. -/
def flagExt (fl : Nat) : Bool := bit fl 6

/-- The bits of one byte that fields allow; a field is its first byte and its number of low bits. -/
def allowedBits (fields : List (Nat × Nat)) (off : Nat) : Nat :=
  fields.foldl (fun m f =>
    if f.1 ≤ off then m ||| (2 ^ min 8 (f.2 - 8 * (off - f.1)) - 1) else m) 0

/-- Parameter bytes of the chain (R32 to R34): 16 to 55 of the first packet, 4 to 63 of each continuation. -/
def isParamByte (off : Nat) : Bool := if off < 64 then decide (16 ≤ off ∧ off < 56) else decide (4 ≤ off % 64)

/-- Some bit of `v` outside `mask`. -/
def strayBits (v mask : Nat) : Bool := decide (v &&& mask ≠ v)

/-- The first parameter byte, ascending through the chain, with a reserved bit set (R37 step 7). -/
def reservedAt (packet : List Byte) (fields masks : List (Nat × Nat)) : Option Nat :=
  (List.range packet.length).find? (fun off =>
    isParamByte off && strayBits (byteAt packet off) (allowedBits fields off ||| Tab.get masks off 0))

/-! ### Translation (13, R319 to R321; 19, R416) -/

/-- Permission bits. -/
def permRead : Nat := 1
/-- Write. -/
def permWrite : Nat := 2
/-- Execute. -/
def permExec : Nat := 4

/-- The first address of the device's own virtual range (19, R416). -/
def deviceVa : Nat := 2 ^ 57 - 2 ^ 32

/-- End of the lodging's highest extent. -/
def Contract.top (c : Contract) : Nat :=
  c.extents.foldl (fun m e => if e.2 = 0 then m else max m ((e.1 + e.2) * 2 ^ 30)) 0

/-- Base of the table reserve, of the trace region and of the save area, from the top down (13, R327). -/
def Contract.tableBase (c : Contract) : Nat := c.top - c.tableMib * 2 ^ 20
/-- Base of the trace region. -/
def Contract.traceBase (c : Contract) : Nat := c.tableBase - c.traceMib * 2 ^ 20
/-- Base of the save area: 6.5 MiB for each `SHARED` cluster. -/
def Contract.saveBase (c : Contract) : Nat := c.traceBase - popcount c.shared 32 * (13 * 2 ^ 19)

/-- A virtual address translated for an access: the physical address, or 0x0300 or 0x0301. -/
def State.trans (s : State) (lod va need : Nat) : Except Nat Nat :=
  let l := s.lod lod
  if va ≥ deviceVa then
    match l.contract with
    | some c =>
      if va < deviceVa + c.traceMib * 2 ^ 20 then
        (if need = permRead then .ok (c.traceBase + (va - deviceVa)) else .error 0x0301)
      else if need = permWrite then .error 0x0301 else .error 0x0300
    | none => .error 0x0300
  else
    match l.mapping? va with
    | none => .error 0x0300
    | some m => if m.perm &&& need = need then .ok (m.pa + (va - m.va)) else .error 0x0301

/-- A range translated page by page: physical pieces in ascending order. -/
def State.transFrom (s : State) (lod va n need : Nat) : Nat → Except Nat (List (Nat × Nat))
  | 0 => .ok []
  | fuel + 1 =>
    if n = 0 then .ok []
    else
      let k := min n (4096 - va % 4096)
      match s.trans lod va need with
      | .error e => .error e
      | .ok pa =>
        match s.transFrom lod (va + k) (n - k) need fuel with
        | .error e => .error e
        | .ok r => .ok ((pa, k) :: r)

/-- A range of virtual addresses translated (R321). -/
def State.transRange (s : State) (lod va n need : Nat) : Except Nat (List (Nat × Nat)) :=
  s.transFrom lod va n need (n / 4096 + 2)

/-! ### Remote lines (09, R224) -/

/-- Whether a fetch of a remote line is on its way. -/
def State.fetching (s : State) (lod line : Nat) : Bool :=
  s.fab.txns.any (fun t => match t.kind with | .fetch l n _ => l == lod && n == line | _ => false)

/-- The Reduce lines that hold part of a remote line. -/
def State.reduceOf (s : State) (lod line : Nat) : List CacheLine :=
  s.stn.lines.filter (fun l => l.lod == lod && l.isReduce && l.addr / 128 == line)

/-- The Reduce lines of a list written home; the list of those that could not be reached. -/
def State.sendHomes (s : State) : List CacheLine → State × List CacheLine
  | [] => (s, [])
  | l :: r =>
    match s.sendHome l [] with
    | some s' => s'.sendHomes r
    | none =>
      let x := s.sendHomes r
      (x.1, l :: x.2)

/-- What a read of a remote line meets. -/
inductive RemoteRead where
  | bytes (s : State) (b : List Byte) (poison : Nat)
  | wait (s : State)
  | fault (s : State) (st d : Nat)
  | unreachable (s : State)

/-- The refusal that a fetch of a remote line met. -/
def State.fetchFault? (s : State) (lod line : Nat) : Option (Nat × Nat) :=
  s.fab.txns.findSome? (fun t =>
    match t.kind with
    | .fetchFault l n st d => if l = lod ∧ n = line then some (st, d) else none
    | _ => none)

/-- A copy of a remote line that answers one read and is not kept (R237). -/
def State.onceCopy? (s : State) (lod line : Nat) : Option CacheLine :=
  s.stn.lines.find? (fun l => l.lod == lod && l.line == line && decide (l.col ≥ 512))

/-- A fetch of a remote line sent to its home, to be awaited. -/
def State.sendFetch (s : State) (lod line : Nat) : RemoteRead :=
  let t := s.newTxn lod (128 * line) (.fetch lod line true)
  match t.1.cylSend (deviceOf (128 * line)) opRead (localOf (128 * line)) (t.2 % 2 ^ 16) [BitVec.ofNat 8 15] (some t.2) with
  | .sent s' => .wait s'
  | .held => .wait s
  | .unreachable => .unreachable s

/-- A read of a whole remote line by a lodging: a copy that a fetch brought for one read; a hit in a Shared copy; a Reduce line is written
home first; otherwise a fetch is sent to the home and awaited (R224, R237). -/
def State.remoteLine (s : State) (lod line : Nat) : RemoteRead :=
  match s.onceCopy? lod line, s.shared? lod line with
  | some l, _ =>
    match l.kind with
    | .shared b p => .bytes s b p
    | _ => .unreachable s
  | none, some l =>
    let r := s.checkCopy l l.words (0, 0)
    match r.2.kind with
    | .shared b p => .bytes (r.1.touchLine r.2) b p
    | _ => .unreachable s
  | none, none =>
    match s.fetchFault? lod line with
    | some f => .fault s f.1 f.2
    | none =>
      match s.reduceOf lod line with
      | [] => if s.fetching lod line then .wait s else s.sendFetch lod line
      | ls =>
        let h := s.sendHomes ls
        if !h.2.isEmpty then .unreachable h.1 else h.1.sendFetch lod line

/-- The Shared copy of a remote line updated with bytes written through it (R224, R226). -/
def State.patchShared (s : State) (lod pa : Nat) (b : List Byte) (poison : Bool) : State :=
  match s.shared? lod (pa / 128) with
  | some l =>
    match l.kind with
    | .shared old p =>
      let new := { l with kind := .shared (patch old (pa % 128) b) (poisonAfter p (pa % 128) b.length poison) }
      (s.useLine l new).writeCopy new (((List.range 16).filter (fun w => overlaps (8 * w) 8 (pa % 128) b.length)))
    | _ => s
  | none => s

/-- A write that passes through to its remote home: a Reduce line is written home first, a Shared copy is updated (R224). -/
def State.remoteStore (s : State) (lod pa : Nat) (b : List Byte) (kind : TxnKind) (poison : Bool := false) : Sent :=
  let h := s.sendHomes (s.reduceOf lod (pa / 128))
  if !h.2.isEmpty then .unreachable
  else
    let t := h.1.newTxn lod pa kind
    let whole := pa % 32 = 0 ∧ b.length % 32 = 0
    match t.1.cylSend (deviceOf pa) (if whole then opWrite else opWritePartial) (if whole then localOf pa else alignDown (localOf pa) 128)
        (t.2 % 2 ^ 16) (if whole then b else partialBytes (pa % 128) b) (some t.2) poison with
    | .sent s' => .sent (s'.patchShared lod pa b poison)
    | x => x

/-! ### Reading and writing through translation -/

/-- What a virtual read gives. -/
inductive VRead where
  | fail (s : State) (st d : Nat)
  | wait (s : State)
  | ok (s : State) (bytes : List Byte) (poison : List Bool)

/-- One piece of a read. `ans` is the host's answer to a read of host memory in this step; the function it serves logs its error (10, R462).
-/
def State.readPiece (s : State) (lod pa n operand : Nat) (ans : HostAns) (ids : Nat × Nat) : VRead :=
  match placeOf pa with
  | .remote =>
    match s.remoteLine lod (pa / 128) with
    | .bytes s b p => .ok s (slice b (pa % 128) n) ((pieces (pa % 128) n).map (fun pc => bit p pc.1))
    | .wait s' => .wait s'
    | .fault s st d => .fail s st (failDetail st d operand pa)
    | .unreachable s => .fail s 0x0305 (deviceOf pa)
  | .host =>
    let r := s.readRange lod pa n ids
    if ans = .unsupported then .fail (r.1.logHost lod ans) 0x0301 operand
    else .ok (r.1.logHost lod ans) r.2.1 (r.2.2.map (fun p => p || hostPoisons ans))
  | _ =>
    match s.withdrawn pa with
    | some k => .fail s 0x0501 k
    | none =>
      let r := s.readRange lod pa n ids
      .ok r.1 r.2.1 r.2.2

/-- The pieces of a read, remote ones cut at lines. -/
def linePieces (pa n : Nat) : Nat → List (Nat × Nat)
  | 0 => []
  | fuel + 1 =>
    if n = 0 then []
    else if placeOf pa = .remote then
      let k := min n (128 - pa % 128)
      (pa, k) :: linePieces (pa + k) (n - k) fuel
    else [(pa, n)]

/-- A list of physical pieces read. A wait keeps the fetches of every piece that waits. -/
def State.readPieces (s : State) (lod operand : Nat) (ans : HostAns) (ids : Nat × Nat) : List (Nat × Nat) → VRead
  | [] => .ok s [] []
  | (pa, n) :: r =>
    match s.readPiece lod pa n operand ans ids with
    | .fail s' st d => .fail s' st d
    | .wait s' => .wait s'
    | .ok s' b p =>
      match s'.readPieces lod operand ans ids r with
      | .fail s'' st d => .fail s'' st d
      | .wait s'' => .wait s''
      | .ok s'' b' p' => .ok s'' (b ++ b') (p ++ p')

/-- Copies that answer one read, used up by a read of some physical pieces. -/
def State.useUpPieces (s : State) (lod : Nat) (ps : List (Nat × Nat)) : State :=
  ps.foldl (fun s p => if placeOf p.1 = .remote then s.useUp lod (p.1 / 128) else s) s

/-- A virtual range read for an operand (R321; 10, R462). -/
def State.vread (s : State) (lod va n need operand : Nat) (ans : HostAns) (ids : Nat × Nat) : VRead :=
  match s.transRange lod va n need with
  | .error st => .fail s st operand
  | .ok ps =>
    let ls := (ps.map (fun p => linePieces p.1 p.2 (p.2 / 128 + 2))).flatten
    match s.readPieces lod operand ans ids ls with
    | .ok s' b p => .ok (s'.useUpPieces lod ls) b p
    | x => x

/-- What a check at fetch that reads memory gives. -/
inductive CheckRes where
  /-- It passes: the bytes read of memory, which the operator then uses, and the poison of each entry or sector of them. -/
  | ok (s : State) (read : List Byte) (poison : List Bool)
  | bad (s : State) (st d : Nat)
  | wait (s : State)

/-- What a virtual write gives. -/
inductive VWrite where
  | fail (st d : Nat)
  | wait
  | ok (s : State) (acks : Nat)

/-- The pieces of a write; `acks` counts the remote homes whose acknowledgement is awaited, each by a transaction of the kind given. -/
def State.writePieces (s : State) (lod operand : Nat) (kind : TxnKind) (p : Bool) (ids : Nat × Nat) (acks : Nat) :
    List (Nat × Nat) → List Byte → VWrite
  | [], _ => .ok s acks
  | (pa, n) :: r, b =>
    match placeOf pa with
    | .remote =>
      match s.remoteStore lod pa (b.take n) kind p with
      | .held => .wait
      | .unreachable => .fail 0x0305 (deviceOf pa)
      | .sent s' => s'.writePieces lod operand kind p ids (acks + 1) r (b.drop n)
    | _ =>
      match s.withdrawn pa with
      | some k => .fail 0x0501 k
      | none => (s.writeRange lod pa (b.take n) p ids).writePieces lod operand kind p ids acks r (b.drop n)

/-- A virtual range written (R321), remote pieces by transactions of a kind: nothing is written where its translation or permission
fails. -/
def State.vwriteAs (s : State) (lod va operand : Nat) (b : List Byte) (p : Bool) (kind : TxnKind) (ids : Nat × Nat) : VWrite :=
  match s.transRange lod va b.length permWrite with
  | .error st => .fail st operand
  | .ok ps =>
    s.writePieces lod operand kind p ids 0 ((ps.map (fun q => linePieces q.1 q.2 (q.2 / 128 + 2))).flatten) b

/-- A virtual range written for a command. -/
def State.vwrite (s : State) (lod va operand : Nat) (b : List Byte) (p : Bool) (cmd : Option Nat) (ids : Nat × Nat) : VWrite :=
  s.vwriteAs lod va operand b p (.remoteWrite cmd operand) ids

/-- Bytes written with poison sector by sector of the range. -/
def State.vwriteSectors (s : State) (lod va operand : Nat) (b : List Byte) (ps : List Bool) (cmd : Option Nat)
    (ids : Nat × Nat) : VWrite :=
  (pieces va b.length).zipIdx.foldl (fun acc x =>
    match acc with
    | .ok s n =>
      let off := 32 * x.1.1 + x.1.2.1 - va
      match s.vwrite lod (va + off) operand (slice b off x.1.2.2) (ps.getD x.2 false) cmd ids with
      | .ok s' k => .ok s' (n + k)
      | y => y
    | y => y) (.ok s 0)

/-- Whether the sector of a virtual address is poisoned at a local home, as it stands after a write (19, R428). -/
def State.elemPoisoned (s : State) (lod va : Nat) (p : Bool) : Bool :=
  match (s.lod lod).pa? va with
  | some pa => if placeOf pa = .remote ∨ placeOf pa = .host then p else s.mem.poisoned pa
  | none => p

/-- Elements of one run of a tensor noted for a digest: index of the first, their codes, the address and width of the first. -/
def State.digestElems (s : State) (lod va w : Nat) (p : Bool) (first : Nat) (codes : List Nat) (t : Tab (Nat × Bool)) : Tab (Nat × Bool) :=
  codes.zipIdx.foldl (fun (t : Tab (Nat × Bool)) x => t.set (first + x.2) (x.1, s.elemPoisoned lod (va + w * x.2) p)) t

/-- Whether a command of the state asks for a digest. -/
def State.wantsDigest (s : State) (id : Nat) : Bool := match s.cmd? id with | some c => flagDigest c.flags | none => false

/-- Whether any sector of a read is poisoned. -/
def anyPoison (p : List Bool) : Bool := p.any id

end Sys2Proof.Machine
end

