-- ==== Sys2Proof/Machine/Galley.lean ====
section
/-! DEFINITION. What the porters do around a command (02): the descriptor and its write-back, stops, the ring's slots and chains,
the arbitration, ending a command, signals and their waits, and the trace records (19). -/

namespace Sys2Proof.Machine

/-! ### Home, descriptor, faults (02, R26, R28, R31, R453) -/

/-- The home porter of a galley (R26). -/
def State.homePorter (s : State) (l g : Nat) : Nat :=
  let d := (s.galley l g).desc
  if d.homeEn then d.home else g % 4

/-- The number of a galley state. -/
def GState.code : GState → Nat
  | .disabled => 0
  | .active => 1
  | .stopped => 2
  | .draining => 3

/-- Bytes 20 to 39 of a descriptor (R26). -/
def Galley.tailBytes (x : Galley) : List Byte :=
  leBytes 1 x.state.code ++ leBytes 1 0 ++ leBytes 2 x.errStatus ++ leBytes 4 x.head ++ leBytes 4 x.tail ++
    leBytes 4 x.cplCount ++ leBytes 4 x.errSeq

/-- A porter access translated: a global target is a permission failure (R452). -/
def State.porterTrans (s : State) (lod va n need : Nat) : Except Nat (List (Nat × Nat)) :=
  match s.transRange lod va n need with
  | .error e => .error e
  | .ok ps =>
    if ps.any (fun p => placeOf p.1 == .remote) then .error 0x0301
    else if ps.any (fun p => (s.withdrawn p.1).isSome) then .error 0x0501 else .ok ps

/-- The address of a galley's descriptor. -/
def State.descVa (s : State) (l g : Nat) : Nat := (s.lod l).gdtBase + 64 * g

/-- `GALLEY_FAULT` set by a stop of R45 or R453. -/
def State.noteFault (s : State) (l g st d : Nat) : State :=
  (s.modLod l (fun x => { x with gfault := { valid := true, galley := g, status := st, detail := d } })).setNow (.galleyFault l)

/-- Bytes written at translated pieces. -/
def State.writeAt (s : State) (lod : Nat) : List (Nat × Nat) → List Byte → State
  | [], _ => s
  | (pa, n) :: r, b => (s.writeRange lod pa (b.take n) false (0, 0)).writeAt lod r (b.drop n)

/-- Bytes read at translated pieces, and whether any sector is poisoned. -/
def State.readAt (s : State) (lod : Nat) : List (Nat × Nat) → State × List Byte × Bool
  | [] => (s, [], false)
  | (pa, n) :: r =>
    let x := s.readRange lod pa n (0, 0)
    let y := x.1.readAt lod r
    (y.1, x.2.1 ++ y.2.1, anyPoison x.2.2 || y.2.2)

/-- The commands of a galley that were fetched and have not started end with 0x0401 (R27, R41, R43): `START` equals `END`. -/
def State.abortFetched (s : State) (l g d : Nat) (but : Option Nat) : State :=
  { s with cmds := s.cmds.map (fun c =>
      if c.lod = l ∧ c.g = g ∧ c.phase = .fetched ∧ some c.id ≠ but then
        { c with phase := .ended, status := 0x0401, detail := d, start := s.now, endT := s.now, failing := some (0x0401, d) }
      else c) }

/-- The galley goes to STOPPED for a cause of R41, and because it has stopped its vector is raised (R26, R45; LOG 123); one that is
already STOPPED or DRAINING keeps its first stop (R454). -/
def State.stopOnly (s : State) (l g st seq : Nat) (but : Option Nat) : State :=
  if (s.galley l g).state = .active then
    ((s.modGalley l g (fun x => { x with state := .stopped, errStatus := st, errSeq := seq })).abortFetched l g 1 but).raiseGalley l g
  else s

/-- Bytes 20 to 39 written back to the descriptor; a failure stops the galley (R31, R453). -/
def State.writeBackDesc (s : State) (l g : Nat) : State :=
  match s.porterTrans l (s.descVa l g + 20) 20 permWrite with
  | .ok ps => s.writeAt l ps (s.galley l g).tailBytes
  | .error e => (s.stopOnly l g e 0 none).noteFault l g e 0xFFFD

/-- A stop with its descriptor written where it can be. -/
def State.stopGalley (s : State) (l g st seq : Nat) (but : Option Nat) : State :=
  (s.stopOnly l g st seq but).writeBackDesc l g

/-! ### Ring slots and chains (02, R34) -/

/-- What the read of a slot gives. -/
inductive SlotRead where
  | fault (st : Nat)
  | poisoned (b : List Byte)
  | packet (b : List Byte)

/-- A slot read: packet number i is in slot i mod 2^k. -/
def State.readSlot (s : State) (l g i : Nat) : State × SlotRead :=
  let d := (s.galley l g).desc
  match s.porterTrans l (d.base + 64 * (i % 2 ^ d.log2Size)) 64 permRead with
  | .error e => (s, .fault e)
  | .ok ps =>
    let r := s.readAt l ps
    if r.2.2 then (r.1, .poisoned r.2.1) else (r.1, .packet r.2.1)

/-- What the examination of a chain gives (R34): `b` holds the slots read, `used` their number, `bad` the index of the first bad continuation
packet. -/
inductive Chain where
  | uncovered
  | fault (st : Nat) (b : List Byte)
  | poisoned (b : List Byte) (used : Nat)
  | packets (b : List Byte) (used : Nat) (bad : Option Nat)

/-- The bytes of the slots that an examination has read. -/
def Chain.bytes : Chain → List Byte
  | .uncovered => []
  | .fault _ b => b
  | .poisoned b _ => b
  | .packets b _ _ => b

/-- Whether a continuation packet with index k follows R34; the seventh claims no further one (LOG 26). -/
def contOk (b : List Byte) (k : Nat) : Bool :=
  field b 0 2 == 0xFFFE && !strayBits (byteAt b 2) (if k < 7 then 0x40 else 0) && byteAt b 3 == k && decide (k ≤ 7)

/-- The chain from packet `k` on; `left` packets are covered by `TAIL`. -/
def State.chainFrom (s : State) (l g i k left : Nat) (acc : List Byte) : Nat → State × Chain
  | 0 => (s, .uncovered)
  | fuel + 1 =>
    if left = 0 then (s, .uncovered)
    else
      match s.readSlot l g (i + k) with
      | (s, .fault st) => (s, .fault st acc)
      | (s, .poisoned b) => (s, .poisoned (acc ++ b) (k + 1))
      | (s, .packet b) =>
        if k ≠ 0 ∧ !contOk b k then (s, .packets (acc ++ b) (k + 1) (some k))
        else if bit (byteAt b 2) 6 then s.chainFrom l g i (k + 1) (left - 1) (acc ++ b) fuel
        else (s, .packets (acc ++ b) (k + 1) none)

/-- The chain at the head of a galley's ring. -/
def State.chain (s : State) (l g : Nat) : State × Chain :=
  let x := s.galley l g
  s.chainFrom l g x.head 0 ((x.tail + 2 ^ 32 - x.head) % 2 ^ 32) [] 9

/-! ### Arbitration (02, R40, R42, R57) -/

/-- Whether a galley has packets to fetch: ACTIVE, and `TAIL` covers some. -/
def Galley.rung (x : Galley) : Bool := x.state == .active && x.head != x.tail

/-- Whether a `SIGNAL_WAIT` of a galley is pending. -/
def State.waitPending (s : State) (l g : Nat) : Bool :=
  (s.galleyCmds l g).any (fun c => c.phase == .running && c.opcode == 0x0602)

/-- The first command of a galley that has been fetched and waits to be dispatched. -/
def State.firstFetched (s : State) (l g : Nat) : Option Cmd :=
  s.cmds.find? (fun c => c.lod == l && c.g == g && c.phase == .fetched)

/-- Whether R40 lets a command start: every earlier command of its galley has started, no `SIGNAL_WAIT` before it is pending, and with
`FENCE_BEFORE` every earlier command has completed. -/
def State.mayStart (s : State) (c : Cmd) : Bool :=
  let earlier := (s.galleyCmds c.lod c.g).filter (fun e => decide (e.id < c.id))
  earlier.all (fun e => e.phase != .fetched && !(e.phase == .running && e.opcode == 0x0602))
    && (!flagFence c.flags || earlier.isEmpty)

/-- Whether `TAIL` covers all of the chain at the head of a ring, as far as its `EXT` bits claim (R34). -/
def State.chainCovered (s : State) (l g : Nat) : Bool :=
  match (s.chain l g).2 with
  | .uncovered => false
  | _ => true

/-- Whether the next command of a galley to dispatch is not held back (R34, R40): one that waits fetched may start; of one still in the
ring, whose flags are not known, no `SIGNAL_WAIT` stands before it and its chain is covered (LOG 25). -/
def State.galleyReady (s : State) (l g : Nat) : Bool :=
  match s.firstFetched l g with
  | some c => s.mayStart c
  | none => (s.galley l g).rung && !s.waitPending l g && s.chainCovered l g

/-- The rung galleys of a porter, those with a command fetched and not dispatched among them: lodging, galley, class, priority (R42). In
rescue mode none runs (17, R390). -/
def State.rungGalleys (s : State) (k : Nat) : List (Nat × Nat × Nat × Nat) :=
  if s.rel.mode = 2 then []
  else
    (s.lods.map (fun e =>
      if e.2.state = .active then
        (e.2.galleys.filter (fun x => s.homePorter e.1 x.1 == k && (x.2.rung || (s.firstFetched e.1 x.1).isSome))).map
          (fun x => (e.1, x.1, x.2.desc.cls, x.2.desc.priority))
      else [])).flatten

/-- The next member of a list after `last` in round-robin order of numbers below `n`. -/
def nextRound (n last : Nat) (ok : Nat → Bool) : Option Nat :=
  ((List.range n).map (fun i => (last + 1 + i) % n)).find? ok

/-- The class of the next selection, and the porter with its round advanced (R42, R57): `ready` classes have a rung galley that is not held
back. A round ends when no ready class has a turn left in it (LOG 128); a class of weight 0 is served only while no class of nonzero weight
has a rung galley, held back or not. -/
def Porter.nextClass (p : Porter) (rung ready : Nat → Bool) : Option (Nat × Porter) :=
  match nextRound 8 p.lastClass (fun c => ready c && decide (p.left.getD c 0 > 0)) with
  | some c => some (c, { p with left := p.left.set c (p.left.getD c 0 - 1), lastClass := c })
  | none =>
    let p := { p with weights := p.nextWeights, left := p.nextWeights }
    match nextRound 8 p.lastClass (fun c => ready c && decide (p.left.getD c 0 > 0)) with
    | some c => some (c, { p with left := p.left.set c (p.left.getD c 0 - 1), lastClass := c })
    | none =>
      if (List.range 8).any (fun c => rung c && decide (p.weights.getD c 0 > 0)) then none
      else
        match nextRound 8 p.lastClass ready with
        | some c => some (c, { p with lastClass := c })
        | none => none

/-- One selection of a porter: lodging, galley, and the porter afterwards (R42). The round-robin place among lodgings is kept for each
class, that among galleys for each lodging and class (LOG 129). -/
def State.select (s : State) (k : Nat) : Option (Nat × Nat × Porter) :=
  let all := s.rungGalleys k
  let cs := all.filter (fun x => s.galleyReady x.1 x.2.1)
  let p := s.porter k
  match p.nextClass (fun c => all.any (fun x => x.2.2.1 == c)) (fun c => cs.any (fun x => x.2.2.1 == c)) with
  | none => none
  | some (c, p) =>
    let cs := cs.filter (fun x => x.2.2.1 == c)
    match nextRound 256 (p.lastLod.get c 255) (fun l => cs.any (fun x => x.1 == l)) with
    | none => none
    | some l =>
      let cs := cs.filter (fun x => x.1 == l)
      let top := cs.foldl (fun m x => max m x.2.2.2) 0
      match nextRound 1024 (p.lastGalley.get (8 * l + c) 1023) (fun g => cs.any (fun x => x.2.1 == g && x.2.2.2 == top)) with
      | none => none
      | some g => some (l, g, { p with lastLod := p.lastLod.set c l, lastGalley := p.lastGalley.set (8 * l + c) g })

/-- A porter's place after a selection that is used; its counters stay as they stand. -/
def State.usePorter (s : State) (k : Nat) (p : Porter) : State :=
  s.modPorter k (fun q => { p with lateDiscard := q.lateDiscard, checkFails := q.checkFails })

/-- Whether the porter may fetch the next packet of a galley now: it selects the galley, or a fetched command of the galley
waits behind `FENCE_BEFORE` and the fetch uses no turn; nothing is fetched behind a pending `SIGNAL_WAIT` (LOG 25). The porter
afterwards. -/
def State.grantFetch (s : State) (l g : Nat) : Option Porter :=
  let k := s.homePorter l g
  if (s.lod l).state = .active ∧ (s.galley l g).rung ∧ s.rel.mode ≠ 2 then
    if s.waitPending l g then none
    else
      match s.firstFetched l g with
      | some c => if s.mayStart c then none else some (s.porter k)
      | none =>
        match s.select k with
        | some (l', g', p) => if l' = l ∧ g' = g then some p else none
        | none => none
  else none

/-! ### Trace (19, R416 to R420) -/

/-- Bytes of one quarter of a trace region. -/
def Contract.quarterBytes (c : Contract) : Nat := c.traceMib * 2 ^ 20 / 4

/-- Slots of a quarter. -/
def Contract.traceSlots (c : Contract) : Nat := (c.quarterBytes - 64) / 32

/-- The trace writer of a stack for a lodging. -/
def Lodging.writer (l : Lodging) (k : Nat) : TraceWriter := l.trace.get k TraceWriter.reset

/-- One record placed at its slot (R416). -/
def State.putTrace (s : State) (l k : Nat) (rec : List Byte) : State :=
  match s.contract? l with
  | none => s
  | some c =>
    if c.traceMib = 0 then s
    else
      let w := (s.lod l).writer k
      let pa := c.traceBase + k * c.quarterBytes + 64 + 32 * (w.written % c.traceSlots)
      let s := s.writeRange l pa rec false (0, 0)
      s.modLod l (fun x => { x with trace := x.trace.mod k TraceWriter.reset (fun w => { w with written := w.written + 1 }) })

/-- A trace record (R417). -/
def traceBytes (time type stack layer oper seq gal status opcode value : Nat) : List Byte :=
  leBytes 6 time ++ leBytes 1 type ++ leBytes 1 stack ++ leBytes 2 layer ++ leBytes 2 oper ++ leBytes 4 seq ++ leBytes 2 gal ++
    leBytes 2 status ++ leBytes 2 opcode ++ leBytes 2 0 ++ leBytes 8 value

/-- One record of a writer; one for which its buffer has no room is dropped (R419). -/
def State.trace (s : State) (l k : Nat) (rec : List Byte) : State :=
  if ((s.lod l).writer k).full then
    s.modLod l (fun x => { x with trace := x.trace.mod k TraceWriter.reset (fun (w : TraceWriter) =>
      { w with dropped := w.dropped + 1, sinceDrop := w.sinceDrop + 1 }) })
  else s.putTrace l k rec

/-- The start record of a traced command. -/
def State.traceStart (s : State) (c : Cmd) : State :=
  if flagTrace c.flags then
    s.trace c.lod c.stack (traceBytes c.start 1 c.stack c.layer c.oper c.seq c.g 0 c.opcode c.tag)
  else s

/-- The end record of a traced command. -/
def State.traceEnd (s : State) (c : Cmd) : State :=
  if flagTrace c.flags then
    s.trace c.lod c.stack (traceBytes c.endT 2 c.stack c.layer c.oper c.seq c.g c.status c.opcode c.work)
  else s

/-! ### Ending a command; signals (02, R43, R49 to R53) -/

/-- A command's outcome is decided: `END` is now, its status by R47. -/
def State.endCmd (s : State) (id : Nat) : State :=
  s.modCmd id (fun c =>
    if c.phase = .running then { c with phase := .ended, endT := s.now, status := c.outcome.1, detail := c.outcome.2 } else c)

/-- A command ended with a status of its own. -/
def State.endWith (s : State) (id st d : Nat) : State := (s.failCmd id st d).endCmd id

/-- A running command ended with status `OK` and its work count. -/
def State.finish (s : State) (id work : Nat) : State := (s.modCmd id (fun c => { c with work := work })).endCmd id

/-- Value of a signal. -/
def State.signal (s : State) (l i : Nat) : Nat := (s.lod l).signals.get i 0

/-- Whether a signal value satisfies the comparison of a `SIGNAL_WAIT` (R51). -/
def Cmd.satisfied (c : Cmd) (v : Nat) : Bool :=
  if bit (c.f 18 1) 0 then v == c.f 24 8 else decide (v ≥ c.f 24 8)

/-- Whether a command is a `SIGNAL_WAIT` on a signal of a lodging. -/
def Cmd.waitsOn (c : Cmd) (l i : Nat) : Bool := c.opcode == 0x0602 && c.lod == l && c.f 16 2 == i

/-- One update of a signal by its holding porter, with the waits evaluated (R49, R52, R53). `PTR_LATE_DISCARD` counts once for each
timed-out wait that it would have satisfied (LOG 130). -/
def State.updateSignal (s : State) (l i : Nat) (f : Nat → Nat) : State :=
  let v := f (s.signal l i) % 2 ^ 64
  let s := s.modLod l (fun x => { x with signals := x.signals.set i v })
  let late := s.cmds.countP (fun c => c.waitsOn l i && c.phase == .ended && c.status == 0x0400 && c.satisfied v)
  let s :=
    if late = 0 then s
    else (s.modPorter (l % 4) (fun p => { p with lateDiscard := wrap32 (p.lateDiscard + late) })).log (unitPorter (l % 4)) 0x11 0 0 0
  { s with cmds := s.cmds.map (fun c =>
      if c.waitsOn l i && c.phase == .running && c.satisfied v then
        { c with phase := .ended, endT := s.now, status := 0, detail := 0, work := v }
      else c) }

/-- A signal operation of `SIGNAL_WRITE` and `DONE_OP`: 0 set, 1 add, 2 unsigned maximum. -/
def signalOp (op value old : Nat) : Nat := if op = 0 then value else if op = 1 then old + value else max old value

end Sys2Proof.Machine
end

