-- ==== Sys2Proof/Machine/Columns.lean ====
section
/-! DEFINITION. The cores that a lodging's work may use: contract, turns, power domains, spares and heat placement
(03, R58; 13, R328; 15, R348, R349; 16, R376; 17). -/

namespace Sys2Proof.Machine

/-- The lodging that has the turn of a pool cluster. -/
def State.turn (s : State) (d : Nat) : Turn := s.turns.get d Turn.reset

/-- Whether the contract assigns a cluster to a lodging now: dedicated, or pooled and in its turn (R325, R328). -/
def State.assigned (s : State) (l d : Nat) : Bool :=
  match s.contract? l with
  | none => false
  | some c => bit c.dedicated d || (bit c.shared d && (s.turn d).lod == some l && s.passed (s.turn d).switchUntil)

/-- Whether a cluster may take work at all: not lost (17, R386) and not removed by its failed domain or its sensors. -/
def State.clusterServes (s : State) (d : Nat) : Bool :=
  !s.rel.lostClusters.contains d && !s.thm.removedClusters.contains d && (s.domain d).state != .failed

/-- Blocks resident on a column. -/
def State.blocksOn (s : State) (col : Nat) : List Block := s.blocks.filter (fun b => b.col == col && !b.saved)

/-- Whether a column's core serves and holds neither a unit nor a block (R58). -/
def State.coreFree (s : State) (col : Nat) : Bool :=
  (s.core col).served != .noCore && (s.core col).run == .idle && (s.blocksOn col).isEmpty

/-- Arrays of a column's core that are not suspect, ascending (04, R87). -/
def State.arrays (s : State) (col : Nat) : List Nat := (List.range 4).filter (fun a => !bit (s.core col).suspect a)

/-- Whether a column's core has room for a unit of a lodging. -/
def State.unitRoom (s : State) (l col : Nat) : Bool :=
  s.coreFree col && !(s.arrays col).isEmpty && s.assigned l (clusterOf col) && s.clusterServes (clusterOf col)

/-- Whether heat placement lets a unit go to a column (16, R376): a stacked cluster only when no other assigned cluster has
room. -/
def State.placementOk (s : State) (l col : Nat) : Bool :=
  !s.thm.stacked.contains (clusterOf col) ||
    !((List.range 256).any (fun c => !s.thm.stacked.contains (clusterOf c) && s.unitRoom l c))

/-- A cluster domain to which work is dispatched while it is OFF waits for its wake (15, R348, R349). -/
def State.requestWake (s : State) (d : Nat) : State :=
  if (s.domain d).state = .off then { s with pwr := { s.pwr with wakeQueue := insertNew s.pwr.wakeQueue d } } else s

/-- Work on a cluster restarts its idle timer (15, R348). -/
def State.touchDomain (s : State) (d : Nat) : State := s.modDomain d (fun x => { x with busyAt := s.now })

/-- A column's core changed to another run state. -/
def State.setRun (s : State) (col : Nat) (r : CoreRun) : State := s.modCore col (fun c => { c with run := r })

/-- Whether the clock fraction or the memory capacity is lowered (15, R363). -/
def State.lowered (s : State) : Bool := decide (s.pwr.frac < 64 ∨ s.pwr.memCap < 8)

/-- Whether a core or bank takeover that runs concerns a lodging: its cluster, or frames of its stack (17, R387). -/
def State.takenOver (s : State) (l : Nat) : Bool :=
  match s.contract? l with
  | none => false
  | some c => s.rel.queue.any (fun t => t.started.isSome &&
      (match t.kind with
       | .core => bit c.dedicated (clusterOf t.place) || bit c.shared (clusterOf t.place)
       | .bank => decide (c.cacheFrames.getD t.stack 0 + c.affRows.getD t.stack 0 + c.hashRows.getD t.stack 0 > 0)
       | _ => false))

/-- The bits of notice 0x0103 that a command of a lodging meets while it runs now: lowered rate, spare takeover (15, R363; 17, R387). -/
def State.rateBits (s : State) (l : Nat) : Nat := ofBool s.lowered + 2 * ofBool (s.takenOver l)

/-- The notice 0x0103 noted where its bits are not 0. -/
def Cmd.rated (c : Cmd) (b : Nat) : Cmd := if b = 0 then c else c.notice 0x0103 b

/-- The notice 0x0103 of every command that runs now. -/
def State.noteRates (s : State) : State :=
  { s with cmds := s.cmds.map (fun (c : Cmd) => if c.phase = .running then c.rated (s.rateBits c.lod) else c) }

/-- The bits of notice 0x0103 that work on a column meets: a capped domain, a column link at reduced rate (11, R278; 15, R351, R358). -/
def State.columnBits (s : State) (col : Nat) : Nat :=
  ofBool (s.domain (clusterOf col)).capped + 4 * ofBool (s.linkReduced .column col)

/-- The notice 0x0103 of a command whose unit or block starts on a column. -/
def State.noteColumn (s : State) (cmd col : Nat) : State := s.modCmd cmd (fun c => c.rated (s.columnBits col))

/-- The commands with a unit or a block on a column. -/
def State.cmdsOn (s : State) (col : Nat) : List Nat :=
  (match (s.core col).run with
   | .idle => []
   | .mat u => [u.key.cmd]
   | .attn u => [u.key.cmd]) ++ (s.blocksOn col).map (·.cmd)

/-- The notice 0x0103 of every command with work on some columns. -/
def State.noteColumns (s : State) (cols : List Nat) : State :=
  cols.foldl (fun s c => (s.cmdsOn c).foldl (fun s id => s.noteColumn id c) s) s

/-- The notice 0x0103, bit 0, of every command with work on a stack whose domains draw more than 335 A, for its clusters' cycles
stretch (15, R351, R359). -/
def State.noteStretch (s : State) (stackMilliamps : List Nat) : State :=
  (List.range 256).foldl (fun s c =>
    if stackMilliamps.getD (stackOf c) 0 > 335000 then (s.cmdsOn c).foldl (fun s id => s.modCmd id (fun c => c.rated 1)) s else s) s

/-- The stretched cycles of the clusters of the stacks that draw more than 335 A, counted; how many they are the spec does not state (19,
R424; LOG 13). -/
def State.countStretch (s : State) (stackMilliamps : List Nat) : State :=
  let ks := (List.range 4).filter (fun k => decide (stackMilliamps.getD k 0 > 335000))
  if ks.isEmpty then s
  else
    (ks.foldl (fun s k =>
      s.count k 0x070 none (0, 0) (leNat [Config.freeByte s.freeAt (2 * k), Config.freeByte s.freeAt (2 * k + 1)])) s).takeFree

/-- An operator takes no further units: its command failed, or its lodging is being reset, or it ended. -/
def State.opLive (s : State) (id : Nat) : Bool :=
  match s.cmd? id with
  | some c => c.phase == .running && c.failing.isNone
  | none => false

end Sys2Proof.Machine
end

