-- ==== Sys2Proof/Machine/Matrix.lean ====
section
/-! DEFINITION. The matrix operators (04): their packets and checks, units, passes with their proof, segments and epilogue. The
numerics are those of Float.lean (05). -/

namespace Sys2Proof.Machine

/-! ### Formats (04, R84, R98) -/

/-- Element width in bits of a format code. -/
def fmtBits (f : Nat) : Nat :=
  if f ≤ 1 then 16 else if f ≤ 5 then 8 else if f ≤ 7 then 6 else if f = 8 then 4 else if f ≤ 10 then 8
  else if f ≤ 12 then 4 else 32

/-- Width class of an operand format: its K_pass (R84). -/
def kPass (f : Nat) : Nat := if f ≤ 1 then 32 else if f ≤ 7 then 64 else if f = 8 then 128 else if f ≤ 10 then 64 else if f ≤ 12 then 128 else 32

/-- MX formats, two-level included. -/
def isMx (f : Nat) : Bool := decide (4 ≤ f ∧ f ≤ 9) || f == 12

/-- Per-tensor FP8. -/
def isFp8 (f : Nat) : Bool := f == 2 || f == 3

/-- Plain integers. -/
def isInt (f : Nat) : Bool := f == 10 || f == 11

/-- The floating-point format of a code. -/
def fmtOf (f : Nat) : Fmt :=
  match f with
  | 0 => .bf16
  | 1 => .fp16
  | 2 => .e4m3
  | 3 => .e5m2
  | 4 => .e4m3
  | 5 => .e5m2
  | 6 => .e3m2
  | 7 => .e2m3
  | 8 => .e2m1
  | 12 => .e2m1
  | _ => .fp32

/-- The value of an element of a format (R115, R116). -/
def elemVal (f code : Nat) : Val :=
  if f = 9 then Val.ofInt (signedOf 8 code) (-6)
  else if f = 10 then Val.ofInt (signedOf 8 code) 0
  else if f = 11 then Val.ofInt (signedOf 4 code) 0
  else decodeFmt (fmtOf f) code

/-! ### Packets (04, R99, R107, R110, R111) -/

/-- Fields that the entries of a command share. -/
def gemmParams (c : Cmd) : GemmParams :=
  let b54 := c.f 54 1
  { opcode := c.opcode, aFmt := bits (c.f 52 1) 0 4, bFmt := bits (c.f 52 1) 4 4, cFmt := bits (c.f 53 1) 4 4,
    dFmt := bits (c.f 53 1) 0 4, gauss := c.opcode == 0x0104 && bit b54 7, stochastic := bit b54 4, biasEn := bit b54 3,
    cEn := bit b54 2, bTrans := bit b54 1, aTrans := bit b54 0, act := bits (c.f 55 1) 4 3,
    segments := bits (c.f 55 1) 0 4 + 1, alpha := c.f 116 4, beta := c.f 120 4, seed := c.f 124 4,
    tolExp := bits (c.f 148 1) 0 6 }

/-- The one product of a command other than `GEMM_GROUPED`. `ELEMENTWISE_ARRAY` has no K. -/
def gemmEntry (c : Cmd) : GemmEntry :=
  { a := c.f 16 8, b := c.f 24 8, d := c.f 32 8, c := c.f 68 8, bias := c.f 76 8, aScale := c.f 84 8, bScale := c.f 92 8,
    aTile := c.f 132 8, bTile := c.f 140 8, m := c.f 40 4, n := c.f 44 4, k := if c.opcode = 0x0120 then 0 else c.f 48 4,
    lda := c.f 100 4, ldb := c.f 104 4, ldc := c.f 108 4, ldd := c.f 112 4, skipped := false }

/-- An entry of a group table (R107). -/
def groupEntry (b : List Byte) (skipped : Bool) : GemmEntry :=
  { a := field b 0 8, b := field b 8 8, d := field b 16 8, c := field b 24 8, bias := field b 32 8, aScale := field b 40 8,
    bScale := field b 48 8, aTile := field b 56 8, bTile := field b 64 8, m := field b 72 4, n := field b 76 4,
    k := field b 80 4, lda := field b 84 4, ldb := field b 88 4, ldc := field b 92 4, ldd := field b 96 4, skipped := skipped }

/-- The places of an entry's fields for details: A, B, D, C, BIAS, A_SCALE, B_SCALE, A_TILE_SCALE, B_TILE_SCALE, M, N, K, LDA,
LDB, LDC, LDD. -/
def gemmOffsets : List Nat := [16, 24, 32, 68, 76, 84, 92, 132, 140, 40, 44, 48, 100, 104, 108, 112]
/-- The same in a group table entry (R107). -/
def groupOffsets : List Nat := [0, 8, 16, 24, 32, 40, 48, 56, 64, 72, 76, 80, 84, 88, 92, 96]

/-- Elements per stored element: a complex element is a pair (R110). -/
def GemmParams.parts (p : GemmParams) : Nat := if p.opcode = 0x0104 then 2 else 1

/-- C is read (R102, R103). -/
def GemmParams.readsC (p : GemmParams) : Bool := p.cEn && !isZero p.beta

/-- Bytes of a stored row of `e` elements of a format (R100). -/
def GemmParams.rowBytes (p : GemmParams) (f e : Nat) : Nat := (e * fmtBits f * p.parts + 7) / 8

/-- The stored rows and elements of A and B. -/
def GemmParams.aRows (p : GemmParams) (e : GemmEntry) : Nat × Nat :=
  if p.opcode = 0x0120 then (e.m, e.n) else if p.aTrans then (e.k, e.m) else (e.m, e.k)
/-- Of B. -/
def GemmParams.bRows (p : GemmParams) (e : GemmEntry) : Nat × Nat :=
  if p.opcode = 0x0120 then (e.m, e.n) else if p.bTrans then (e.n, e.k) else (e.k, e.n)

/-- Nothing is read or written: M or N is 0 (R106). -/
def GemmEntry.empty (e : GemmEntry) : Bool := e.m == 0 || e.n == 0

/-- A and B are read (R106). -/
def GemmParams.readsAB (p : GemmParams) (e : GemmEntry) : Bool := !e.empty && (p.opcode == 0x0120 || e.k != 0)

/-- The address range of an operand of rows. -/
def rowRange (addr rows stride rowBytes : Nat) : Nat × Nat :=
  if rows = 0 then (addr, 0) else (addr, (rows - 1) * stride + rowBytes)

/-- The ranges an entry reads, C apart. -/
def GemmParams.readRanges (p : GemmParams) (e : GemmEntry) : List (Nat × Nat) :=
  let ab := p.readsAB e
  let scale := fun f addr rows => if ab && isMx f then [(addr, rows * e.k / 32)] else if ab && isFp8 f then [(addr, 4)] else []
  (if ab then
      [rowRange e.a (p.aRows e).1 e.lda (p.rowBytes p.aFmt (p.aRows e).2),
       rowRange e.b (p.bRows e).1 e.ldb (p.rowBytes p.bFmt (p.bRows e).2)] else []) ++
    (if p.biasEn && !e.empty then [(e.bias, 4 * e.n * p.parts)] else []) ++
    scale p.aFmt e.aScale e.m ++ scale p.bFmt e.bScale e.n ++
    (if ab && p.aFmt == 12 then [(e.aTile, 4 * ((e.m + 127) / 128) * ((e.k + 127) / 128))] else []) ++
    (if ab && p.bFmt == 12 then [(e.bTile, 4 * ((e.k + 127) / 128) * ((e.n + 127) / 128))] else [])

/-- The range of D. -/
def GemmParams.dRange (p : GemmParams) (e : GemmEntry) : Nat × Nat :=
  if e.empty then (e.d, 0) else rowRange e.d e.m e.ldd (p.rowBytes p.dFmt e.n)

/-- The range of C where it is read. -/
def GemmParams.cRange (p : GemmParams) (e : GemmEntry) : Nat × Nat :=
  if p.readsC && !e.empty then rowRange e.c e.m e.ldc (p.rowBytes p.cFmt e.n) else (e.c, 0)

/-- Whether two ranges meet; an empty one meets nothing. -/
def rangesMeet (a b : Nat × Nat) : Bool := a.2 != 0 && b.2 != 0 && overlaps a.1 a.2 b.1 b.2

/-! ### Checks (04, R101, R107, R109 to R111) -/

/-- Continuation packets (R101): the detail of 0x0204. -/
def gemmConts (c : Cmd) (n : Nat) : Option Nat :=
  let p := gemmParams c
  if n = 0 then some 1
  else if (p.aFmt = 12 ∨ p.bFmt = 12) ∧ n < 2 then some 2
  else if n > 2 then some 3 else none

/-- Whether the operand formats are those of the operator (R98, R99, R109 to R111). -/
def GemmParams.abOk (p : GemmParams) : Bool :=
  match p.opcode with
  | 0x0103 => p.aFmt == 13 && p.bFmt == 13
  | 0x0104 => decide (p.aFmt ≤ 1 ∧ p.bFmt ≤ 1)
  | _ =>
    decide (p.aFmt ≤ 12 ∧ p.bFmt ≤ 12) && kPass p.aFmt == kPass p.bFmt && isInt p.aFmt == isInt p.bFmt
      && !(p.opcode == 0x0120 && (isMx p.aFmt || isMx p.bFmt))

/-- Formats of C and D (R98). -/
def cFmtOk (f : Nat) : Bool := decide (f ≤ 1) || f == 13
/-- Formats of D. -/
def dFmtOk (f : Nat) : Bool := decide (f ≤ 3) || f == 13

/-- The rows of R101 that concern the command as a whole. -/
def GemmParams.bad (p : GemmParams) : Option Status :=
  if !p.abOk then some (0x0206, 52)
  else if !dFmtOk p.dFmt || (p.readsC && !cFmtOk p.cFmt) then some (0x0206, 53)
  else if p.act ≥ 4 then some (0x0202, 55)
  else if (1 ≤ p.tolExp ∧ p.tolExp ≤ 7) ∨ p.tolExp > 40 then some (0x0202, 148)
  else none

/-- The alignment row of R101: address and stride fields with what each must satisfy, in the order of their offsets. -/
def GemmParams.misaligned (p : GemmParams) (e : GemmEntry) (off : List Nat) : Option Nat :=
  let at' := fun i => off.getD i 0
  let ab := p.readsAB e
  let live := !e.empty
  let addr := fun (i v : Nat) (need : Bool) => (at' i, need && v % 32 != 0)
  let stride := fun (i v row : Nat) (need : Bool) => (at' i, need && (v % 32 != 0 || decide (v < row)))
  -- the strides of A, B and D are checked whatever is read; C's where `C_EN` and `BETA` read it
  let conds := [
    addr 0 e.a ab, addr 1 e.b ab, addr 2 e.d true, addr 3 e.c (live && p.readsC), addr 4 e.bias (live && p.biasEn),
    addr 5 e.aScale (ab && (isMx p.aFmt || isFp8 p.aFmt)), addr 6 e.bScale (ab && (isMx p.bFmt || isFp8 p.bFmt)),
    addr 7 e.aTile (ab && p.aFmt == 12), addr 8 e.bTile (ab && p.bFmt == 12),
    stride 12 e.lda (p.rowBytes p.aFmt (p.aRows e).2) true, stride 13 e.ldb (p.rowBytes p.bFmt (p.bRows e).2) true,
    stride 14 e.ldc (p.rowBytes p.cFmt e.n) p.readsC, stride 15 e.ldd (p.rowBytes p.dFmt e.n) true]
  (conds.filter (·.2)).foldl (fun m x => match m with | none => some x.1 | some y => some (min x.1 y)) none

/-- The rows of R101 for one entry, details from a table of field offsets. -/
def GemmParams.entryBad (p : GemmParams) (e : GemmEntry) (off : List Nat) : Option Status :=
  if e.m > 2 ^ 24 then some (0x0207, off.getD 9 0)
  else if e.n > 2 ^ 24 then some (0x0207, off.getD 10 0)
  else if e.k > 2 ^ 24 then some (0x0207, off.getD 11 0)
  else if p.opcode ≠ 0x0120 ∧ (isMx p.aFmt ∨ isMx p.bFmt) ∧ e.k % 32 ≠ 0 then some (0x0202, off.getD 11 0)
  else
    match p.misaligned e off with
    | some d => some (0x0202, d)
    | none =>
      let d := p.dRange e
      let exact := e.c == e.d && e.ldc == e.ldd && p.cFmt == p.dFmt
      if (p.readRanges e).any (rangesMeet d) || (rangesMeet d (p.cRange e) && !exact) then some (0x0202, off.getD 2 0)
      else none

/-- Reserved fields of the matrix packets: (byte, low bits) fields, and byte masks (R99, R107, R110, R111). -/
def gemmFields (op conts : Nat) : List (Nat × Nat) × List (Nat × Nat) :=
  let flags := if op = 0x0104 then 0x9F else if op = 0x0120 then 0x1C else 0x1F
  let actk := if op = 0x0120 then 0x70 else 0x7F
  let masks := [(54, flags), (55, actk)]
  let cont2 := if conts < 2 then [] else if op = 0x0102 then [(148, 6)] else [(132, 57), (140, 57), (148, 6)]
  if op = 0x0102 then
    ([(16, 57), (24, 32), (52, 8), (53, 8), (116, 32), (120, 32), (124, 32)] ++ cont2, masks)
  else
    ([(16, 57), (24, 57), (32, 57), (40, 32), (44, 32)] ++ (if op = 0x0120 then [] else [(48, 32)]) ++
      [(52, 8), (53, 8), (68, 57), (76, 57), (84, 57), (92, 57), (100, 32), (104, 32), (108, 32), (112, 32), (116, 32),
       (120, 32), (124, 32)] ++ cont2, masks)

/-- A reserved bit of a group table entry (R107). -/
def groupReserved (b : List Byte) : Option Nat :=
  (List.range 128).find? (fun off =>
    strayBits (byteAt b off) (if off ≥ 100 then 0 else if off < 72 ∧ off % 8 = 7 then 1 else 255))

/-- Whether the D range of either of two entries meets a range of the other (R108). -/
def GemmParams.entriesMeet (p : GemmParams) (e f : GemmEntry) : Bool :=
  let meets := fun (d : Nat × Nat) (x : GemmEntry) => rangesMeet d (p.dRange x) || rangesMeet d (p.cRange x) || (p.readRanges x).any (rangesMeet d)
  meets (p.dRange e) f || meets (p.dRange f) e

/-- The checks of entry i, among them that of its ranges against the earlier entries that run (R107, R108). -/
def GemmParams.groupBad (p : GemmParams) (before : List GemmEntry) (e : GemmEntry) (raw : List Byte) (i : Nat) : Option Status :=
  let at' := fun (off : Nat) => sat16 (192 + 128 * i + off)
  match groupReserved raw with
  | some off => some (0x0201, at' off)
  | none =>
    match p.entryBad e (groupOffsets.map at') with
    | some f => some f
    | none => if before.any (fun f => !f.skipped && p.entriesMeet e f) then some (0x0202, at' 16) else none

/-- The group table read and checked in entry order: its entries, poisoned ones marked and not checked (R107, R108). -/
def State.readEntries (s : State) (p : GemmParams) (l va : Nat) (ans : HostAns) (ids : Nat × Nat) (acc : List GemmEntry)
    (read : List Byte) (ps : List Bool) : Nat → CheckRes
  | 0 => .ok s read ps
  | n + 1 =>
    match s.vread l (va + 128 * acc.length) 128 permRead 0 ans ids with
    | .fail s' st d => .bad s' st d
    | .wait s' => .wait s'
    | .ok s' b q =>
      let e := groupEntry b (anyPoison q)
      match if e.skipped then none else p.groupBad acc e b acc.length with
      | some f => .bad s' f.1 f.2
      | none => s'.readEntries p l va ans ids (acc ++ [e]) (read ++ b) (ps ++ [anyPoison q]) n

/-- The entries of a command whose checks have passed (R107: read at step 8). -/
def gemmEntries (c : Cmd) : List GemmEntry :=
  if c.opcode = 0x0102 then c.readPoison.zipIdx.map (fun x => groupEntry (slice c.read (128 * x.2) 128) x.1) else [gemmEntry c]

/-- Step 8 of R37 for a matrix operator. -/
def State.gemmCheck (s : State) (c : Cmd) (ans : HostAns) : CheckRes :=
  let p := gemmParams c
  match p.bad with
  | some f => .bad s f.1 f.2
  | none =>
    if c.opcode = 0x0102 then
      if c.f 16 8 % 64 ≠ 0 then .bad s 0x0202 16
      else if c.f 24 4 > 65536 then .bad s 0x0207 24
      else
        s.readEntries p c.lod (c.f 16 8) ans c.ids [] [] [] (c.f 24 4)
    else
      match p.entryBad (gemmEntry c) gemmOffsets with
      | some f => .bad s f.1 f.2
      | none => .ok s [] []

/-! ### Units (04, R87, R90) -/

/-- Passes of a product: P of R90; `ELEMENTWISE_ARRAY` makes one for each unit. -/
def GemmParams.passes (p : GemmParams) (e : GemmEntry) : Nat :=
  if p.opcode = 0x0120 then 1 else (e.k + kPass p.aFmt - 1) / kPass p.aFmt

/-- Segments of a product. -/
def GemmParams.segs (p : GemmParams) : Nat := if p.opcode = 0x0120 then 1 else p.segments

/-- The passes of a segment: first, and one past the last (R90). -/
def GemmParams.segPasses (p : GemmParams) (e : GemmEntry) (seg : Nat) : Nat × Nat :=
  (seg * p.passes e / p.segs, (seg + 1) * p.passes e / p.segs)

/-- Sub-passes of a pass (R109, R110). -/
def GemmParams.subs (p : GemmParams) : Nat :=
  match p.opcode with
  | 0x0103 => 6
  | 0x0104 => if p.gauss then 3 else 4
  | _ => 1

/-- Blocks of 128 rows and of 32 columns. -/
def GemmEntry.mBlocks (e : GemmEntry) : Nat := (e.m + 127) / 128
/-- Column blocks. -/
def GemmEntry.nBlocks (e : GemmEntry) : Nat := (e.n + 31) / 32

/-- Rows of chunk j of row block mb, and columns of column block nb. -/
def GemmEntry.chunkRows (e : GemmEntry) (mb j : Nat) : Nat := min 32 (e.m - (128 * mb + 32 * j))
/-- Columns of a block. -/
def GemmEntry.cols (e : GemmEntry) (nb : Nat) : Nat := min 32 (e.n - 32 * nb)

/-- Chunks of a unit. -/
def GemmEntry.chunks (e : GemmEntry) (mb : Nat) : Nat := (min 128 (e.m - 128 * mb) + 31) / 32

/-- A zero accumulator. -/
def Acc.zero (n parts : Nat) : Acc :=
  { re := List.replicate n 0, im := if parts = 2 then List.replicate n 0 else [], poison := false }

/-- A matrix operator of the state. -/
def State.mat? (s : State) (id : Nat) : Option MatOp := s.mats.find? (fun m => m.cmd == id)

/-- A matrix operator changed. -/
def State.modMat (s : State) (id : Nat) (f : MatOp → MatOp) : State :=
  { s with mats := s.mats.map (fun m => if m.cmd == id then f m else m) }

/-- A unit as it is handed to a core (R87, R114). -/
def MatOp.unit (m : MatOp) (e : GemmEntry) (key : UnitKey) (arrays : List Nat) (tol : Nat) : MatUnit :=
  let sp := m.par.segPasses e key.seg
  { key := key, tol := tol,
    chunks := (List.range (e.chunks key.mb)).map (fun j =>
      { j := j, array := arrays.getD (j % arrays.length) 0, pass := sp.1, sub := 0,
        acc := Acc.zero (e.chunkRows key.mb j * e.cols key.nb) m.par.parts, held := [], failed := none,
        done := decide (sp.1 = sp.2) }) }

/-- The passes of the segment of a part. -/
def GemmParams.partPasses (p : GemmParams) (e : GemmEntry) (seg : Nat) : Nat :=
  if p.opcode = 0x0120 then 0 else ((p.segPasses e seg).2 - (p.segPasses e seg).1) * p.subs

/-- (Sub-)passes that every chunk of a unit has accumulated (R113; LOG 30). -/
def MatUnit.progress (u : MatUnit) (p : GemmParams) (e : GemmEntry) : Nat :=
  if p.opcode = 0x0120 then 0
  else
    let done := u.chunks.map (fun c => (c.pass - (p.segPasses e u.key.seg).1) * p.subs + c.sub)
    match done with
    | [] => 0
    | x :: r => r.foldl min x

/-- The progress of the unit that a column runs, where it is one of an operator. -/
def State.progressOn (s : State) (m : MatOp) (col : Nat) : Nat :=
  match (s.core col).run with
  | .mat u =>
    if u.key.cmd = m.cmd then (match m.entries[u.key.entry]? with | some e => u.progress m.par e | none => 0) else 0
  | _ => 0

/-- A unit given up by a command that will not run it again: the passes it accumulated count (R113). -/
def State.giveUpUnit (s : State) (cmd col : Nat) : State :=
  match s.mat? cmd with
  | some m => (s.modMat cmd (fun x => { x with passes := x.passes + s.progressOn m col })).setRun col .idle
  | none => s.setRun col .idle

/-- Passes that an operator has accumulated up to now, those of its running units among them (R113). -/
def State.matPasses (s : State) (m : MatOp) : Nat := m.passes + ((s.cores.map (fun e => s.progressOn m e.1))).sum

/-- A matrix operator whose command failed ends once no unit of it runs; `WORK` counts the passes that were accumulated (R46, R113). -/
def State.endFailedMat (s : State) (id : Nat) : State :=
  if s.opLive id || s.cores.any (fun c => match c.2.run with | .mat u => u.key.cmd == id | _ => false) then s
  else match s.mat? id with | some m => s.finish id m.passes | none => s.endCmd id

/-- A unit whose chunks are all done leaves its core and waits for the combination or the epilogue; its passes count in `WORK`
(R113; LOG 30). -/
def State.unitDone (s : State) (col : Nat) : State :=
  match (s.core col).run with
  | .mat u =>
    if u.chunks.all (·.done) then
      match s.mat? u.key.cmd with
      | none => s.setRun col .idle
      | some m =>
        let e := m.entries[u.key.entry]?
        let n := match e with
          | some e => m.par.partPasses e u.key.seg
          | none => 0
        let part : Part := { key := u.key, col := col, chunks := u.chunks.map (·.acc), tiles := 0 }
        let s := (s.setRun col .idle).touchDomain (clusterOf col)
        (s.modMat u.key.cmd (fun m => { m with parts := m.parts ++ [part], passes := m.passes + n })).endFailedMat u.key.cmd
    else s
  | _ => s

/-- Whether a unit runs on some core or has ended. -/
def State.unitTaken (s : State) (m : MatOp) (key : UnitKey) : Bool :=
  m.parts.any (fun p => p.key == key) || m.totals.any (fun p => { p.key with seg := 0 } == { key with seg := 0 }) ||
    m.written.contains (key.entry, key.mb, key.nb) ||
    s.cores.any (fun c => match c.2.run with | .mat u => u.key == key | _ => false)

/-- The clusters on which segments of a block run or ran (R90: one cluster). -/
def State.segClusters (s : State) (m : MatOp) (key : UnitKey) : List Nat :=
  ((m.parts.filter (fun p => { p.key with seg := 0 } == { key with seg := 0 })).map (fun p => clusterOf p.col)) ++
    ((s.cores.filter (fun c => match c.2.run with | .mat u => { u.key with seg := 0 } == { key with seg := 0 } | _ => false)).map
      (fun c => clusterOf c.1))

/-- Ended segments of a block whose cluster the lodging has lost are discarded, to run again where the block's other segments can (R88,
R90). -/
def State.dropStranded (s : State) (m : MatOp) (e : GemmEntry) (key : UnitKey) : State :=
  let lost := fun (x : Part) => ({ x.key with seg := 0 } : UnitKey) == { key with seg := 0 } &&
    !(s.assigned m.lod (clusterOf x.col) && s.clusterServes (clusterOf x.col))
  if m.par.segs = 1 ∨ !m.parts.any lost then s
  else s.modMat m.cmd (fun m => { m with
    parts := m.parts.filter (fun x => !lost x), passes := m.passes - ((m.parts.filter lost).map (fun x => m.par.partPasses e x.key.seg)).sum })

/-- A matrix unit handed to a column's core, or its cluster's wake requested (R87; 15, R348; 16, R376). -/
def State.handMat (s : State) (m : MatOp) (e : GemmEntry) (key : UnitKey) (col : Nat) : State :=
  let d := clusterOf col
  if s.unitTaken m key || !s.unitRoom m.lod col || !s.placementOk m.lod col || !(s.segClusters m key).all (· == d) then s
  else if (s.domain d).state ≠ .on then s.requestWake d
  else
    let tol := if m.par.tolExp = 0 then s.mxaTol.get (stackOf col) 20 else m.par.tolExp
    (((s.noteColumn m.cmd col).setRun col (.mat (m.unit e key (s.arrays col) tol))).touchDomain d).unitDone col

/-- A matrix unit handed out, once the segments of its block that stand on lost clusters are given up. -/
def State.dispatchMat (s : State) (m : MatOp) (e : GemmEntry) (key : UnitKey) (col : Nat) : State :=
  let t := s.dropStranded m e key
  match t.mat? m.cmd with
  | some m => t.handMat m e key col
  | none => t

/-! ### Reading operands (04, R100) -/

/-- Element codes of one stored row: `cnt` elements from element `i0`. -/
def runCodes (b : List Byte) (w i0 cnt : Nat) : List Nat :=
  let v := leNat b
  (List.range cnt).map (fun j => bits v (w * i0 % 8 + w * j) w)

/-- What reading a block of elements gives. -/
inductive MatRead where
  | fail (s : State) (st d : Nat)
  | wait (s : State)
  | ok (s : State) (rows : List (List Nat)) (poison : Bool)

/-- Stored rows r, r + 1, … each from element `i0`, `cnt` elements of `w` bits. -/
def State.readRows (s : State) (l base ld w r i0 cnt operand : Nat) (ans : HostAns) (ids : Nat × Nat) : Nat → MatRead
  | 0 => .ok s [] false
  | n + 1 =>
    let lo := w * i0 / 8
    let hi := (w * (i0 + cnt) + 7) / 8
    match s.vread l (base + r * ld + lo) (hi - lo) permRead operand ans ids with
    | .fail s' st d => .fail s' st d
    | .wait s' => .wait s'
    | .ok s' b p =>
      match s'.readRows l base ld w (r + 1) i0 cnt operand ans ids n with
      | .fail s'' st d => .fail s'' st d
      | .wait s'' => .wait s''
      | .ok s'' rows q => .ok s'' (runCodes b w i0 cnt :: rows) (anyPoison p || q)

/-- Rows and columns exchanged. -/
def transpose (rows : List (List Nat)) (cols : Nat) : List (List Nat) :=
  (List.range cols).map (fun j => rows.map (fun r => r.getD j 0))

/-- A block of `nr` × `nc` elements of a matrix whose element (r, c) is in stored row r, or c where it is transposed. -/
def State.readBlock (s : State) (l base ld w : Nat) (trans : Bool) (r nr c nc operand : Nat) (ans : HostAns)
    (ids : Nat × Nat) : MatRead :=
  if trans then
    match s.readRows l base ld w c r nr operand ans ids nc with
    | .ok s rows p => .ok s (transpose rows nr) p
    | x => x
  else s.readRows l base ld w r c nc operand ans ids nr

/-- Two readings one after the other. -/
def MatRead.andThen (a : MatRead) (k : State → List (List Nat) → Bool → MatRead) : MatRead :=
  match a with
  | .ok s r p => k s r p
  | x => x

/-! ### One pass (04, R89, R92 to R94; 05, R119 to R125) -/

/-- The operands of one pass: rows of A and of B (as k rows of n) as values, unscaled, with the scale exponents of each row and
column per 32 elements; `none` in a scale is NaN. `gated`: a product whose element of A is +0 is +0 (05, R130). -/
structure PassOps where
  a : List (List Val)
  b : List (List Val)
  aScale : List (List (Option Int))
  bScale : List (List (Option Int))
  poison : Bool
  gated : Bool
  deriving DecidableEq, Repr

/-- Multiplication by a power of two. -/
def Val.scale (v : Val) (x : Option Int) : Val :=
  match x with
  | none => .nan
  | some e =>
    match v with
    | .fin s m g => .fin s m (g + e)
    | y => y

/-- Whether a value is +0. -/
def Val.isPlusZero : Val → Bool
  | .fin neg m _ => !neg && m == 0
  | _ => false

/-- The products of one output element, scale blocks applied (R89, R116). -/
def PassOps.products (o : PassOps) (m n : Nat) : List Val :=
  (o.a.getD m []).zipIdx.map (fun x =>
    let b := if o.gated && x.1.isPlusZero then .fin false 0 0 else (o.b.getD x.2 []).getD n (.fin false 0 0)
    (x.1.scale ((o.aScale.getD m []).getD (x.2 / 32) (some 0))).mul (b.scale ((o.bScale.getD n []).getD (x.2 / 32) (some 0))))

/-- A hardware error of an element added to a block sum (04, R92: what the proof is there to find). -/
def errOf (errs : List PassErr) (blk m n : Nat) : Dy :=
  errs.foldl (fun a x => if x.blk = blk ∧ x.m = m ∧ x.n = n then a.add { m := x.mant, e := x.exp } else a) Dy.zero

/-- Whether any operand element is NaN or an infinity: such a pass is not checked (R93). -/
def PassOps.special (o : PassOps) : Bool :=
  let sp := fun (v : Val) => match v with | .fin _ _ _ => false | _ => true
  o.a.any (fun r => r.any sp) || o.b.any (fun r => r.any sp) || o.aScale.any (fun r => r.any (·.isNone))
    || o.bScale.any (fun r => r.any (·.isNone))

/-- P and Σ R_k C_k over the k of a list of positions (R92). -/
def PassOps.proofSums (o : PassOps) (ks : List Nat) (cols : Nat) : Dy × Dy :=
  ks.foldl (fun acc k =>
    let av := o.a.map (fun r => (r.getD k (.fin false 0 0)).dy)
    let bv := (List.range cols).map (fun n => ((o.b.getD k []).getD n (.fin false 0 0)).dy)
    let r := av.foldl Dy.add Dy.zero
    let c := bv.foldl Dy.add Dy.zero
    let ra := (av.map Dy.abs).foldl Dy.add Dy.zero
    let ca := (bv.map Dy.abs).foldl Dy.add Dy.zero
    (acc.1.add (r.mul c), acc.2.add (ra.mul ca))) (Dy.zero, Dy.zero)

/-- Scale blocks that the proof compares by themselves: those of formats with block scales; the whole pass is one for the others (R92). -/
def PassOps.proofBlocks (o : PassOps) (kn : Nat) : List (List Nat) :=
  if o.aScale.isEmpty && o.bScale.isEmpty then [List.range kn]
  else (List.range ((kn + 31) / 32)).map (fun blk => (List.range kn).filter (fun k => k / 32 == blk))

/-- The errors of an array that lie in a block of the pass (R92). -/
def PassOps.errors (o : PassOps) (kn : Nat) (errs : List PassErr) : List PassErr :=
  errs.filter (fun x => decide (x.blk < (o.proofBlocks kn).length))

/-- The unscaled products of one output element over a list of positions k. -/
def PassOps.productsAt (o : PassOps) (m n : Nat) (ks : List Nat) : List Val :=
  ks.map (fun k => ((o.a.getD m []).getD k (.fin false 0 0)).mul ((o.b.getD k []).getD n (.fin false 0 0)))

/-- Whether a pass passes its proof (R92, R93): S = P for the 4-bit and 8-bit classes, each scale block by itself where there are scales;
within 2^−T of Σ R_k C_k for the 16-bit class. -/
def PassOps.proofOk (o : PassOps) (wide : Bool) (rows cols kn tol : Nat) (errs : List PassErr) : Bool :=
  if o.special || o.poison then true
  else
    let elems := ((List.range rows).map (fun m => (List.range cols).map (fun n => (m, n)))).flatten
    (o.proofBlocks kn).zipIdx.all (fun blk =>
      let sum := elems.foldl (fun a x =>
        let ps := o.productsAt x.1 x.2 blk.1
        (a.add (if wide then windowSum ps else exactSum ps)).add (errOf errs blk.2 x.1 x.2)) Dy.zero
      let pr := o.proofSums blk.1 cols
      let diff := sum.add { m := -pr.1.m, e := pr.1.e }
      if wide then diff.abs.le { m := pr.2.m, e := pr.2.e - tol } else diff.m == 0)

/-- Whether a value is a zero of either sign. -/
def Val.isNought : Val → Bool
  | .fin _ m _ => m == 0
  | _ => false

/-- The products of a pass whose cell is data-gated: an element of A or of B is zero (R86). -/
def PassOps.gatedProducts (o : PassOps) (rows cols kn : Nat) : Nat :=
  ((List.range kn).map (fun k =>
    let a := (List.range rows).countP (fun m => !((o.a.getD m []).getD k (.fin false 0 0)).isNought)
    let b := (List.range cols).countP (fun n => !((o.b.getD k []).getD n (.fin false 0 0)).isNought)
    rows * cols - a * b)).sum

/-- The pass sum of one element with the array's errors in it (R89; an error is added to its block sum before the scale). -/
def PassOps.sum (o : PassOps) (wide : Bool) (errs : List PassErr) (m n : Nat) : Bits :=
  let ps := o.products m n
  match specialOf ps with
  | some b => b
  | none =>
    let base := if wide then windowSum ps else exactSum ps
    let e := (errs.filter (fun x => x.m == m && x.n == n)).foldl (fun a x =>
      let ka := ((o.aScale.getD m []).getD x.blk (some 0)).getD 0
      let kb := ((o.bScale.getD n []).getD x.blk (some 0)).getD 0
      a.add { m := x.mant, e := x.exp + ka + kb }) Dy.zero
    roundF32 (base.add e)

/-- The pass sums of a tile, row after row. -/
def PassOps.tile (o : PassOps) (wide : Bool) (errs : List PassErr) (rows cols : Nat) : List Bits :=
  ((List.range rows).map (fun m => (List.range cols).map (fun n => o.sum wide errs m n))).flatten

/-- A pass sum of one product, as `ELEMENTWISE_ARRAY` makes it: rounded once, a zero +0 (R111, R122). -/
def oneProduct (wide : Bool) (v : Val) : Bits := (specialOf [v]).getD (roundF32 (if wide then windowSum [v] else exactSum [v]))

/-- One BF16 word of the split of an FP32 element (R109). -/
def splitPart (i : Nat) (x : Bits) : Val :=
  let w := split3 x
  decodeFmt .bf16 (if i = 0 then w.1 else if i = 1 then w.2.1 else w.2.2)

/-- The (i, j) of a sub-pass of `GEMM_MULTIWORD` (R109). -/
def wordPair (sub : Nat) : Nat × Nat := [(1, 1), (0, 2), (2, 0), (0, 1), (1, 0), (0, 0)].getD sub (0, 0)

/-- A pre-sum of the Gauss form: exact, rounded once to the operand format (R110). -/
def preSum (f : Nat) (neg : Bool) (x y : Val) : Val :=
  let y := if neg then (match y with | .fin s m e => .fin (!s) m e | .inf s => .inf (!s) | .nan => .nan) else y
  match x, y with
  | .nan, _ => .nan
  | _, .nan => .nan
  | .inf s, .inf t => if s = t then .inf s else .nan
  | .inf s, _ => .inf s
  | _, .inf t => .inf t
  | .fin s m e, .fin t n g =>
    let d := (Val.fin s m e).dy.add (Val.fin t n g).dy
    let fm := fmtOf f
    if d.m = 0 then .fin (if m = 0 ∧ n = 0 then s && t else false) 0 0
    else decodeFmt fm (fm.place (decide (d.m < 0)) (fm.rneCode d.m.natAbs d.e)).code

/-- The real and imaginary values of a stored pair. -/
def cRe (f code : Nat) : Val := elemVal f (code % 2 ^ 16)
/-- Imaginary part. -/
def cIm (f code : Nat) : Val := elemVal f (code / 2 ^ 16 % 2 ^ 16)

/-- The A operand of a sub-pass from its stored code (R109, R110). -/
def GemmParams.aWord (p : GemmParams) (sub code : Nat) : Val :=
  match p.opcode with
  | 0x0103 => splitPart (wordPair sub).1 code
  | 0x0104 =>
    if p.gauss then (if sub = 0 then preSum p.aFmt false (cRe p.aFmt code) (cIm p.aFmt code) else if sub = 1 then cRe p.aFmt code else cIm p.aFmt code)
    else if sub = 0 ∨ sub = 2 then cRe p.aFmt code else cIm p.aFmt code
  | _ => elemVal p.aFmt code

/-- The B operand of a sub-pass. -/
def GemmParams.bWord (p : GemmParams) (sub code : Nat) : Val :=
  match p.opcode with
  | 0x0103 => splitPart (wordPair sub).2 code
  | 0x0104 =>
    if p.gauss then (if sub = 0 then cRe p.bFmt code else if sub = 1 then preSum p.bFmt true (cIm p.bFmt code) (cRe p.bFmt code)
      else preSum p.bFmt false (cRe p.bFmt code) (cIm p.bFmt code))
    else if sub = 0 ∨ sub = 3 then cRe p.bFmt code else cIm p.bFmt code
  | _ => elemVal p.bFmt code

/-- Whether passes follow the 16-bit window of R120. -/
def GemmParams.wide (p : GemmParams) : Bool := kPass p.aFmt == 32

/-! ### Running a pass (04, R84, R90, R94, R95, R112) -/

/-- What the reads of a pass give. -/
inductive PassRead where
  | fail (s : State) (st d : Nat)
  | wait (s : State)
  /-- Stored codes of A (rows) and B (k rows of n), scale bytes per row and column, tile scales a and b, poison. -/
  | ok (s : State) (a b aSc bSc : List (List Nat)) (ta tb : Nat) (poison : Bool)

/-- The operand number that a fault names: the address fields of a group table entry are 1 to 9, of a packet 0 to 8 (R101, R107). -/
def GemmParams.operand (p : GemmParams) (i : Nat) : Nat := if p.opcode = 0x0102 then i + 1 else i

/-- The sectors of one pass read: operand chunk, weight tile, scales and tile scales (R100). -/
def State.readPass (s : State) (m : MatOp) (e : GemmEntry) (key : UnitKey) (ch : Chunk) (ans : HostAns) (ids : Nat × Nat) :
    PassRead :=
  let p := m.par
  let ew := p.opcode == 0x0120
  let r := 128 * key.mb + 32 * ch.j
  let nr := e.chunkRows key.mb ch.j
  let c := 32 * key.nb
  let nc := e.cols key.nb
  let kp := kPass p.aFmt
  let k := kp * ch.pass
  let nk := if ew then nc else min kp (e.k - k)
  let wa := fmtBits p.aFmt * p.parts
  let wb := fmtBits p.bFmt * p.parts
  let ra := s.readBlock m.lod e.a e.lda wa (p.aTrans && !ew) r nr (if ew then c else k) nk (p.operand 0) ans ids
  let res := ra.andThen (fun s a pa =>
    (if ew then s.readBlock m.lod e.b e.ldb wb false r nr c nc (p.operand 1) ans ids
     else s.readBlock m.lod e.b e.ldb wb p.bTrans k nk c nc (p.operand 1) ans ids).andThen (fun s b pb =>
      (if isMx p.aFmt then s.readBlock m.lod e.aScale (e.k / 32) 8 false r nr (k / 32) ((nk + 31) / 32) (p.operand 5) ans ids
       else .ok s [] false).andThen (fun s sa psa =>
        (if isMx p.bFmt then s.readBlock m.lod e.bScale (e.k / 32) 8 false c nc (k / 32) ((nk + 31) / 32) (p.operand 6) ans ids
         else .ok s [] false).andThen (fun s sb psb =>
          (if p.aFmt = 12 then s.readBlock m.lod e.aTile (4 * ((e.k + 127) / 128)) 32 false (r / 128) 1 (k / 128) 1 (p.operand 7) ans ids
           else .ok s [] false).andThen (fun s ta pta =>
            (if p.bFmt = 12 then s.readBlock m.lod e.bTile (4 * ((e.n + 127) / 128)) 32 false (k / 128) 1 (c / 128) 1 (p.operand 8) ans ids
             else .ok s [] false).andThen (fun s tb ptb =>
              .ok s ([ta.flatten, tb.flatten] ++ [[a.length], [b.length], [sa.length], [sb.length]] ++ a ++ b ++ sa ++ sb)
                (pa || pb || psa || psb || pta || ptb)))))))
  match res with
  | .fail s' st d => .fail s' st d
  | .wait s' => .wait s'
  | .ok s rows p' =>
    let len := fun i => ((rows.getD i []).headD 0)
    let body := rows.drop 6
    let one := 0x3F800000
    .ok s (body.take (len 2)) ((body.drop (len 2)).take (len 3)) ((body.drop (len 2 + len 3)).take (len 4))
      ((body.drop (len 2 + len 3 + len 4)).take (len 5)) ((rows.getD 0 []).headD one) ((rows.getD 1 []).headD one) p'

/-- The operands of a sub-pass from the stored codes. -/
def GemmParams.ops (p : GemmParams) (sub : Nat) (a b aSc bSc : List (List Nat)) (poison : Bool) : PassOps :=
  { a := a.map (fun r => r.map (p.aWord sub)), b := b.map (fun r => r.map (p.bWord sub)),
    aScale := aSc.map (fun r => r.map e8m0), bScale := bSc.map (fun r => r.map e8m0), poison := poison, gated := false }

/-- Two lists combined element by element. -/
def zipBits (f : Bits → Bits → Bits) (a b : List Bits) : List Bits := (a.zip b).map (fun x => f x.1 x.2)

/-- The elements of a chunk whose row of A or column of B holds an infinity or a NaN: their value by R124. -/
def multiwordSpecial (a b : List (List Nat)) (rows cols : Nat) : List (Option Bits) :=
  let sp := fun (c : Nat) => match f32 c with | .fin _ _ _ => false | _ => true
  ((List.range rows).map (fun m => (List.range cols).map (fun n =>
    let ra := a.getD m []
    let cb := b.map (fun r => r.getD n 0)
    if ra.any sp || cb.any sp then
      some ((specialOf ((ra.zip cb).map (fun x => (f32 x.1).mul (f32 x.2)))).getD nanF32)
    else none))).flatten

/-- The accumulators of a chunk after one (sub-)pass (R90, R109, R110, R124). -/
def GemmParams.accumulate (p : GemmParams) (ch : Chunk) (sums : List Bits) (ts : Bits) (special : List (Option Bits)) : Chunk :=
  let acc := ch.acc
  match p.opcode with
  | 0x0103 =>
    let re := (acc.re.zip sums).zipIdx.map (fun x =>
      match special.getD x.2 none with
      | none => fadd x.1.1 x.1.2
      | some v => if ch.sub = 5 then fadd x.1.1 v else x.1.1)
    { ch with acc := { acc with re := re } }
  | 0x0104 =>
    if p.gauss then
      if ch.sub < 2 then { ch with held := ch.held ++ [sums] }
      else
        let t1 := ch.held.getD 0 []
        let t2 := ch.held.getD 1 []
        { ch with held := [],
                  acc := { acc with re := zipBits fadd acc.re (zipBits fsub t1 sums), im := zipBits fadd acc.im (zipBits fadd t1 t2) } }
    else if ch.sub = 0 then { ch with acc := { acc with re := zipBits fadd acc.re sums } }
    else if ch.sub = 1 then { ch with acc := { acc with re := zipBits fsub acc.re sums } }
    else { ch with acc := { acc with im := zipBits fadd acc.im sums } }
  | 0x0120 => { ch with acc := { acc with re := sums } }
  | _ =>
    let t := if p.aFmt = 12 ∨ p.bFmt = 12 then sums.map (fun x => fmul x ts) else sums
    { ch with acc := { acc with re := zipBits fadd acc.re t } }

/-- The chunk moved on to its next sub-pass or pass. -/
def GemmParams.advance (p : GemmParams) (ch : Chunk) (last : Nat) : Chunk :=
  if ch.sub + 1 < p.subs then { ch with sub := ch.sub + 1 }
  else { ch with sub := 0, pass := ch.pass + 1, done := decide (ch.pass + 1 ≥ last) }

/-- The chunk that an array works on: the first of its chunks that is not done. -/
def MatUnit.onArray (u : MatUnit) (a : Nat) : Option Chunk := u.chunks.find? (fun c => c.array == a && !c.done)

/-- A unit's chunk replaced. -/
def MatUnit.put (u : MatUnit) (ch : Chunk) : MatUnit :=
  { u with chunks := u.chunks.map (fun c => if c.j = ch.j then ch else c) }

/-- A unit whose chunks go to the arrays that are not suspect, chunk j to position j mod a (R87); a chunk that waits for its recomputation
stays for it. -/
def MatUnit.place (u : MatUnit) (left : List Nat) : MatUnit :=
  { u with chunks := u.chunks.map (fun c =>
      if c.failed.isSome then c else { c with array := left.getD (c.j % left.length) c.array }) }

/-- Events of a command that arise at a column's core (19, R424). -/
def State.countEvents (s : State) (col event cmd n : Nat) : State :=
  match s.cmd? cmd with
  | some c => s.count (stackOf col) event (some c.lod) c.ids n
  | none => s

/-- One event of a command at a column's core. -/
def State.countPass (s : State) (col event cmd : Nat) : State := s.countEvents col event cmd 1

/-- What one pass on an array comes to. -/
inductive PassResult where
  | nothing (s : State)
  | proven (s : State) (u : MatUnit) (ch : Chunk)
  | failed (s : State) (u : MatUnit) (ch : Chunk)

/-- One (sub-)pass of the chunk on an array, up to its proof (R92 to R94). An access that fails ends the command (R81's
statuses; R46), and the unit is given up. -/
def State.runPass (s : State) (col array : Nat) (errs : List PassErr) (ans : HostAns) (recompute : Bool) : PassResult :=
  match (s.core col).run with
  | .mat u =>
    match s.mat? u.key.cmd, u.onArray array with
    | some m, some ch =>
      match m.entries[u.key.entry]?, (ch.failed == if recompute then some array else none) with
      | some e, true =>
        let ids := s.idsOf m.cmd
        match s.readPass m e u.key ch ans ids with
        | .fail s st d => .nothing (((s.failCmd m.cmd st d).giveUpUnit m.cmd col).endFailedMat m.cmd)
        | .wait s' => .nothing s'
        | .ok s a b aSc bSc ta tb poison =>
          let p := m.par
          let rows := e.chunkRows u.key.mb ch.j
          let cols := e.cols u.key.nb
          if p.opcode = 0x0120 then
            let pairs := ((List.range rows).map (fun i => (List.range cols).map (fun n =>
              (elemVal p.aFmt ((a.getD i []).getD n 0), elemVal p.bFmt ((b.getD i []).getD n 0))))).flatten
            let s := s.countEvents col 0x012 m.cmd (pairs.countP (fun x => x.1.isNought || x.2.isNought))
            let sums := pairs.map (fun x => oneProduct p.wide (x.1.mul x.2))
            let ch := p.accumulate { ch with acc := { ch.acc with poison := ch.acc.poison || poison } } sums 0 []
            .proven s u (p.advance ch (m.par.segPasses e u.key.seg).2)
          else
            let o := p.ops ch.sub a b aSc bSc poison
            let s := s.countEvents col 0x012 m.cmd (o.gatedProducts rows cols b.length)
            let errs := o.errors b.length errs
            if o.proofOk p.wide rows cols (b.length) u.tol errs then
              let sums := o.tile p.wide errs rows cols
              let sp := if p.opcode = 0x0103 then multiwordSpecial a b rows cols else []
              let ch := { ch with acc := { ch.acc with poison := ch.acc.poison || poison }, failed := none }
              .proven s u (p.advance (p.accumulate ch sums (fmul ta tb) sp) (m.par.segPasses e u.key.seg).2)
            else .failed s u ch
      | _, _ => .nothing s
    | _, _ => .nothing s
  | _ => .nothing s

/-- The detail of 0x0100 and 0x0101 (02, R48). -/
def arrayDetail (col array : Nat) : Nat := 4 * col + array

/-- `ARRAY_PASS`: a pass that passes its proof is accumulated; one that fails waits for its recomputation (R94, R95). -/
def execArrayPass (col array : Nat) (errs : List PassErr) (ans : HostAns) (s : State) : Host.Outcome State Fault Refusal :=
  match s.runPass col array errs ans false with
  | .nothing s => .next s
  | .proven s u ch => .next (((s.setRun col (.mat ((u.put ch).place (s.arrays col)))).countPass col 0x010 u.key.cmd).unitDone col)
  | .failed s u ch => .next (s.setRun col (.mat (u.put { ch with failed := some array })))

/-- The notice 0x0101 in place of 0x0100 (R95). -/
def Cmd.suspectNotice (c : Cmd) (d : Nat) : Cmd :=
  let kept := c.notices.filter (fun n => n.1 != 0x0100)
  if kept.any (fun n => n.1 == 0x0101) then { c with notices := kept } else { c with notices := (0x0101, d) :: kept }

/-- The notice 0x0100; none where the suspect notice stands (R95). -/
def Cmd.retryNotice (c : Cmd) (d : Nat) : Cmd :=
  if c.notices.any (fun n => n.1 == 0x0101) then c else c.notice 0x0100 d

/-- An array marked suspect; its failing pass moves to the lowest array that is not, and the chunks are shared among the
remaining arrays by R87; with none left the unit is discarded (R95, R96, R88). -/
def State.suspectArray (s : State) (col array : Nat) (u : MatUnit) (ch : Chunk) : State :=
  let k := stackOf col
  let s := s.modCore col (fun c => { c with suspect := c.suspect ||| 2 ^ array })
  let s := { s with mxaSuspected := s.mxaSuspected.incr k 1 }
  let ids := s.idsOf u.key.cmd
  let s := s.log (s.physCore col) 0x03 array ids.1 ids.2
  let s := s.modCmd u.key.cmd (fun c => c.suspectNotice (arrayDetail col array))
  let s := s.askCore col
  match s.arrays col with
  | [] => s.setRun col .idle
  | lo :: rest =>
    let u := (u.put { ch with failed := none }).place (lo :: rest)
    s.setRun col (.mat (u.put { ch with failed := none, array := lo }))

/-- `PASS_RECOMPUTE`: the recomputation of a failed pass on the same array (R95). -/
def execPassRecompute (col array : Nat) (errs : List PassErr) (ans : HostAns) (s : State) : Host.Outcome State Fault Refusal :=
  let k := stackOf col
  let note := fun (s : State) (u : MatUnit) =>
    let s := { s with mxaRetries := s.mxaRetries.incr k 1 }
    let ids := s.idsOf u.key.cmd
    (s.log (s.physCore col) 0x02 array ids.1 ids.2).countPass col 0x011 u.key.cmd
  match s.runPass col array errs ans true with
  | .nothing s => .next s
  | .proven s u ch =>
    let s := (note s u).modCmd u.key.cmd (fun c => c.retryNotice (arrayDetail col array))
    .next (((s.setRun col (.mat ((u.put ch).place (s.arrays col)))).countPass col 0x010 u.key.cmd).unitDone col)
  | .failed s u ch => .next ((note s u).suspectArray col array u ch)

/-! ### Segments and epilogue (04, R90, R91, R102 to R105, R112, R113) -/

/-- The accumulators of a block's segments combined in segment order. -/
def combineAcc (a b : Acc) : Acc :=
  { re := zipBits fadd a.re b.re, im := zipBits fadd a.im b.im, poison := a.poison || b.poison }

/-- The parts of a block in segment order, where every segment has ended. -/
def MatOp.segParts (m : MatOp) (entry mb nb : Nat) : Option (List Part) :=
  (List.range m.par.segs).foldr (fun seg acc =>
    match acc, m.parts.find? (fun p => p.key == { cmd := m.cmd, entry := entry, mb := mb, nb := nb, seg := seg }) with
    | some r, some p => some (p :: r)
    | _, _ => none) (some [])

/-- `SEGMENT_COMBINE`: the partial results of a block added in segment order once every segment has ended (R90). -/
def execSegmentCombine (cmd entry mb nb : Nat) (s : State) : Host.Outcome State Fault Refusal :=
  match s.mat? cmd with
  | none => .next s
  | some m =>
    match m.segParts entry mb nb with
    | some (p :: q :: r) =>
      let total : Part := { p with chunks := (q :: r).foldl (fun acc x => (acc.zip x.chunks).map (fun y => combineAcc y.1 y.2)) p.chunks }
      .next (s.modMat cmd (fun m =>
        { m with parts := m.parts.filter (fun x => !(x.key.entry == entry && x.key.mb == mb && x.key.nb == nb)),
                 totals := m.totals ++ [total] }))
    | _ => .next s

/-- An activation of R104. -/
def activate (act : Nat) (x : Bits) : Bits :=
  let special := fun (f : Nat → Nat) =>
    match f32 x with
    | .nan => nanF32
    | .inf neg => if neg then zeroF32 true else infF32 false
    | .fin _ _ _ => f x
  match act with
  | 1 => if isNaN x then x else if flt 0 x then x else 0
  | 2 => special geluF32
  | 3 => special siluF32
  | _ => x

/-- One output element by the steps of R102: `c` and `bias` where they are added; step 1 is left out for K = 0 (R106). -/
def GemmParams.epilogue (p : GemmParams) (e : GemmEntry) (x alpha : Bits) (c bias : Option Bits) : Bits :=
  let x := if e.k = 0 ∧ p.opcode ≠ 0x0120 then x else fmul x alpha
  let x := match c with | some v => fadd x (fmul p.beta v) | none => x
  let x := match bias with | some v => fadd x v | none => x
  activate p.act x

/-- Conversion to `D_FMT` (R102 step 5, R105). -/
def GemmParams.toD (p : GemmParams) (part entry m n : Nat) (x : Bits) : Conv :=
  if p.dFmt = 13 then { code := x, sat := false }
  else if p.stochastic then convertStoch (fmtOf p.dFmt) (draw p.seed 0 part (if p.opcode = 0x0102 then entry else 0) m n) x
  else convert (fmtOf p.dFmt) x

/-- The FP32 value of a code of C. -/
def toF32 (f code : Nat) : Bits := if f = 13 then code else (decodeFmt (fmtOf f) code).toF32

/-- What an epilogue reads. -/
structure EpiData where
  c : List (List Nat)
  bias : List Nat
  alpha : Bits
  poisonC : List Bool
  poisonAll : Bool
  deriving DecidableEq, Repr

/-- The rows of C of a chunk, the bias and the per-tensor scales (R102, R103, R106). -/
def State.readEpilogue (s : State) (m : MatOp) (e : GemmEntry) (mb j nb : Nat) (ans : HostAns) (ids : Nat × Nat) : MatRead :=
  let p := m.par
  let r := 128 * mb + 32 * j
  let nr := e.chunkRows mb j
  let w := fmtBits p.cFmt * p.parts
  let one : List (List Nat) := []
  (if p.readsC then s.readBlock m.lod e.c e.ldc w false r nr (32 * nb) (e.cols nb) (p.operand 3) ans ids else .ok s one false).andThen (fun s c pc =>
    (if p.biasEn then s.readBlock m.lod e.bias 0 (32 * p.parts) false 0 1 (32 * nb) (e.cols nb) (p.operand 4) ans ids else .ok s one false).andThen
      (fun s b pb =>
        (if isFp8 p.aFmt && p.readsAB e then s.readBlock m.lod e.aScale 0 32 false 0 1 0 1 (p.operand 5) ans ids else .ok s one false).andThen (fun s sa psa =>
          (if isFp8 p.bFmt && p.readsAB e then s.readBlock m.lod e.bScale 0 32 false 0 1 0 1 (p.operand 6) ans ids else .ok s one false).andThen (fun s sb psb =>
            .ok s ([b.flatten, sa.flatten, sb.flatten] ++ c) (pc || pb || psa || psb)))))

/-- α′ of R102 step 1. -/
def GemmParams.alphaOf (p : GemmParams) (sa sb : List Nat) : Bits :=
  let a := match sa with | x :: _ => fmul p.alpha x | [] => p.alpha
  match sb with | x :: _ => fmul a x | [] => a

/-- The codes of one row of an output tile, with whether any was saturated. -/
def GemmParams.outRow (p : GemmParams) (e : GemmEntry) (acc : Acc) (entry row0 r col0 nc : Nat) (alpha : Bits) (cRow bias : List Nat) :
    List Nat × Bool :=
  let cs := (List.range nc).map (fun n =>
    let i := r * nc + n
    let part := fun (k : Nat) (x : Bits) =>
      let cw := fmtBits p.cFmt
      let c := if p.readsC then some (toF32 p.cFmt (bits (cRow.getD n 0) (cw * k) cw)) else none
      let b := if p.biasEn then some (bits (bias.getD n 0) (32 * k) 32) else none
      p.toD k entry (row0 + r) (col0 + n) (p.epilogue e x alpha c b)
    let re := part 0 (acc.re.getD i 0)
    if p.parts = 2 then
      let im := part 1 (acc.im.getD i 0)
      (re.code + im.code * 2 ^ fmtBits p.dFmt, re.sat || im.sat)
    else (re.code, re.sat))
  (cs.map (·.1), cs.any (·.2))

/-- The rows of an output tile written. -/
def State.writeTile (s : State) (m : MatOp) (e : GemmEntry) (row0 col0 : Nat) (rows : List (List Nat)) (poison : Bool)
    (ids : Nat × Nat) : VWrite :=
  let w := fmtBits m.par.dFmt * m.par.parts / 8
  rows.zipIdx.foldl (fun acc x =>
    match acc with
    | .ok s k =>
      match s.vwrite m.lod (e.d + (row0 + x.2) * e.ldd + w * col0) (m.par.operand 2) ((x.1.map (leBytes w)).flatten) poison (some m.cmd) ids with
      | .ok s' k' => .ok s' (k + k')
      | y => y
    | y => y) (.ok s 0)

/-- The elements of a written tile noted for a digest: index m × N + n after those of earlier entries, each part of a complex element
by itself (19, R427). -/
def State.noteTile (s : State) (m : MatOp) (e : GemmEntry) (entry row0 col0 : Nat) (rows : List (List Nat)) (poison : Bool) : State :=
  if !s.wantsDigest m.cmd then s
  else
    let k := m.par.parts
    let w := fmtBits m.par.dFmt
    let before := ((m.entries.take entry).map (fun x => x.m * x.n)).sum
    let t := fun (old : Tab (Nat × Bool)) => rows.zipIdx.foldl (fun (t : Tab (Nat × Bool)) x =>
      let codes := (x.1.map (fun c => (List.range k).map (fun j => bits c (w * j) w))).flatten
      s.digestElems m.lod (e.d + (row0 + x.2) * e.ldd + w * k / 8 * col0) (w / 8) poison
        (k * (before + (row0 + x.2) * e.n + col0)) codes t) old
    s.modMat m.cmd (fun m => { m with elems := t m.elems })

/-- A block's written tiles counted, with what their writes and conversions left (R87, R113). -/
def State.tileWritten (s : State) (m : MatOp) (key : UnitKey) (sat : Bool) (acks : Nat) : State :=
  let hit := fun (p : Part) => p.key == key
  let up := fun (p : Part) => if hit p then { p with tiles := p.tiles + 1 } else p
  (s.modMat m.cmd (fun m => { m with
    parts := m.parts.map up, totals := m.totals.map up, saturated := m.saturated + ofBool sat,
    passes := if m.par.opcode = 0x0120 then m.passes + 1 else m.passes })).modCmd m.cmd (fun c => { c with acks := c.acks + acks })

/-- The chunks of a block turned into output tiles one after the other, each written once; a tile whose operands must be awaited is taken up
again there (R87, R101, R102). -/
def State.epilogueChunks (s : State) (m : MatOp) (e : GemmEntry) (key : UnitKey) (ans : HostAns) (ids : Nat × Nat) :
    List (Acc × Nat) → VRead
  | [] => .ok s [] []
  | (acc, j) :: rest =>
    match s.readEpilogue m e key.mb j key.nb ans ids with
    | .fail s st d => .fail s st d
    | .wait s' => .wait s'
    | .ok s rows poison =>
      let p := m.par
      let bias := rows.getD 0 []
      let alpha := p.alphaOf (rows.getD 1 []) (rows.getD 2 [])
      let cRows := rows.drop 3
      let row0 := 128 * key.mb + 32 * j
      let nc := e.cols key.nb
      let out := (List.range (e.chunkRows key.mb j)).map (fun r => p.outRow e acc key.entry row0 r (32 * key.nb) nc alpha (cRows.getD r []) bias)
      match s.writeTile m e row0 (32 * key.nb) (out.map (·.1)) (acc.poison || poison) ids with
      | .fail st d => .fail s st d
      | .wait => .wait s
      | .ok s k =>
        let s := s.noteTile m e key.entry row0 (32 * key.nb) (out.map (·.1)) (acc.poison || poison)
        (s.tileWritten m key (out.any (·.2)) k).epilogueChunks m e key ans ids rest

/-- Whether every block of an operator is written. -/
def MatOp.complete (m : MatOp) : Bool :=
  decide (m.written.length = ((m.entries.filter (fun e => !e.skipped)).map (fun e => e.mBlocks * e.nBlocks)).sum)

/-- A matrix operator whose blocks are all written ends: `WORK`, the saturation notice, and 0x0303 for a skipped entry
(R108, R113). -/
def State.finishMat (s : State) (id : Nat) : State :=
  match s.mat? id with
  | none => s
  | some m =>
    if m.complete then
      let s := if m.saturated = 0 then s else s.noticeCmd id 0x0105 (sat16 m.saturated)
      let s := if m.entries.any (·.skipped) then s.failCmd id 0x0303 2 else s
      s.finish id m.passes
    else s

/-- `UNIT_EPILOGUE`: the accumulators of a block become its output tiles, each written once (R87, R102, R112). -/
def execUnitEpilogue (cmd entry mb nb : Nat) (ans : HostAns) (s : State) : Host.Outcome State Fault Refusal :=
  match s.mat? cmd with
  | none => .next s
  | some m =>
    let block := fun (p : Part) => p.key.entry == entry && p.key.mb == mb && p.key.nb == nb
    let part := if m.par.segs = 1 then m.parts.find? block else m.totals.find? block
    match part, m.entries[entry]?, s.opLive cmd with
    | some p, some e, true =>
      match s.epilogueChunks m e p.key ans (s.idsOf cmd) (p.chunks.zipIdx.drop p.tiles) with
      | .fail s st d => .next ((s.failCmd cmd st d).endFailedMat cmd)
      | .wait s' => .next s'
      | .ok s' _ _ =>
        .next ((s'.modMat cmd (fun m =>
          { m with parts := m.parts.filter (fun x => !block x), totals := m.totals.filter (fun x => !block x),
                   written := m.written ++ [(entry, mb, nb)] })).finishMat cmd)
    | _, _, _ => .next s

/-! ### Start (04, R106 to R108) -/

/-- What a matrix operator does when it starts: its entries are taken; one with nothing to write ends at once. -/
def State.startMat (s : State) (c : Cmd) : State :=
  let m : MatOp := { cmd := c.id, lod := c.lod, par := gemmParams c, entries := gemmEntries c, parts := [], totals := [], written := [],
                     passes := 0, saturated := 0, elems := [] }
  ({ s with mats := s.mats ++ [m] } : State).finishMat c.id

end Sys2Proof.Machine
end

