-- ==== Sys2Proof/Machine/Regions.lean ====
section
/-! DEFINITION. Mappings and reduction: the checks and effects of `MAP` and `UNMAP` (13, R318 to R322, R463), reduction regions,
contributions and Reduce lines, `REDUCE_PUSH`, `EPOCH_FLUSH` and `EPOCH_INVALIDATE` (09; 05, R135 to R138). -/

namespace Sys2Proof.Machine

/-! ### Region descriptors (09, R222, R223) -/

/-- A region descriptor's software fields. -/
structure Region where
  op : RedOp
  exact : Bool
  base : Int
  deriving DecidableEq, Repr

/-- `OP` of R222. -/
def redOpOf : Nat → Option RedOp
  | 0 => some .addF32
  | 1 => some .addBf16
  | 2 => some .addI32
  | 3 => some .addI64
  | 4 => some .minF32
  | 5 => some .maxF32
  | 6 => some .minI32
  | 7 => some .maxI32
  | 8 => some .minI64
  | 9 => some .maxI64
  | _ => none

/-- Code of an operation. -/
def RedOp.code : RedOp → Nat
  | .addF32 => 0
  | .addBf16 => 1
  | .addI32 => 2
  | .addI64 => 3
  | .minF32 => 4
  | .maxF32 => 5
  | .minI32 => 6
  | .maxI32 => 7
  | .minI64 => 8
  | .maxI64 => 9

/-- Bytes of an element (R222). -/
def RedOp.size : RedOp → Nat
  | .addBf16 => 2
  | .addI64 => 8
  | .minI64 => 8
  | .maxI64 => 8
  | _ => 4

/-- A region from its descriptor's bytes; `none` where R223 refuses it. -/
def regionOf (b : List Byte) : Option Region :=
  let exact := bit (byteAt b 0) 7
  let base := signedOf 16 (field b 2 2)
  match redOpOf (bits (byteAt b 0) 0 4) with
  | none => none
  | some op =>
    if exact ∧ (op ≠ .addF32 ∨ base < -300 ∨ base > 127) then none else some { op := op, exact := exact, base := base }

/-- The region of a mapping that forms one. -/
def Mapping.reduction (m : Mapping) : Option Region :=
  match m.region with
  | none => none
  | some _ => regionOf (leBytes 4 m.desc)

/-- The mapping, in any lodging, that makes a physical address part of a reduction region of this lodging. -/
def State.regionMap? (s : State) (l pa : Nat) : Option Mapping :=
  (s.lod l).maps.find? (fun m => m.region.isSome && decide (m.pa ≤ pa ∧ pa < m.pa + m.size * m.count))

/-- Whether a physical address lies in a reduction region of a lodging (09, R223; 07, R189). -/
def State.inRegion (s : State) (l pa : Nat) : Bool := (s.regionMap? l pa).isSome

/-! ### `MAP` (13, R319 to R321) -/

/-- The page sizes of R320. -/
def pageBytes (code : Nat) : Nat := if code = 0 then 2 ^ 12 else if code = 1 then 2 ^ 21 else 2 ^ 30

/-- Every GiB that a range touches lies in an extent. -/
def Contract.ownsHbm (c : Contract) (pa n : Nat) : Bool :=
  ((List.range ((pa + n - 1) / 2 ^ 30 - pa / 2 ^ 30 + 1)).map (· + pa / 2 ^ 30)).all (fun gib =>
    c.extents.any (fun e => decide (e.1 ≤ gib ∧ gib < e.1 + e.2)))

/-- Frames of a scratch range: every frame is the lodging's in the form of the row (08, R203). -/
def Contract.ownsScratch (c : Contract) (pa n : Nat) : Bool :=
  ((List.range ((pa + n - 1) / 2 ^ 16 - pa / 2 ^ 16 + 1)).map (fun i => 2 ^ 16 * (i + pa / 2 ^ 16))).all (fun a =>
    let k := scratchStack a
    let f := scratchRow a
    (decide (c.affFirst.getD k 0 ≤ f ∧ f < c.affFirst.getD k 0 + c.affRows.getD k 0) && bit (c.affSlices.getD k 0) (scratchField a))
      || decide (c.hashFirst.getD k 0 ≤ f ∧ f < c.hashFirst.getD k 0 + c.hashRows.getD k 0))

/-- The status of a `MAP` target that R319 refuses: R22 for a hole or the register space before the rest. A range may run from host memory
into global addresses, each part under its own row (LOG 131); no address is 2^62 or more. -/
def State.targetStatus (s : State) (l pa n : Nat) : Option Nat :=
  let owns := fun (f : Contract → Bool) => match s.contract? l with | none => false | some c => f c
  if n = 0 then none
  else if overlaps pa n (2 ^ 39) (2 ^ 39) || overlaps pa n (2 ^ 40 + 2 ^ 33) (2 ^ 51 - 2 ^ 40 - 2 ^ 33) then some 0x0304
  else if pa < 2 ^ 39 then
    (if owns (fun c => c.ownsHbm pa n && decide (pa + n ≤ c.saveBase ∨ c.top ≤ pa)) then none else some 0x0301)
  else if pa < 2 ^ 51 then (if owns (fun c => c.ownsScratch pa n) then none else some 0x0301)
  else if pa + n > 2 ^ 62 ∨ (s.cyl.device ≠ 0 ∧ overlaps pa n (2 ^ 52 * s.cyl.device) (2 ^ 52)) then some 0x0301
  else none

/-- The stack of the first page of a local HBM4 range that is homed in a retired channel (17, R386). -/
def State.homedRetired (s : State) (pa n : Nat) : Option Nat :=
  if placeOf pa == .hbm && s.hbm.channels.any (fun e => e.2.retired) then
    ((List.range ((n + 4095) / 4096)).map (fun i => homeColumn (pa + 4096 * i))).findSome?
      (fun col => if (s.channel col).retired then some (stackOf col) else none)
  else none

/-- Pages a lodging has mapped. -/
def Lodging.pages (l : Lodging) : Nat := (l.maps.map (·.count)).sum

/-- The parameters of `MAP` and `UNMAP` (R320). -/
structure MapParams where
  va : Nat
  pa : Nat
  len : Nat
  pageSize : Nat
  perm : Nat
  reduce : Bool
  region : Nat
  deriving DecidableEq, Repr

/-- Parameters of a packet. -/
def mapParams (c : Cmd) : MapParams :=
  { va := c.f 16 8, pa := c.f 24 8, len := c.f 32 8, pageSize := c.f 40 1, perm := c.f 41 1, reduce := bit (c.f 42 1) 0,
    region := c.f 48 8 }

/-- The local lines of a range with the column and set that they are pinned in (R230). -/
def State.pinWays (s : State) (l pa n : Nat) : List (Nat × Nat) :=
  (((List.range (n / 128)).map (fun i => pa + 128 * i)).filter (fun a => placeOf a != .remote)).map (fun a =>
    (s.lineColumn a, setOf a (s.cacheFrames l (stackOf (s.lineColumn a)))))

/-- Whether the pinned ways of an exact-window region would exceed 12 in a set (R230). -/
def State.pinExceeds (s : State) (l pa n : Nat) : Bool :=
  let new := s.pinWays l pa n
  new.any (fun x =>
    let c := s.cacheFrames l (stackOf x.1)
    let old := s.stn.lines.countP (fun y => y.lod == l && y.isPinned && y.col == x.1 && setOf y.addr c == x.2)
    decide (c = 0 ∨ 4 * (old + new.countP (· == x)) > 12))

/-- The checks of `MAP` in the order of R321, step 8 of R37; the region descriptor is operand 2 (09, R223). It passes with the
descriptor's bytes. A `LENGTH` of 0 names no target and reads no descriptor (R320). -/
def State.mapCheck (s : State) (l : Nat) (m : MapParams) (ans : HostAns) : CheckRes :=
  let ps := pageBytes m.pageSize
  let x := s.lod l
  let charge := decide (16 * (x.pages + m.len / ps) > (match x.contract with | some c => c.tableMib | none => 0) * 2 ^ 20)
  if m.pageSize = 3 then .bad s 0x0202 40
  else if m.va % ps ≠ 0 then .bad s 0x0202 16
  else if m.pa % ps ≠ 0 then .bad s 0x0202 24
  else if m.len % ps ≠ 0 then .bad s 0x0202 32
  else if m.va + m.len > deviceVa then .bad s 0x0202 16
  else if x.maps.any (fun y => overlaps y.va (y.size * y.count) m.va m.len) then .bad s 0x0202 16
  else if m.reduce ∧ m.perm % 4 ≠ 3 then .bad s 0x0202 42
  else if m.len = 0 then .ok s [] []
  else
    match s.targetStatus l m.pa m.len, s.homedRetired m.pa m.len with
    | some st, _ => .bad s st 1
    | none, some k => .bad s 0x0501 k
    | none, none =>
      if !m.reduce then (if charge then .bad s 0x0306 1 else .ok s [] [])
      else if m.region % 32 ≠ 0 then .bad s 0x0202 48
      else
        match s.vread l m.region 32 permRead 2 ans (0, 0) with
        | .fail s' st d => .bad s' st d
        | .wait s' => .wait s'
        | .ok s' b p =>
          if anyPoison p then .bad s' 0x0303 2
          else
            match regionOf b with
            | none => .bad s' 0x0202 48
            | some r =>
              if r.exact ∧ s'.pinExceeds l m.pa m.len then .bad s' 0x0306 0
              else if charge then .bad s' 0x0306 1
              else .ok s' b []

/-- One line of a local exact-window region taken into wide form and pinned; each element's FP32 value is a contribution onto
W = 0 (R230). The flag says that one left the window. A write-back of the set that is still unacknowledged is awaited (LOG 136). -/
def State.pinLine (s : State) (l pa region : Nat) (base : Int) : State × Bool :=
  let r := s.readRange l pa 128 (0, 0)
  let s := match r.1.localLine? l (pa / 128) with
    | some y => ((r.1.writeBack y (0, 0)).removeLine y).ackedLine y.line
    | none => r.1
  let col := s.lineColumn pa
  let c := s.cacheFrames l (stackOf col)
  let s := (s.inSet l col (setOf pa c) c).foldl (fun s y => s.ackedLine y.line) s
  let conv := (List.range 32).map (fun i => RedElem.ofF32 base (field r.2.1 (4 * i) 4))
  let poison := (r.2.2.zipIdx).foldl (fun n x => if x.1 then n + 2 ^ x.2 else n) 0
  let y : CacheLine := { lod := l, line := pa / 128, col := col, kind := .pinned base (conv.map (·.1)) poison region }
  (((s.makeRoom l col (setOf pa c) c 4 (0, 0) 17).1.addLine y).writeCopy y y.words, conv.any (·.2))

/-- The local lines of a range pinned, first to last. -/
def State.pinRange (s : State) (l pa region : Nat) (base : Int) (n : Nat) : State × Bool :=
  (((List.range (n / 128)).map (fun i => pa + 128 * i)).filter (fun a => placeOf a != .remote)).foldl (fun acc a =>
    let r := acc.1.pinLine l a region base
    (r.1, acc.2 || r.2)) (s, false)

/-- A run of pages installed (R320, R321). -/
def State.install (s : State) (l : Nat) (m : MapParams) (region : Option Nat) (desc : Nat) : State :=
  let ps := pageBytes m.pageSize
  s.modLod l (fun x => { x with maps := x.maps ++
    [{ va := m.va, pa := m.pa, size := ps, count := m.len / ps, perm := m.perm, region := region, desc := desc }] })

/-- The pages of a checked `MAP` installed; `desc` holds its region descriptor's bytes. The flag says that a conversion left the window
(R230, R233). -/
def State.installMap (s : State) (l : Nat) (m : MapParams) (desc : List Byte) : State × Bool :=
  if m.len = 0 then (s, false)
  else if m.reduce then
    let s := s.install l m (some m.region) (field desc 0 4)
    match regionOf desc with
    | some r =>
      if r.exact then
        let x := s.pinRange l m.pa m.region r.base m.len
        (if x.2 then x.1.orRegionFlag l m.region 1 else x.1, x.2)
      else (s, false)
    | none => (s, false)
  else (s.install l m none 0, false)

/-- What `MAP` does once its checks are passed: the pages installed; `WORK` counts them. -/
def State.startMap (s : State) (c : Cmd) : State :=
  let m := mapParams c
  let r := s.installMap c.lod m c.read
  (if r.2 then r.1.noticeCmd c.id 0x0104 0 else r.1).finish c.id (m.len / pageBytes m.pageSize)

/-! ### `UNMAP` (13, R320, R322; 09, R231) -/

/-- The checks of `UNMAP` that the packet decides (R320; LOG 28). -/
def unmapBad (m : MapParams) : Option Status :=
  if m.va % 4096 ≠ 0 then some (0x0202, 16)
  else if m.len % 4096 ≠ 0 then some (0x0202, 32)
  else if m.va ≥ deviceVa then some (0x0202, 16)
  else if m.va + m.len > deviceVa then some (0x0202, 32)
  else none

/-- A large page of which a range would remove part: 16 where the range starts inside one, 32 where it ends inside one. -/
def Lodging.partialPage (l : Lodging) (va n : Nat) : Option Nat :=
  let inside := fun a => l.maps.any (fun m =>
    decide (m.va ≤ a ∧ a < m.va + m.size * m.count ∧ m.size > 4096 ∧ (a - m.va) % m.size ≠ 0))
  if inside va then some 16 else if inside (va + n) then some 32 else none

/-- What is left of a run of pages when those of a range are removed. -/
def Mapping.without (m : Mapping) (va n : Nat) : List Mapping :=
  if overlaps m.va (m.size * m.count) va n then
    let before := (va - m.va) / m.size
    let fin := m.va + m.size * m.count
    let after := (fin - min fin (va + n)) / m.size
    let skip := m.count - after
    (if before = 0 then [] else [{ m with count := before }]) ++
      (if after = 0 then [] else [{ m with va := m.va + m.size * skip, pa := m.pa + m.size * skip, count := after }])
  else [m]

/-- A pinned line's rounded values written to memory, and the line unpinned (R231). -/
def State.unpin (s : State) (l : CacheLine) : State :=
  let r := s.checkCopy l l.words (0, 0)
  match r.2.kind with
  | .pinned base elems poison _ =>
    (List.range 4).foldl (fun s i =>
      s.storeSector l.lod (4 * l.line + i) 0 (slice (pinnedBytes base elems) (32 * i) 32) (bit poison i) (0, 0)) (r.1.removeLine r.2)
  | _ => s

/-- The pinned lines of a lodging whose address no mapping of a region covers any more. -/
def State.unpinUnmapped (s : State) (l : Nat) : State :=
  (s.stn.lines.filter (fun y => y.lod == l && y.isPinned && !s.inRegion l y.addr)).foldl (fun s y => s.unpin y) s

/-- The pages of a range removed (R320, R322, R231); translations leave every translation cache. -/
def State.removePages (s : State) (l va n : Nat) : State :=
  let s := s.modLod l (fun x => { x with maps := (x.maps.map (fun m => m.without va n)).flatten })
  let s := { s with cores := s.cores.map (fun (e : Nat × ColCore) =>
    (e.1, { e.2 with itlb := e.2.itlb.filter (fun p => !(p.1 == l && decide (va ≤ 4096 * p.2 ∧ 4096 * p.2 < va + n))) })) }
  s.unpinUnmapped l

/-- The checks of `UNMAP` (R320). -/
def State.unmapCheck (s : State) (c : Cmd) : Option Status :=
  let m := mapParams c
  match unmapBad m with
  | some f => some f
  | none => ((s.lod c.lod).partialPage m.va m.len).map (fun d => (0x0202, d))

/-- What `UNMAP` does once its checks are passed: the pages removed. It completes when the accesses already under way have been performed
(R322). -/
def State.startUnmap (s : State) (c : Cmd) : State :=
  let m := mapParams c
  let before := (s.lod c.lod).pages
  let s := s.removePages c.lod m.va m.len
  (s.modCmd c.id (fun x => { x with upTo := s.fab.nextTxn })).finish c.id (before - (s.lod c.lod).pages)

/-! ### Contributions (09, R224 to R228, R230, R233, R241) -/

/-- The identity of an operation (R224). -/
def RedOp.identity : RedOp → Nat
  | .minF32 => infF32 false
  | .maxF32 => infF32 true
  | .minI32 => 2 ^ 31 - 1
  | .maxI32 => 2 ^ 31
  | .minI64 => 2 ^ 63 - 1
  | .maxI64 => 2 ^ 63
  | _ => 0

/-- An element before any contribution. -/
def RedElem.start (op : RedOp) : RedElem := { bits := op.identity, w := 0, special := 0, set := false }

/-- Elements of a Reduce line: 32 of FP32 or INT32, 16 of INT64, 32 of BF16 (R225). -/
def RedOp.lineElems (op : RedOp) : Nat := if op.size = 8 then 16 else 32

/-- A contribution combined with an element of a Reduce line or a pinned line; the flag says that the window was left or
saturated. BF16 contributions come as FP32 patterns. -/
def RedElem.add (e : RedElem) (op : RedOp) (exact : Bool) (base : Int) (v : Nat) : RedElem × Bool :=
  if exact then
    match f32 v with
    | .fin neg m x =>
      let r := windowAdd e.w base (Val.fin neg m x).dy
      ({ e with w := r.1, set := true }, r.2)
    | y => ({ e with special := specialAdd e.special y, set := true }, false)
  else ({ e with bits := op.apply e.bits v, set := true }, false)

/-- Element `i` of a Reduce or pinned line combined by `f`, its words read and written in the slice; its sector `sec` is poisoned where the
contribution is. The flag says that the window was left or saturated. -/
def State.combineElem (s : State) (y : CacheLine) (i sec : Nat) (poison : Bool) (f : RedElem → RedElem × Bool) (ids : Nat × Nat) : State × Bool :=
  let r := s.checkCopy y (y.wordsOfElem i) ids
  let y' := if poison then r.2.poisoned sec else r.2
  let put := fun (op : RedOp) (elems : List RedElem) => f (elems.getD i (RedElem.start op))
  match y'.kind with
  | .reduce op exact base elems p oow region =>
    let a := put ((redOpOf op).getD .addF32) elems
    let new := { y' with kind := .reduce op exact base (elems.set i a.1) p (oow || a.2) region }
    ((r.1.useLine r.2 new).writeCopy new (new.wordsOfElem i), a.2)
  | .pinned base elems p region =>
    let a := put .addF32 elems
    let new := { y' with kind := .pinned base (elems.set i a.1) p region }
    ((r.1.useLine r.2 new).writeCopy new (new.wordsOfElem i), a.2)
  | _ => (s, false)

/-- A contribution to a local region, performed directly at the home slice (R228); the flag says that the window was left. -/
def State.addLocal (s : State) (l pa : Nat) (r : Region) (v : Nat) (poison : Bool) (ids : Nat × Nat) : State × Bool :=
  let s := s.count (stackOf (homeColumn pa)) 0x033 (some l) ids 1
  match (if r.exact then s.pinned? (pa / 128) else none) with
  | some y =>
    let x := (s.fillPage l pa ids).combineElem y (pa % 128 / 4) (pa % 128 / 32) poison (fun e => e.add r.op true r.base v) ids
    (if x.2 then
      (match y.kind with | .pinned _ _ _ region => x.1.orRegionFlag l region 1 | _ => x.1)
     else x.1, x.2)
  | none =>
    let n := r.op.size
    let x := s.readRange l pa n ids
    let old := leNat x.2.1
    let new := match r.op with
      | .addBf16 => toBf16Reduction (fadd (bf16ToF32 old) v)
      | op => op.apply old v
    (x.1.writeRange l pa (leBytes n new) (poison || anyPoison x.2.2) ids, false)

/-- The number of the Reduce line of a remote element (R225). -/
def reduceLineNo (pa : Nat) (op : RedOp) : Nat := if op = .addBf16 then pa / 64 else pa / 128

/-- The element's place in its Reduce line. -/
def reduceElem (pa : Nat) (op : RedOp) : Nat := if op = .addBf16 then pa % 64 / 2 else pa % 128 / op.size

/-- The poison bit of a Reduce line that an element's home sector has. -/
def reduceSector (pa : Nat) : Nat := pa % 128 / 32

/-- The fetches of a remote line that are on their way bring data that is not kept (R224, R237). -/
def State.unkeep (s : State) (lod : Nat) (covered : Nat → Bool) : State :=
  { s with fab := { s.fab with txns := s.fab.txns.map (fun (t : Txn) =>
    match t.kind with
    | .fetch l n _ => if l = lod ∧ covered n then { t with kind := .fetch l n false } else t
    | _ => t) } }

/-- A contribution to a remote region, accumulated in a Reduce line of the lodging: a Shared copy is dropped where it opens one. With no way
to hold one, the contribution is written home at once (R224, R225, R214; LOG 29). -/
def State.addRemote (s : State) (l pa : Nat) (r : Region) (region v : Nat) (poison : Bool) (ids : Nat × Nat) : State × Bool :=
  let s := s.count (stackOf (homeColumn (pa % 2 ^ 39))) 0x033 (some l) ids 1
  let no := reduceLineNo pa r.op
  let add := fun (s : State) (y : CacheLine) =>
    let x := s.combineElem y (reduceElem pa r.op) (reduceSector pa) poison (fun e => e.add r.op r.exact r.base v) ids
    (if x.2 then x.1.orRegionFlag l region 1 else x.1, x.2)
  match s.stn.lines.find? (fun y => y.lod == l && y.line == no && y.isReduce && y.half == (r.op == .addBf16)) with
  | some y => add s y
  | none =>
    let s := match s.shared? l (pa / 128) with
      | some y => s.removeLine y
      | none => s
    let s := s.unkeep l (· == pa / 128)
    let fresh := LineKind.reduce r.op.code r.exact r.base (List.replicate r.op.lineElems (RedElem.start r.op)) 0 false region
    match s.allocate l pa no fresh ids with
    | some (s, y) => add s y
    | none =>
      let y : CacheLine := { lod := l, line := no, col := 256 + homeColumn (pa % 2 ^ 39), kind := fresh }
      let x := add (s.addLine y) y
      match x.1.stn.lines.find? (fun z => z.lod == l && z.line == no && z.isReduce && z.buffered) with
      | some z => ((x.1.sendHome z []).getD (x.1.discardReduce z), x.2)
      | none => x

/-- One contribution to the region element at a virtual address's target. -/
def State.contribute (s : State) (l pa : Nat) (r : Region) (region v : Nat) (poison : Bool) (ids : Nat × Nat) : State × Bool :=
  if placeOf pa = .remote then s.addRemote l pa r region v poison ids else s.addLocal l pa r v poison ids

/-! ### `REDUCE_PUSH` (09, R239) -/

/-- The region that a destination range lies in: one descriptor for all of it. -/
def State.pushRegion (s : State) (l va n : Nat) : Option (Region × Nat) :=
  match (s.lod l).mapping? va with
  | none => none
  | some m =>
    match m.region, m.reduction with
    | some d, some r =>
      if (List.range (n / 4096 + 2)).all (fun i =>
          let a := va + 4096 * i
          decide (va + n ≤ alignDown a 4096 ∧ i ≠ 0) ||
            (match (s.lod l).mapping? (if i = 0 then va else alignDown a 4096) with
             | some m' => m'.region == some d
             | none => decide (i ≠ 0 ∧ va + n ≤ alignDown a 4096)))
      then some (r, d) else none
    | _, _ => none

/-- The class 0x02 rows of `REDUCE_PUSH` for a known region (R239). -/
def pushBad (c : Cmd) (r : Region) : Option Status :=
  let n := r.op.size * c.f 32 8
  if c.f 16 8 % r.op.size ≠ 0 then some (0x0202, 16)
  else if c.f 24 8 % r.op.size ≠ 0 then some (0x0202, 24)
  else if overlaps (c.f 16 8) n (c.f 24 8) n then some (0x0202, 24)
  else if bit (c.f 40 1) 0 ∧ r.op ≠ .addF32 ∧ r.op ≠ .addBf16 then some (0x0202, 40)
  else none

/-- The value that element `raw` contributes (R239): FP32 or BF16 scaled where `SCALE_EN` is 1. -/
def pushValue (c : Cmd) (r : Region) (raw : Nat) : Nat :=
  let x := if r.op = .addBf16 then bf16ToF32 raw else raw
  if bit (c.f 40 1) 0 then fmul x (c.f 44 4) else x

/-- The checks of `REDUCE_PUSH` (R239). -/
def State.pushCheck (s : State) (c : Cmd) : Option Status :=
  if c.f 32 8 = 0 then none
  else
    match ((s.lod c.lod).mapping? (c.f 24 8)).bind Mapping.reduction with
    | none => some (0x0301, 1)
    | some r =>
      match pushBad c r with
      | some f => some f
      | none => if (s.pushRegion c.lod (c.f 24 8) (r.op.size * c.f 32 8)).isSome then none else some (0x0301, 1)

/-- A push that ends after `i` elements: `WORK` counts them. -/
def State.pushEnds (s : State) (c : Cmd) (i st d : Nat) : State := (s.modCmd c.id (fun x => { x with work := i })).endWith c.id st d

/-- The elements of a push contributed in ascending order from element `i`; one whose source must be awaited is taken up again there. -/
def State.pushElems (s : State) (c : Cmd) (r : Region) (region : Nat) (ans : HostAns) (i : Nat) : Nat → State
  | 0 => s.finish c.id (c.f 32 8)
  | fuel + 1 =>
    let n := r.op.size
    match s.vread c.lod (c.f 16 8 + n * i) n permRead 0 ans c.ids with
    | .fail s st d => s.pushEnds c i st d
    | .wait s => s.modCmd c.id (fun x => { x with issued := false, work := i })
    | .ok s b p =>
      match s.trans c.lod (c.f 24 8 + n * i) permWrite with
      | .error e => s.pushEnds c i e 1
      | .ok pa =>
        let x := s.contribute c.lod pa r region (pushValue c r (leNat b)) (anyPoison p) c.ids
        (if x.2 then x.1.noticeCmd c.id 0x0104 0 else x.1).pushElems c r region ans (i + 1) fuel

/-- What `REDUCE_PUSH` does when it starts, and again from its first element not yet contributed when it was held; a region that has been
unmapped since is an access that fails there. -/
def State.startPush (s : State) (c : Cmd) (ans : HostAns) : State :=
  let count := c.f 32 8
  if count = 0 then s.finish c.id 0
  else
    match (s.lod c.lod).mapping? (c.f 24 8) with
    | none => s.pushEnds c c.work 0x0300 1
    | some m =>
      match m.region, m.reduction with
      | some d, some r => (s.modCmd c.id (fun x => { x with issued := true })).pushElems c r d ans c.work (count - c.work)
      | _, _ => s.pushEnds c c.work 0x0301 1

/-! ### Epochs (09, R234 to R237, R240) -/

/-- The virtual address at which a lodging maps a physical address. -/
def Lodging.vaOf (l : Lodging) (pa : Nat) : Option Nat :=
  match l.maps.find? (fun m => decide (m.pa ≤ pa ∧ pa < m.pa + m.size * m.count)) with
  | some m => some (m.va + (pa - m.pa))
  | none => none

/-- Whether an epoch command covers the remote line of a global address (R234). -/
def State.epochCovers (s : State) (c : Cmd) (pa : Nat) : Bool :=
  match bits (c.f 34 1) 0 2 with
  | 0 => true
  | 1 =>
    (s.lod c.lod).maps.any (fun m =>
      decide (m.pa ≤ pa ∧ pa < m.pa + m.size * m.count) &&
        (let va := m.va + (pa - m.pa)
         decide (c.f 16 8 ≤ va ∧ va < c.f 16 8 + c.f 24 8)))
  | _ => deviceOf pa == c.f 32 2

/-- The checks of an epoch command at step 8 (R234). -/
def epochBad (c : Cmd) : Option Status :=
  let sel := bits (c.f 34 1) 0 2
  if sel = 1 ∧ c.f 16 8 % 4096 ≠ 0 then some (0x0202, 16)
  else if sel = 1 ∧ c.f 24 8 % 4096 ≠ 0 then some (0x0202, 24)
  else if sel = 3 then some (0x0202, 34)
  else none

/-- The device of the first remote page of a mapping that an epoch command covers (R234). -/
def Mapping.coveredDevice (m : Mapping) (c : Cmd) : Option Nat :=
  let n := m.size * m.count
  let from' := fun (lo hi : Nat) => if max lo (2 ^ 52) < hi then some (deviceOf (max lo (2 ^ 52))) else none
  match bits (c.f 34 1) 0 2 with
  | 0 => from' m.pa (m.pa + n)
  | 1 => from' (m.pa + (max m.va (c.f 16 8) - m.va)) (m.pa + (min (m.va + n) (c.f 16 8 + c.f 24 8) - m.va))
  | _ => from' (max m.pa (2 ^ 52 * c.f 32 2)) (min (m.pa + n) (2 ^ 52 * (c.f 32 2 + 1)))

/-- The remote regions that an epoch command covers: descriptor, device. -/
def State.coveredRegions (s : State) (c : Cmd) : List (Nat × Nat) :=
  (s.lod c.lod).maps.filterMap (fun m =>
    match m.region, m.coveredDevice c with
    | some d, some dev => some (d, dev)
    | _, _ => none)

/-- Whether a region descriptor has `LOST` set. -/
def lostSet (b : List Byte) : Bool := bit (byteAt b 0) 1

/-- The device of the first covered region whose descriptor has `LOST` set, each descriptor read at its home (R240). -/
def State.lostRegion (s : State) (c : Cmd) : List (Nat × Nat) → State × Option Nat × Bool
  | [] => (s, none, false)
  | (d, dev) :: r =>
    match s.vread c.lod (d + 8) 1 permRead 0 .data c.ids with
    | .fail s _ _ => s.lostRegion c r
    | .wait s => (s, none, true)
    | .ok s b _ => if lostSet b then (s, some dev, false) else s.lostRegion c r

/-- A list of covered Reduce lines written home for an `EPOCH_FLUSH`: the command awaits one acknowledgement for each (R235, R240). -/
def State.flushLines (s : State) (id : Nat) : List CacheLine → State
  | [] => s
  | y :: r =>
    match s.sendHome y [id] with
    | some s' => (s'.modCmd id (fun c => { c with acks := c.acks + 1, work := c.work + 1 })).flushLines id r
    | none => (s.failCmd id 0x0305 (deviceOf y.addr)).flushLines id r

/-- A transaction that is a covered line already on its way home, and that a flush does not await yet. -/
def Txn.joins (t : Txn) (id : Nat) (covered : CacheLine → Bool) : Bool :=
  match t.kind with
  | .writeHome cmds y => covered y && !cmds.contains id
  | _ => false

/-- An `EPOCH_FLUSH` awaits the lines that replacement or an access has already sent home (R235, R238). -/
def State.joinHomes (s : State) (id : Nat) (covered : CacheLine → Bool) : State :=
  let n := s.fab.txns.countP (fun t => t.joins id covered)
  let s := { s with fab := { s.fab with txns := s.fab.txns.map (fun (t : Txn) =>
    if t.joins id covered then
      { t with kind := (match t.kind with | .writeHome cmds y => TxnKind.writeHome (cmds ++ [id]) y | k => k) }
    else t) } }
  s.modCmd id (fun c => { c with acks := c.acks + n })

/-- Whether a flush has nothing left to send or await, and so its outcome is decided. -/
def State.settle (s : State) (id : Nat) : State :=
  match s.cmd? id with
  | some c => if c.issued ∧ c.acks = 0 then s.endCmd id else s
  | none => s

/-- What `EPOCH_FLUSH` does when it starts, and again while a region descriptor was awaited (R235, R236, R238, R240). -/
def State.startFlush (s : State) (c : Cmd) : State :=
  let covered := fun (y : CacheLine) => y.lod == c.lod && y.isReduce && s.epochCovers c y.addr
  let r := ((s.joinHomes c.id covered).flushLines c.id (s.stn.lines.filter covered)).lostRegion c (s.coveredRegions c)
  let s := match r.2.1 with
    | some d => r.1.failCmd c.id 0x0305 d
    | none => r.1
  (s.modCmd c.id (fun x => { x with issued := !r.2.2 })).settle c.id

/-- What `EPOCH_INVALIDATE` does; a copy that answers one read stays for it (R235, R237). -/
def State.startInvalidate (s : State) (c : Cmd) : State :=
  let lines := s.stn.lines.filter (fun y =>
    y.lod == c.lod && decide (y.col < 512) && (match y.kind with | .shared _ _ => true | _ => false) && s.epochCovers c y.addr)
  let s := lines.foldl (fun s y =>
    let s := s.removeLine y
    if y.buffered then s else s.modStnRegs (stackOf y.col) (fun r => { r with epochDrops := wrap32 (r.epochDrops + 1) })) s
  (s.unkeep c.lod (fun n => s.epochCovers c (128 * n))).finish c.id (lines.countP (fun y => !y.buffered))

/-! ### A written-home line performed at this device (09, R227, R231, R233, R241) -/

/-- An element of a written-home line: its place, and its value. -/
structure SentElem where
  i : Nat
  bits : Nat
  w : Int
  special : Nat
  deriving DecidableEq, Repr

/-- The elements that a write-home carries, from its payload (`reduceBytes`). -/
def sentElems (exact : Bool) (n : Nat) (b : List Byte) : List SentElem :=
  (setBits (field b 0 4) n).map (fun i =>
    if exact then { i := i, bits := 0, w := signedOf 128 (field b (6 + 17 * i) 16), special := byteAt b (6 + 17 * i + 16) }
    else { i := i, bits := field b (6 + 8 * i) 8, w := 0, special := 0 })

/-- Special states combined (R138, R227). -/
def specialJoin (a b : Nat) : Nat :=
  if a = 0 then b else if b = 0 then a else if a = b then a else 1

/-- One element combined at the home slice (R227). -/
def State.homeCombine (s : State) (l lineAddr : Nat) (r : Region) (poison : Nat) (e : SentElem) : State × Bool :=
  let n := r.op.size
  let a := lineAddr + n * e.i
  let bad := bit poison (a % 128 / 32)
  match (if r.exact then s.pinned? (lineAddr / 128) else none) with
  | some y =>
    let x := (s.fillPage l lineAddr (0, 0)).combineElem y e.i (a % 128 / 32) bad (fun old =>
      let w := sat128 (old.w + e.w)
      ({ old with w := w.1, special := specialJoin old.special e.special, set := true }, w.2)) (0, 0)
    (if x.2 then
      (match y.kind with | .pinned _ _ _ region => x.1.orRegionFlag l region 1 | _ => x.1)
     else x.1, x.2)
  | none =>
    let x := s.readRange l a n (0, 0)
    let old := leNat x.2.1
    let new := match r.op with
      | .addBf16 => toBf16Reduction (fadd (bf16ToF32 old) e.bits)
      | op => op.apply old e.bits
    (x.1.writeRange l a (leBytes n new) (bad || anyPoison x.2.2) (0, 0), false)

/-- A written-home line performed for the bound lodging in one entry (R227): whether `OUT_OF_WINDOW` was set here. -/
def State.performHome (s : State) (l pa : Nat) (m : Mapping) (r : Region) (b : List Byte) : State × Bool :=
  let lineAddr := if r.op = .addBf16 then alignDown pa 64 else alignDown pa 128
  let es := sentElems r.exact r.op.lineElems b
  let x := es.foldl (fun acc e =>
    let y := acc.1.homeCombine l lineAddr r (byteAt b 4) e
    (y.1, acc.2 || y.2)) (s, false)
  let flag := bit (byteAt b 5) 0
  let s := match m.region with
    | some d => if flag then x.1.orRegionFlag l d 1 else x.1
    | none => x.1
  (s, x.2 || flag)

/-! ### A write-home that does not arrive (09, R240) -/

/-- Two accumulators of one element put together: neither's contributions are lost. -/
def RedElem.join (a b : RedElem) (op : RedOp) (exact : Bool) : RedElem × Bool :=
  if !b.set then (a, false)
  else if !a.set then (b, false)
  else if exact then
    let w := sat128 (a.w + b.w)
    ({ a with w := w.1, special := specialJoin a.special b.special }, w.2)
  else ({ a with bits := op.apply a.bits b.bits }, false)

/-- A Reduce line that could not be written home stands in Reduce state again, with what has been added since; with no way to hold it, it is
discarded (R240). -/
def State.restoreReduce (s : State) (l : CacheLine) : State :=
  match l.kind with
  | .reduce op exact base elems p oow region =>
    match s.stn.lines.find? (fun y => y.lod == l.lod && y.line == l.line && y.isReduce && y.half == l.half) with
    | some y =>
      match y.kind with
      | .reduce _ _ _ newer q oow' _ =>
        let both := (List.range elems.length).map (fun i =>
          (newer.getD i (RedElem.start .addF32)).join (elems.getD i (RedElem.start .addF32)) ((redOpOf op).getD .addF32) exact)
        let left := both.any (·.2)
        let new := { y with kind := .reduce op exact base (both.map (·.1)) (p ||| q) (oow || oow' || left) region }
        let s := (s.swapLine y new).writeCopy new new.words
        if left then s.orRegionFlag l.lod region 1 else s
      | _ => s
    | none =>
      match s.allocate l.lod l.addr l.line l.kind (0, 0) with
      | some (s', _) => s'
      | none => s.discardReduce l
  | _ => s

/-- A line written home whose home cannot be reached after all: kept in Reduce state while an `EPOCH_FLUSH` covers it, else discarded
(R240). -/
def State.homeUnreached (s : State) (cmds : List Nat) (l : CacheLine) : State :=
  if cmds.isEmpty then s.discardReduce l else s.restoreReduce l

end Sys2Proof.Machine
end

