-- ==== Sys2Proof/Machine/Attention.lean ====
section
/-! DEFINITION. The attention operators (06): packets, checks, masks and positions, key blocks, merges, the backward pass and
`KV_APPEND`. Numerics: Float.lean (05, R130 to R134); exp2, log2, cos and sin are the part's evaluations, held to their bounds
(Approx.lean, LOG 11). -/

namespace Sys2Proof.Machine

/-! ### Packets and tables (06, R156 to R159) -/

/-- The parameters of an attention command; without continuation 1 the scales are 1.0 (R157). -/
def attnParams (c : Cmd) : AttnParams :=
  let one := 0x3F800000
  let ext := decide (c.packet.length > 64)
  { opcode := c.opcode, seqTable := c.f 16 8, seqCount := c.f 24 4, qHeads := c.f 28 2, kvHeads := c.f 30 2, headDim := c.f 32 2,
    oFmt := bits (c.f 34 1) 4 2, kvFmt := bits (c.f 34 1) 0 2, phase := bits (c.f 35 1) 4 2, lseEn := bit (c.f 35 1) 3,
    block := bit (c.f 35 1) 2, window := bit (c.f 35 1) 1, causal := bit (c.f 35 1) 0, scale := c.f 36 4, windowLen := c.f 40 4,
    splits := c.f 44 2, ropeLayout := bits (c.f 46 1) 2 1, ropeMode := bits (c.f 46 1) 0 2, ropeBase := c.f 48 4,
    rotDim := c.f 52 2, qScale := if ext then c.f 68 4 else one, kScale := if ext then c.f 72 4 else one,
    vScale := if ext then c.f 76 4 else one, numPartials := if ext then c.f 80 2 else 0, tolExp := if ext then bits (c.f 82 1) 0 6 else 0 }

/-- A sequence table entry (R158) with its mask descriptor (R159). -/
def seqEntry (b mask : List Byte) (skipped : Bool) : SeqEntry :=
  { q := field b 0 8, o := field b 8 8, pageTable := field b 16 8, lse := field b 24 8, qLen := field b 32 4, kvLen := field b 36 4,
    qPos0 := field b 40 4, kvPos0 := field b 44 4, dO := field b 48 8, dq := field b 56 8, dk := field b 64 8, dv := field b 72 8,
    partials := field b 80 8, maskDesc := field b 88 8, kNew := field b 96 8, vNew := field b 104 8, vTail := field b 112 8,
    qMxs := field b 120 8, maskMap := field mask 0 8, maskStride := field mask 8 4, maskGranule := bits (byteAt mask 12) 0 2,
    skipped := skipped }

/-- Continuation packets of an attention command (R157, R160). -/
def attnConts (c : Cmd) (n : Nat) : Option Nat :=
  let p := attnParams c
  if n = 0 ∧ (p.kvFmt = 1 ∨ p.phase = 2 ∨ c.opcode = 0x0202) then some 1 else if n > 1 then some 2 else none

/-- Fields of the attention packets (R156, R157). -/
def attnFields (conts : Nat) : List (Nat × Nat) × List (Nat × Nat) :=
  ([(16, 57), (24, 32), (28, 9), (30, 9), (32, 9), (36, 32), (40, 32), (44, 9), (48, 32), (52, 9)] ++
     (if conts = 0 then [] else [(68, 32), (72, 32), (76, 32), (80, 16), (82, 6)]),
   [(34, 0x33), (35, 0x3F), (46, 0x07)])

/-- Whether an FP32 pattern is finite and above 1. -/
def aboveOne (b : Bits) : Bool :=
  match f32 b with
  | .fin _ _ _ => flt 0x3F800000 b
  | _ => false

/-- The command rows of R160 after the reserved bits. -/
def AttnParams.bad (p : AttnParams) : Option Status :=
  let conds : List (Bool × Nat × Nat) := [
    (p.kvFmt == 3 || p.oFmt == 3 || (p.opcode == 0x0202 && (p.kvFmt != 0 || p.oFmt == 2)), 0x0206, 34),
    (p.qHeads == 0 || decide (p.qHeads > 256), 0x0202, 28),
    (p.kvHeads == 0 || decide (p.kvHeads > 256) || p.qHeads % p.kvHeads != 0, 0x0202, 30),
    (decide (p.headDim < 32 ∨ p.headDim > 256) || p.headDim % 32 != 0, 0x0202, 32),
    (p.splits == 0 || decide (p.splits > 256), 0x0202, 44),
    (if p.ropeMode = 0 then p.rotDim != 0 else p.rotDim % 2 != 0 || decide (p.rotDim < 2 ∨ p.rotDim > p.headDim), 0x0202, 52),
    (!aboveOne p.ropeBase, 0x0202, 48),
    (p.ropeMode == 3 || (p.ropeMode == 2 && p.kvFmt != 0), 0x0202, 46),
    (p.phase == 3 || (p.phase != 0 && (p.opcode == 0x0202 || p.opcode == 0x0204)), 0x0202, 35),
    (p.phase == 2 && (p.numPartials == 0 || decide (p.numPartials > 1024)), 0x0202, 80),
    (decide ((1 ≤ p.tolExp ∧ p.tolExp ≤ 7) ∨ p.tolExp > 40), 0x0202, 82),
    (decide (p.seqCount > 65536), 0x0207, 24),
    (p.seqTable % 128 != 0, 0x0202, 16)]
  match conds.find? (·.1) with
  | some x => some x.2
  | none => none

/-- The detail of an entry's field (R160). -/
def entryDetail (i off : Nat) : Nat := sat16 (128 + 128 * i + off)

/-- The first entry that meets the first of some conditions that any entry meets; poisoned entries are not checked (R160). -/
def firstEntryBad (es : List SeqEntry) (conds : List ((SeqEntry → Bool) × (Nat → Status))) : Option Status :=
  conds.findSome? (fun c =>
    match es.zipIdx.find? (fun x => !x.1.skipped && c.1 x.1) with
    | some x => some (c.2 x.2)
    | none => none)

/-- The conditions of R160's sixth row on what an entry itself holds. -/
def AttnParams.entryConds (p : AttnParams) : List ((SeqEntry → Bool) × (Nat → Status)) :=
  [(fun e => p.opcode == 0x0203 && decide (e.qLen > 32), fun i => (0x0202, entryDetail i 32)),
   (fun _ => p.window && p.windowLen == 0, fun _ => (0x0202, 40)),
   (fun e => e.pageTable % 8 != 0, fun i => (0x0202, entryDetail i 16)),
   (fun e => p.block && e.maskDesc % 16 != 0, fun i => (0x0202, entryDetail i 88))]

/-- Its conditions on mask descriptors, and the seventh row. -/
def AttnParams.lateConds (p : AttnParams) : List ((SeqEntry → Bool) × (Nat → Status)) :=
  [(fun e => p.block && e.maskStride % 2 ^ Config.maskStrideLog != 0, fun i => (0x0202, entryDetail i 88)),
   (fun e => p.block && e.maskGranule == 3, fun i => (0x0202, entryDetail i 88)),
   (fun e => decide ((if p.opcode = 0x0204 then e.kvLen + e.qLen else e.kvLen) > 4194304), fun i => (0x0207, entryDetail i 36)),
   (fun e => p.opcode != 0x0204 && decide (e.qPos0 + e.qLen > 2 ^ 24), fun i => (0x0207, entryDetail i 40)),
   (fun e => decide (e.kvPos0 + e.kvLen > 2 ^ 24), fun i => (0x0207, entryDetail i 44))]

/-- The sequence table read entry by entry (R160). -/
def State.readSeqs (s : State) (l va : Nat) (ans : HostAns) (ids : Nat × Nat) (read : List Byte) (ps : List Bool) : Nat → CheckRes
  | 0 => .ok s read ps
  | n + 1 =>
    match s.vread l (va + 128 * ps.length) 128 permRead 0 ans ids with
    | .fail s' st d => .bad s' st d
    | .wait s' => .wait s'
    | .ok s' b p => s'.readSeqs l va ans ids (read ++ b) (ps ++ [anyPoison p]) n

/-- The mask descriptors of the entries read after the table (R159); none is read for a poisoned entry. -/
def State.readMasks (s : State) (l : Nat) (ans : HostAns) (ids : Nat × Nat) (read : List Byte) (ps : List Bool) : List SeqEntry → CheckRes
  | [] => .ok s read ps
  | e :: r =>
    if e.skipped then s.readMasks l ans ids (read ++ List.replicate 16 0) (ps ++ [true]) r
    else
      match s.vread l e.maskDesc 16 permRead 10 ans ids with
      | .fail s' st d => .bad s' st d
      | .wait s' => .wait s'
      | .ok s' b p => s'.readMasks l ans ids (read ++ b) (ps ++ [anyPoison p]) r

/-- The entries that step 8 read: the table, then with `BLOCK` the mask descriptors. -/
def AttnParams.entries (p : AttnParams) (read : List Byte) (ps : List Bool) : List SeqEntry :=
  (List.range p.seqCount).map (fun i =>
    seqEntry (slice read (128 * i) 128) (if p.block then slice read (128 * p.seqCount + 16 * i) 16 else [])
      (ps.getD i false || ps.getD (p.seqCount + i) false))

/-- Step 8 of R37 for an attention operator: the command, its entries, their mask descriptors, in the order of R160's table. -/
def State.attnCheck (s : State) (c : Cmd) (ans : HostAns) : CheckRes :=
  let p := attnParams c
  let verdict := fun (s : State) (read : List Byte) (ps : List Bool) (conds : List ((SeqEntry → Bool) × (Nat → Status))) =>
    match firstEntryBad (p.entries read ps) conds with
    | some f => CheckRes.bad s f.1 f.2
    | none => .ok s read ps
  match p.bad with
  | some f => .bad s f.1 f.2
  | none =>
    match s.readSeqs c.lod p.seqTable ans c.ids [] [] p.seqCount with
    | .ok s read ps =>
      match verdict s read ps p.entryConds with
      | .ok s read ps =>
        match (if p.block then s.readMasks c.lod ans c.ids read ps (p.entries read ps) else .ok s read ps) with
        | .ok s read ps => verdict s read ps p.lateConds
        | r => r
      | r => r
    | r => r

/-! ### Rows, masks, blocks (06, R143, R147, R156, R161, R162) -/

/-- Query heads per KV head. -/
def AttnParams.group (p : AttnParams) : Nat := p.qHeads / p.kvHeads

/-- Whether units pack the rows of a group of heads (R162). -/
def AttnParams.packed (p : AttnParams) : Bool := p.opcode == 0x0203

/-- Heads over which units are numbered: query heads, or KV heads where rows are packed. -/
def AttnParams.unitHeads (p : AttnParams) : Nat := if p.packed then p.kvHeads else p.qHeads

/-- Rows over which a head's units are numbered. -/
def AttnParams.unitRows (p : AttnParams) (e : SeqEntry) : Nat := if p.packed then p.group * e.qLen else e.qLen

/-- The (row, query head) pairs of a unit. -/
def AttnParams.rowsOf (p : AttnParams) (e : SeqEntry) (mb head : Nat) : List (Nat × Nat) :=
  (List.range (min 128 (p.unitRows e - 128 * mb))).map (fun i =>
    let x := 128 * mb + i
    if p.packed then (x % e.qLen, p.group * head + x / e.qLen) else (x, head))

/-- The KV head of a unit. -/
def AttnParams.kvHead (p : AttnParams) (head : Nat) : Nat := if p.packed then head else head * p.kvHeads / p.qHeads

/-- Tokens of a granule of an entry's mask (R159). -/
def SeqEntry.granule (e : SeqEntry) : Nat := 64 * 2 ^ e.maskGranule

/-- Whether the position conditions of R143 but the block mask let a query at position q see the key at position k. -/
def AttnParams.sees (p : AttnParams) (q k : Nat) : Bool :=
  (!p.causal || decide (k ≤ q)) && (!p.window || decide (q < k + p.windowLen ∧ k ≤ q))

/-- Granule rows of the mask map that some rows of queries need. -/
def maskRowsOf (e : SeqEntry) (rows : List (Nat × Nat)) : List Nat :=
  rows.foldl (fun (acc : List Nat) r => insertNew acc ((e.qPos0 + r.1) / e.granule)) []

/-- The bytes of a granule row of the mask map that its queries need: first and last byte of the keys that they see but for the mask. -/
def AttnParams.maskSpan (p : AttnParams) (e : SeqEntry) (rows : List (Nat × Nat)) (a : Nat) : Option (Nat × Nat) :=
  let qs := (rows.map (fun r => e.qPos0 + r.1)).filter (fun q => q / e.granule == a)
  let last := e.kvPos0 + e.kvLen
  let hi := if p.causal || p.window then min last (qs.foldl max 0 + 1) else last
  let lo := if p.window then max e.kvPos0 (qs.foldl min (2 ^ 32) + 1 - p.windowLen) else e.kvPos0
  if lo < hi then some (lo / e.granule / 8, (hi - 1) / e.granule / 8) else none

/-- Granule rows of the mask map read for a unit (R159; operand 16). -/
def State.readMaskRows (s : State) (l : Nat) (p : AttnParams) (e : SeqEntry) (rows : List (Nat × Nat)) (ans : HostAns) (ids : Nat × Nat)
    (acc : Tab (Nat × List Byte × List Bool)) : List Nat → Except (State × Option Status) (State × Tab (Nat × List Byte × List Bool))
  | [] => .ok (s, acc)
  | a :: r =>
    match p.maskSpan e rows a with
    | none => s.readMaskRows l p e rows ans ids acc r
    | some (b0, b1) =>
      match s.vread l (e.maskMap + a * e.maskStride + b0) (b1 - b0 + 1) permRead 16 ans ids with
      | .fail s' st d => .error (s', some (st, d))
      | .wait s' => .error (s', none)
      | .ok s' b ps => s'.readMaskRows l p e rows ans ids (acc.set a (b0, b, ps)) r

/-- One bit of a mask map (R159) as a unit read it, with the poison of its sector. -/
def maskBit (e : SeqEntry) (mask : Tab (Nat × List Byte × List Bool)) (a c : Nat) : Bool × Bool :=
  let x := mask.get a (0, [], [])
  let va := e.maskMap + a * e.maskStride
  if c / 8 < x.1 then (false, false)
  else (bit (byteAt x.2.1 (c / 8 - x.1)) (c % 8), x.2.2.getD ((va + c / 8) / 32 - (va + x.1) / 32) false)

/-- Whether the score of query row r and token j is visible (R143). -/
def AttnParams.visible (p : AttnParams) (e : SeqEntry) (mask : Tab (Nat × List Byte × List Bool)) (r j : Nat) : Bool :=
  let q := e.qPos0 + r
  let k := e.kvPos0 + j
  decide (j < e.kvLen) && p.sees q k && (!p.block || (maskBit e mask (q / e.granule) (k / e.granule)).1)

/-- The key blocks that a unit computes: those with a visible score of some row (R147). -/
def AttnParams.keyBlocks (p : AttnParams) (e : SeqEntry) (mask : Tab (Nat × List Byte × List Bool)) (rows : List (Nat × Nat)) : List Nat :=
  (List.range ((e.kvLen + 63) / 64)).filter (fun b =>
    (List.range 64).any (fun i => rows.any (fun r => p.visible e mask r.1 (64 * b + i))))

/-- Whether any mask map sector that a block's scores need is poisoned (R168). -/
def AttnParams.maskPoison (p : AttnParams) (e : SeqEntry) (mask : Tab (Nat × List Byte × List Bool)) (rows : List (Nat × Nat)) (b : Nat) : Bool :=
  p.block && rows.any (fun r => (List.range 64).any (fun i =>
    let q := e.qPos0 + r.1
    let k := e.kvPos0 + 64 * b + i
    decide (64 * b + i < e.kvLen) && p.sees q k && (maskBit e mask (q / e.granule) (k / e.granule)).2))

/-- The blocks of split `sp` (R156). -/
def splitBlocks (bs : List Nat) (splits sp : Nat) : List Nat :=
  let n := bs.length
  (bs.drop (sp * n / splits)).take ((sp + 1) * n / splits - sp * n / splits)

/-! ### Values (06, R141, R142, R144, R145) -/

/-- FP32 1.0. -/
def oneF32 : Bits := 0x3F800000

/-- exp2 of the streaming attention unit (R130, R145). -/
def expTwo (x : Bits) : Bits :=
  match f32 x with
  | .nan => nanF32
  | .inf neg => if neg then 0 else infF32 false
  | .fin _ _ _ => if flt x 0xC3150000 then 0 else if flt x 0x43000000 then exp2F32 x else infF32 false

/-- σ of R142. -/
def AttnParams.sigma (p : AttnParams) : Bits :=
  let sq := if p.kvFmt = 1 then p.qScale else oneF32
  let sk := if p.kvFmt = 1 then p.kScale else oneF32
  fmul (fmul (fmul p.scale sq) sk) 0x3FB8AA3B

/-- The format of an operand in its passes (R141). -/
def AttnParams.passFmt (p : AttnParams) : Fmt := if p.kvFmt = 0 then .bf16 else .e4m3

/-- Products per pass of the width class (R141). -/
def AttnParams.passWidth (p : AttnParams) : Nat := if p.kvFmt = 0 then 32 else 64

/-- A list cut into runs of n. -/
def runsOf {α : Type} (n : Nat) (l : List α) : List (List α) :=
  (List.range ((l.length + n - 1) / n)).map (fun i => (l.drop (n * i)).take n)

/-- Pass sums accumulated in order from a value (R90). -/
def accumulateFrom (sum : List Val → Bits) (width : Nat) (start : Bits) (ps : List Val) : Bits :=
  (runsOf width ps).foldl (fun a r => fadd a (sum r)) start

/-- An element that is +0. -/
def Elem.zero : Elem := { v := .fin false 0 0, scale := some 0 }

/-- The scaled value. -/
def Elem.val (e : Elem) : Val := e.v.scale e.scale

/-- The index of the other half of a rotated pair, and whether this element is the first (R144). -/
def ropePair (layout rot i : Nat) : Nat × Bool :=
  if layout = 0 then (if i % 2 = 0 then i + 1 else i - 1, i % 2 == 0)
  else (if i < rot / 2 then i + rot / 2 else i - rot / 2, decide (i < rot / 2))

/-- The pair number of a dimension. -/
def ropeIndex (layout rot i : Nat) : Nat := if layout = 0 then i / 2 else i % (rot / 2)

/-- One FP32 vector rotated at a position, or back by −θ (R144). -/
def AttnParams.rotate (p : AttnParams) (pos : Nat) (back : Bool) (x : List Bits) : List Bits :=
  x.zipIdx.map (fun y =>
    if y.2 < p.rotDim then
      let pr := ropePair p.ropeLayout p.rotDim y.2
      let i := ropeIndex p.ropeLayout p.rotDim y.2
      let c := ropeCosF32 pos p.ropeBase i p.rotDim
      let sn := if back then fneg (ropeSinF32 pos p.ropeBase i p.rotDim) else ropeSinF32 pos p.ropeBase i p.rotDim
      let o := x.getD pr.1 0
      if pr.2 then fsub (fmul y.1 c) (fmul o sn) else fadd (fmul o sn) (fmul y.1 c)
    else y.1)

/-- A vector rotated and converted back to its format under R126, each element's scale kept (R144; LOG 31). -/
def AttnParams.rotateElems (p : AttnParams) (pos : Nat) (x : List Elem) : List Elem :=
  let r := p.rotate pos false (x.map (fun e => e.val.toF32))
  x.zipIdx.map (fun y =>
    if y.2 < p.rotDim then
      match y.1.scale, f32 (r.getD y.2 0) with
      | some k, .fin neg m g =>
        let f := p.passFmt
        { y.1 with v := decodeFmt f (f.place neg (f.rneCode m (g - k))).code }
      | _, .inf neg => { y.1 with v := decodeFmt p.passFmt (p.passFmt.placeInfinity neg).code }
      | _, _ => { y.1 with v := .nan }
    else y.1)

/-! ### Reading queries, keys and values (06, R141, R151 to R153, R168) -/

/-- What a read of a vector gives. -/
inductive VecRead where
  | fail (s : State) (st d : Nat)
  | wait (s : State)
  | ok (s : State) (x : List Elem) (poison : Bool)

/-- A run of element codes read. -/
def State.readCodes (s : State) (l va w cnt operand : Nat) (ans : HostAns) (ids : Nat × Nat) : MatRead :=
  s.readRows l va 0 w 0 0 cnt operand ans ids 1

/-- A query row (R141, R144). -/
def State.readQuery (s : State) (l : Nat) (p : AttnParams) (e : SeqEntry) (row head : Nat) (ans : HostAns) (ids : Nat × Nat) :
    VecRead :=
  let d := p.headDim
  let i := (row * p.qHeads + head) * d
  let w := if p.kvFmt = 0 then 16 else 8
  match s.readCodes l (e.q + i * w / 8) w d 1 ans ids with
  | .fail s st o => .fail s st o
  | .wait s' => .wait s'
  | .ok s rows pq =>
    let sc := if p.kvFmt = 2 then s.readCodes l (e.qMxs + i / 32) 8 (d / 32) 14 ans ids else .ok s [] false
    match sc with
    | .fail s st o => .fail s st o
    | .wait s' => .wait s'
    | .ok s ss ps =>
      let x := (rows.flatten.zipIdx).map (fun y =>
        ({ v := decodeFmt p.passFmt y.1, scale := if p.kvFmt = 2 then e8m0 (ss.flatten.getD (y.2 / 32) 0) else some 0 } : Elem))
      .ok s (if p.ropeMode = 0 then x else p.rotateElems (e.qPos0 + row) x) (pq || ps)

/-- What the reads of several rows give: the status of a failure, or none where something must be awaited. -/
abbrev Reads (α : Type) := Except (State × Option Status) (State × α)

/-- The query rows of a unit. -/
def State.readQueries (s : State) (l : Nat) (p : AttnParams) (e : SeqEntry) (ans : HostAns) (ids : Nat × Nat) :
    List (Nat × Nat) → Reads (List QueryRow)
  | [] => .ok (s, [])
  | (row, head) :: r =>
    match s.readQuery l p e row head ans ids with
    | .fail s st d => .error (s, some (st, d))
    | .wait s' => .error (s', none)
    | .ok s' x poison =>
      match s'.readQueries l p e ans ids r with
      | .error f => .error f
      | .ok (s'', xs) => .ok (s'', { q := x, dO := [], lse := 0, delta := 0, poison := poison } :: xs)

/-- What a read of a page table entry gives: the page, or the status of R167 and R168. -/
inductive PageRead where
  | fail (s : State) (st d : Nat)
  | wait (s : State)
  | invalid (s : State)
  | ok (s : State) (page : Nat)

/-- The page of a token (R151). -/
def State.pageOf (s : State) (l : Nat) (e : SeqEntry) (j : Nat) (ans : HostAns) (ids : Nat × Nat) : PageRead :=
  match s.vread l (e.pageTable + 8 * (j / 256)) 8 permRead 3 ans ids with
  | .fail s st d => .fail s st d
  | .wait s' => .wait s'
  | .ok s' b p =>
    if anyPoison p then .fail s' 0x0303 3
    else if !bit (leNat b) 0 then .invalid s'
    else .ok s' (bits (leNat b) 12 45 * 4096)

/-- The sections of a page (R152): offsets of K, K scales, V, V scales. -/
def AttnParams.sections (p : AttnParams) : Nat × Nat × Nat × Nat :=
  let n := 256 * p.kvHeads * p.headDim
  match p.kvFmt with
  | 0 => (0, 0, 2 * n, 0)
  | 1 => (0, 0, n, 0)
  | _ => (0, n / 2, n / 2 + n / 32, n + n / 32)

/-- Width of a stored key or value element. -/
def AttnParams.kvBits (p : AttnParams) : Nat := if p.kvFmt = 0 then 16 else if p.kvFmt = 1 then 8 else 4

/-- A stored key or value element's value. -/
def AttnParams.kvVal (p : AttnParams) (code : Nat) : Val :=
  if p.kvFmt = 0 then decodeFmt .bf16 code else if p.kvFmt = 1 then decodeFmt .e4m3 code else decodeFmt .e2m1 code

/-- The key of a token (R144, R152). -/
def State.readKey (s : State) (l : Nat) (p : AttnParams) (e : SeqEntry) (page kvh j : Nat) (ans : HostAns) (ids : Nat × Nat) :
    VecRead :=
  let d := p.headDim
  let i := kvh * 256 + j % 256
  match s.readCodes l (page + p.sections.1 + i * d * p.kvBits / 8) p.kvBits d 15 ans ids with
  | .fail s st o => .fail s st o
  | .wait s' => .wait s'
  | .ok s rows pk =>
    let sc := if p.kvFmt = 2 then s.readCodes l (page + p.sections.2.1 + i * (d / 32)) 8 (d / 32) 15 ans ids else .ok s [] false
    match sc with
    | .fail s st o => .fail s st o
    | .wait s' => .wait s'
    | .ok s ss ps =>
      let x := (rows.flatten.zipIdx).map (fun y =>
        ({ v := p.kvVal y.1, scale := if p.kvFmt = 2 then e8m0 (ss.flatten.getD (y.2 / 32) 0) else some 0 } : Elem))
      .ok s (if p.ropeMode = 2 then p.rotateElems (e.kvPos0 + j) x else x) (pk || ps)

/-- The E8M0 scale of a block of values (R165): `none` for a block with NaN or an infinity. -/
def blockScale (xs : List Val) : Option Int :=
  if xs.any (fun v => match v with | .fin _ _ _ => false | _ => true) then none
  else
    match eMax xs with
    | none => some (-127)
    | some a => some (max (-127) (min 127 (a - 2)))

/-- An element quantised to E2M1 under a block scale: rne(x / scale), saturating (R165). -/
def quantE2m1 (x : Val) (k : Option Int) : Nat :=
  match x, k with
  | .fin neg m e, some k => (Fmt.e2m1.place neg (Fmt.e2m1.rneCode m (e - k))).code
  | _, _ => 0

/-- The values of one dimension of a block of 32 tokens, quantised (R153, R165). -/
def quantColumn (xs : List Val) : List Elem :=
  let k := blockScale xs
  xs.map (fun x => { v := decodeFmt .e2m1 (quantE2m1 x k), scale := k })

/-- The vectors of some tokens read one after the other. -/
def State.readTokens (s : State) (f : State → Nat → VecRead) : List Nat → Reads (List (List Elem) × Bool)
  | [] => .ok (s, [], false)
  | j :: r =>
    match f s j with
    | .fail s st d => .error (s, some (st, d))
    | .wait s' => .error (s', none)
    | .ok s' x p =>
      match s'.readTokens f r with
      | .error e => .error e
      | .ok (s'', xs, q) => .ok (s'', x :: xs, p || q)

/-- The value of a token as its page holds it (R152). -/
def State.readValue (s : State) (l : Nat) (p : AttnParams) (page kvh j : Nat) (ans : HostAns) (ids : Nat × Nat) : VecRead :=
  let d := p.headDim
  let i := kvh * 256 + j % 256
  match s.readCodes l (page + p.sections.2.2.1 + i * d * p.kvBits / 8) p.kvBits d 15 ans ids with
  | .fail s st o => .fail s st o
  | .wait s' => .wait s'
  | .ok s rows pv =>
    let at' := page + p.sections.2.2.2 + (kvh * 8 + j % 256 / 32) * d
    let sc := if p.kvFmt = 2 then s.readCodes l at' 8 d 15 ans ids else .ok s [] false
    match sc with
    | .fail s st o => .fail s st o
    | .wait s' => .wait s'
    | .ok s ss ps =>
      .ok s ((rows.flatten.zipIdx).map (fun y =>
        { v := p.kvVal y.1, scale := if p.kvFmt = 2 then e8m0 (ss.flatten.getD y.2 0) else some 0 })) (pv || ps)

/-- A token's row of `V_TAIL` (R153). -/
def State.readTail (s : State) (l : Nat) (p : AttnParams) (e : SeqEntry) (kvh j : Nat) (ans : HostAns) (ids : Nat × Nat) : VecRead :=
  let d := p.headDim
  match s.readCodes l (e.vTail + ((j % 32) * p.kvHeads + kvh) * d * 2) 16 d 13 ans ids with
  | .fail s st o => .fail s st o
  | .wait s' => .wait s'
  | .ok s rows q => .ok s (rows.flatten.map (fun c => { v := decodeFmt .bf16 c, scale := some 0 })) q

/-- The values of a key block's tokens below `KV_LEN`: from the page, and for `KV_FMT` 2 the open block quantised from
`V_TAIL` (R153). -/
def State.readValues (s : State) (l : Nat) (p : AttnParams) (e : SeqEntry) (page kvh b : Nat) (ans : HostAns) (ids : Nat × Nat) :
    Reads (List (List Elem) × Bool) :=
  let toks := (List.range 64).map (· + 64 * b) |>.filter (fun j => decide (j < e.kvLen))
  let openAt := if p.kvFmt = 2 then alignDown e.kvLen 32 else e.kvLen
  match s.readTokens (fun s j => s.readValue l p page kvh j ans ids) (toks.filter (fun j => decide (j < openAt))) with
  | .error f => .error f
  | .ok (s, xs, q) =>
    match s.readTokens (fun s j => s.readTail l p e kvh j ans ids) (toks.filter (fun j => decide (openAt ≤ j))) with
    | .error f => .error f
    | .ok (s, ys, q') =>
      let d := p.headDim
      let cols := (List.range d).map (fun c => quantColumn (ys.map (fun y => (y.getD c Elem.zero).val)))
      let ys' := (List.range ys.length).map (fun i => cols.map (fun col => col.getD i Elem.zero))
      .ok (s, xs ++ ys', q || q')

/-! ### Passes on the arrays (06, R140; 04, R87, R92 to R96; LOG 140) -/

/-- The arrays of a core while it computes a key block: those that are not suspect, and the passes that failed their proof, each with its
array and whether its recomputation failed too. -/
structure ArrayRun where
  left : List Nat
  failed : List (Nat × Bool)
  gated : Nat
  deriving DecidableEq, Repr

/-- One pass on array `at'`, recomputed there where it fails its proof `ok`, and then on the lowest array that is not suspect, under the same
rule (R95): the errors that stay in its sums. Each time it is run `zeros` products are gated (04, R86). -/
def ArrayRun.pass (x : ArrayRun) (errs : List AttnErr) (chunk pass at' zeros : Nat) (ok : List PassErr → Bool) : Nat → ArrayRun × Option (List PassErr)
  | 0 => (x, none)
  | fuel + 1 =>
    let of := fun (retry : Bool) =>
      (errs.filter (fun e => e.array == at' && e.chunk == chunk && e.pass == pass && e.retry == retry)).map (·.err)
    if ok (of false) then ({ x with gated := x.gated + zeros }, some (of false))
    else if ok (of true) then ({ x with failed := x.failed ++ [(at', false)], gated := x.gated + 2 * zeros }, some (of true))
    else
      let left := x.left.filter (· != at')
      let y : ArrayRun := { left := left, failed := x.failed ++ [(at', true)], gated := x.gated + 2 * zeros }
      match left with
      | [] => (y, none)
      | lo :: _ => y.pass errs chunk pass lo zeros ok fuel

/-- What the passes of one product share: their width, whether R120's window forms their sums, whether their elements have block scales,
whether a +0 of A gates its product (05, R130), and the proof tolerance. -/
structure PassForm where
  width : Nat
  wide : Bool
  scaled : Bool
  gated : Bool
  tol : Nat
  deriving DecidableEq, Repr

/-- The operands of pass `k` of a product: rows of A and rows of B. -/
def PassForm.ops (f : PassForm) (a b : List (List Elem)) (cols : Nat) (poison : Bool) : PassOps :=
  let blocks := fun (n : Nat) => List.range ((n + 31) / 32)
  { a := a.map (fun r => r.map (·.v)), b := b.map (fun r => r.map (·.v)),
    aScale := if f.scaled then a.map (fun r => (blocks r.length).map (fun i => (r.getD (32 * i) Elem.zero).scale)) else [],
    bScale := if f.scaled then (List.range cols).map (fun n =>
        (blocks b.length).map (fun i => ((b.getD (32 * i) []).getD n Elem.zero).scale)) else [],
    poison := poison, gated := f.gated }

/-- One pass of one tile accumulated (R90, R94); none where no array is left. -/
def PassForm.tilePass (f : PassForm) (x : ArrayRun) (errs : List AttnErr) (chunk pass : Nat) (a b : List (List Elem)) (cols : Nat) (poison : Bool)
    (acc : List (List Bits)) : ArrayRun × Option (List (List Bits)) :=
  let o := f.ops a b cols poison
  let r := x.pass errs chunk pass (x.left.getD (chunk % x.left.length) 0) (o.gatedProducts a.length cols b.length)
    (fun es => o.proofOk f.wide a.length cols b.length f.tol (o.errors b.length es)) x.left.length
  match r.2 with
  | none => (r.1, none)
  | some es =>
    (r.1, some (acc.zipIdx.map (fun row => row.1.zipIdx.map (fun y => fadd y.1 (o.sum f.wide (o.errors b.length es) row.2 y.2)))))

/-- The passes of one tile of 32 columns in order: the runs of k that `ks` lists by their places (R90). -/
def PassForm.tilePasses (f : PassForm) (x : ArrayRun) (errs : List AttnErr) (chunk pass : Nat) (a b : List (List Elem)) (cols : Nat)
    (poison : Bool) (acc : List (List Bits)) : List Nat → ArrayRun × Option (List (List Bits))
  | [] => (x, some acc)
  | k :: r =>
    let y := f.tilePass x errs chunk pass (a.map (fun row => (row.drop (f.width * k)).take f.width)) ((b.drop (f.width * k)).take f.width) cols poison acc
    match y.2 with
    | none => (y.1, none)
    | some acc' => f.tilePasses y.1 errs chunk (pass + 1) a b cols poison acc' r

/-- The tiles of one chunk of rows, 32 columns each, side by side. -/
def PassForm.tiles (f : PassForm) (x : ArrayRun) (errs : List AttnErr) (chunk pass : Nat) (a b : List (List Elem)) (poison : Bool)
    (start : List (List Bits)) : List Nat → ArrayRun × Option (List (List Bits))
  | [] => (x, some (a.map (fun _ => [])))
  | g :: r =>
    let bg := b.map (fun row => (row.drop (32 * g)).take 32)
    let sg := start.map (fun row => (row.drop (32 * g)).take 32)
    let cols := (sg.headD []).length
    let ks := List.range ((b.length + f.width - 1) / f.width)
    let y := f.tilePasses x errs chunk pass a bg cols poison sg ks
    match y.2 with
    | none => (y.1, none)
    | some t =>
      let z := f.tiles y.1 errs chunk (pass + ks.length) a b poison start r
      (z.1, z.2.map (fun rest => (t.zip rest).map (fun w => w.1 ++ w.2)))

/-- A product of rows of A with B added to what the accumulators hold, in chunks of 32 rows (R87, R90). -/
def PassForm.chunks (f : PassForm) (x : ArrayRun) (errs : List AttnErr) (chunk pass : Nat) (a b : List (List Elem)) (poison : Bool)
    (start : List (List Bits)) : Nat → ArrayRun × Option (List (List Bits))
  | 0 => (x, some [])
  | n + 1 =>
    let cols := (start.headD []).length
    let y := f.tiles x errs chunk pass (a.take 32) b poison (start.take 32) (List.range ((cols + 31) / 32))
    match y.2 with
    | none => (y.1, none)
    | some t =>
      let z := f.chunks y.1 errs (chunk + 1) pass (a.drop 32) b poison (start.drop 32) n
      (z.1, z.2.map (fun rest => t ++ rest))

/-- A whole product: rows of A by the k rows of B, from what the accumulators hold; `pass` numbers its first pass. -/
def PassForm.product (f : PassForm) (x : ArrayRun) (errs : List AttnErr) (pass : Nat) (a b : List (List Elem)) (poison : Bool)
    (start : List (List Bits)) : ArrayRun × Option (List (List Bits)) :=
  f.chunks x errs 0 pass a b poison start ((a.length + 31) / 32)

/-- Passes of one chunk of a product with `n` columns over `k`. -/
def PassForm.count (f : PassForm) (n k : Nat) : Nat := (n + 31) / 32 * ((k + f.width - 1) / f.width)

/-- Rows and columns of a block of elements exchanged. -/
def transposeElems (rows : List (List Elem)) (cols : Nat) : List (List Elem) :=
  (List.range cols).map (fun j => rows.map (fun r => r.getD j Elem.zero))

/-- Accumulators of +0. -/
def zeroRows (rows cols : Nat) : List (List Bits) := List.replicate rows (List.replicate cols 0)

/-! ### One key block of a row (06, R146; 05, R130 to R134) -/

/-- The start of a row (R146). -/
def RowState.start (d : Nat) : RowState := { m := infF32 true, l := 0, o := List.replicate d 0, poison := false }

/-- A NaN row (R132). -/
def RowState.nanRow (r : RowState) : RowState := { r with m := nanF32, l := nanF32, o := r.o.map (fun _ => nanF32) }

/-- A row as R132 and R133 take it: NaN throughout for a NaN maximum, +0 throughout for one of −infinity. -/
def RowState.settled (r : RowState) : RowState :=
  if isNaN r.m then r.nanRow
  else if r.m = infF32 true then { r with l := 0, o := r.o.map (fun _ => 0) } else r

/-- The maximum of a list of FP32 values, −infinity for none. -/
def maxOf (xs : List Bits) : Bits := xs.foldl (fun a x => if flt a x then x else a) (infF32 true)

/-- A converted probability (R134, R141). -/
def AttnParams.probVal (p : AttnParams) (x : Bits) : Val := decodeFmt p.passFmt (convert p.passFmt x).code

/-- A row at one computed key block: what the row is where the block's value passes do not touch it, or the probabilities and the scaled
accumulators that they start from. -/
structure RowStep where
  row : RowState
  fixed : Bool
  prob : List Val
  deriving DecidableEq, Repr

/-- A row before the value passes of a block with masked scores `t` (−infinity where not visible), by R146. -/
def AttnParams.rowStep (p : AttnParams) (r : RowState) (t : List Bits) : RowStep :=
  let none' := t.map (fun _ => Val.fin false 0 0)
  if isNaN r.m || t.any (fun x => isNaN x || x == infF32 false) then { row := r.nanRow, fixed := true, prob := none' }
  else
    let mb := maxOf t
    if mb = infF32 true then { row := r, fixed := true, prob := none' }
    else
      let mn := if flt r.m mb then mb else r.m
      let a := if r.m = infF32 true then 0 else expTwo (fsub r.m mn)
      let ps := t.map (fun x => if x = infF32 true then 0 else expTwo (fsub x mn))
      let l := (specialOf ((f32 (fmul r.l a)) :: ps.map f32)).getD
        (roundF32 ((f32 (fmul r.l a)).dy.add (exactSum (ps.map f32))))
      { row := { r with m := mn, l := l, o := r.o.map (fun x => fmul x a) }, fixed := false, prob := ps.map p.probVal }

/-- The passes of the scores and of the values of an operator (R141). -/
def AttnParams.form (p : AttnParams) (tol : Nat) (gated : Bool) : PassForm :=
  { width := p.passWidth, wide := p.kvFmt == 0, scaled := p.kvFmt == 2, gated := gated, tol := tol }

/-- Score tiles (R142), masked under R143. -/
def AttnParams.maskedScores (p : AttnParams) (e : SeqEntry) (mask : Tab (Nat × List Byte × List Bool)) (rows : List (Nat × Nat)) (b : Nat)
    (raw : List (List Bits)) : List (List Bits) :=
  (rows.zip raw).map (fun x => x.2.zipIdx.map (fun k => if p.visible e mask x.1.1 (64 * b + k.2) then fmul k.1 p.sigma else infF32 true))

/-- What one key block of a unit computes: its rows, and for a backward unit the contributions to DV and DK by key; nothing where no array is
left. -/
structure BlockSums where
  rows : List RowState
  dv : List (List Bits)
  dk : List (List Bits)
  deriving DecidableEq, Repr

/-- One forward key block of a unit's rows (R146). -/
def AttnParams.fwdBlock (p : AttnParams) (tol : Nat) (run : ArrayRun) (errs : List AttnErr) (rows : List RowState) (qs : List QueryRow)
    (ks vs : List (List Elem)) (pk pv : Bool) (masked : List (List Bits) → List (List Bits)) : ArrayRun × Option BlockSums :=
  let d := p.headDim
  let f := p.form tol false
  let sc := f.product run errs 0 (qs.map (·.q)) (transposeElems ks d) (pk || qs.any (·.poison)) (zeroRows qs.length ks.length)
  match sc.2 with
  | none => (sc.1, none)
  | some raw =>
    let steps := (rows.zip (masked raw)).map (fun x => p.rowStep x.1 x.2)
    let pr := steps.map (fun x => x.prob.map (fun v => ({ v := v, scale := some 0 } : Elem)))
    let o := (p.form tol true).product sc.1 errs (f.count ks.length d) pr vs pv (steps.map (·.row.o))
    match o.2 with
    | none => (o.1, none)
    | some os =>
      (o.1, some { rows := (steps.zip os).map (fun x => if x.1.fixed then x.1.row else { x.1.row with o := x.2 }), dv := [], dk := [] })

/-! ### Backward (06, R163, R164) -/

/-- A sum of BF16 or FP16 passes in order (R120). -/
def widePasses (ps : List Val) : Bits := accumulateFrom passWindow 32 0 ps

/-- An FP32 value converted to BF16 as a pass operand. -/
def asBf16 (x : Bits) : Val := decodeFmt .bf16 (convert .bf16 x).code

/-- `O_FMT` 0 or 1 as a format. -/
def oFmtOf (f : Nat) : Fmt := if f = 0 then .bf16 else if f = 1 then .fp16 else .fp32

/-- The rows of a backward unit read: Q, DO, O, LSE. -/
def State.readBwdRow (s : State) (l : Nat) (p : AttnParams) (e : SeqEntry) (row head : Nat) (ans : HostAns) (ids : Nat × Nat) :
    Reads QueryRow :=
  let d := p.headDim
  let i := row * p.qHeads + head
  match s.readQuery l p e row head ans ids with
  | .fail s st o => .error (s, some (st, o))
  | .wait s' => .error (s', none)
  | .ok s q pq =>
    match (s.readCodes l (e.dO + i * d * 2) 16 d 5 ans ids).andThen (fun s g pg =>
      (s.readCodes l (e.o + i * d * 2) 16 d 2 ans ids).andThen (fun s o po =>
        (s.readCodes l (e.lse + i * 4) 32 1 4 ans ids).andThen (fun s x px => .ok s [g.flatten, o.flatten, x.flatten] (pg || po || px)))) with
    | .fail s st o => .error (s, some (st, o))
    | .wait s' => .error (s', none)
    | .ok s rows pr =>
      let f := oFmtOf p.oFmt
      let g := (rows.getD 0 []).map (decodeFmt f)
      let o := (rows.getD 1 []).map (decodeFmt f)
      .ok (s, { q := q, dO := g, lse := (rows.getD 2 []).headD 0, delta := widePasses ((g.zip o).map (fun x => x.1.mul x.2)),
                poison := pq || pr })

/-- The rows of a backward unit. -/
def State.readBwdRows (s : State) (l : Nat) (p : AttnParams) (e : SeqEntry) (ans : HostAns) (ids : Nat × Nat) :
    List (Nat × Nat) → Reads (List QueryRow)
  | [] => .ok (s, [])
  | (row, head) :: r =>
    match s.readBwdRow l p e row head ans ids with
    | .error f => .error f
    | .ok (s', x) =>
      match s'.readBwdRows l p e ans ids r with
      | .error f => .error f
      | .ok (s'', xs) => .ok (s'', x :: xs)

/-- The passes of the backward products, of the 16-bit class (R163). -/
def bwdForm (tol : Nat) (gated : Bool) : PassForm := { width := 32, wide := true, scaled := false, gated := gated, tol := tol }

/-- Exact values as unscaled elements. -/
def asElems (xs : List Val) : List Elem := xs.map (fun v => { v := v, scale := some 0 })

/-- One backward key block of a unit's rows (R163). A row whose `LSE` is −infinity contributes nothing (R164). -/
def AttnParams.bwdBlock (p : AttnParams) (tol : Nat) (run : ArrayRun) (errs : List AttnErr) (rows : List RowState) (qs : List QueryRow)
    (ks vs : List (List Elem)) (pk pv : Bool) (masked : List (List Bits) → List (List Bits)) : ArrayRun × Option BlockSums :=
  let d := p.headDim
  let nk := ks.length
  let nr := qs.length
  let f := bwdForm tol false
  let g := bwdForm tol true
  let pq := qs.any (·.poison)
  let live := fun (q : QueryRow) => q.lse != infF32 true
  let dOs := qs.map (fun q => asElems (if live q then q.dO else q.dO.map (fun _ => .fin false 0 0)))
  let qv := qs.map (fun q => if live q then q.q else q.q.map (fun _ => Elem.zero))
  let sc := f.product run errs 0 (qs.map (·.q)) (transposeElems ks d) (pk || pq) (zeroRows nr nk)
  match sc.2 with
  | none => (sc.1, none)
  | some raw =>
    let t := masked raw
    let pr := (qs.zip t).map (fun x => x.2.map (fun y => if !live x.1 ∨ y = infF32 true then 0 else expTwo (fsub y x.1.lse)))
    let n1 := f.count nk d
    let dv := g.product sc.1 errs n1 (transposeElems (pr.map (fun r => asElems (r.map asBf16))) nk) dOs pq (zeroRows nk d)
    match dv.2 with
    | none => (dv.1, none)
    | some dvs =>
      let n2 := n1 + f.count d nr
      let dp := f.product dv.1 errs n2 dOs (transposeElems vs d) (pv || pq) (zeroRows nr nk)
      match dp.2 with
      | none => (dp.1, none)
      | some dps =>
        let n3 := n2 + f.count nk d
        let ds := (qs.zip (pr.zip dps)).map (fun x =>
          (x.2.1.zip x.2.2).map (fun y => if live x.1 then fmul y.1 (fsub y.2 x.1.delta) else 0))
        let dse := ds.map (fun r => asElems (r.map asBf16))
        let dq := f.product dp.1 errs n3 dse ks (pk || pq) (rows.map (·.o))
        match dq.2 with
        | none => (dq.1, none)
        | some dqs =>
          let n4 := n3 + f.count d nk
          let dk := f.product dq.1 errs n4 (transposeElems dse nk) qv pq (zeroRows nk d)
          match dk.2 with
          | none => (dk.1, none)
          | some dks =>
            (dk.1, some { rows := (rows.zip (qs.zip dqs)).map (fun x => { x.1 with m := x.2.1.lse, o := x.2.2 }), dv := dvs,
                          dk := dks.map (fun r => r.map (fun x => fmul x p.scale)) })

/-- FP32 contributions pushed to a row of DK or DV (R163): 0x0301 outside a region of FP32 elements. The flag says that a push set an
`OUT_OF_WINDOW` flag (R169). -/
def State.pushRow (s : State) (c : Cmd) (va operand : Nat) (poison : Bool) : List Bits → Except (State × Status) (State × Bool)
  | [] => .ok (s, false)
  | x :: r =>
    match (s.lod c.lod).mapping? va, s.trans c.lod va permWrite with
    | some m, .ok pa =>
      match m.region, m.reduction with
      | some d, some g =>
        if g.op = .addF32 ∨ g.op = .minF32 ∨ g.op = .maxF32 then
          let y := s.contribute c.lod pa g d x poison c.ids
          match y.1.pushRow c (va + 4) operand poison r with
          | .error f => .error f
          | .ok (s', o) => .ok (s', y.2 || o)
        else .error (s, (0x0301, operand))
      | _, _ => .error (s, (0x0301, operand))
    | _, _ => .error (s, (0x0301, operand))

/-- The rows of a block pushed. -/
def State.pushRows (s : State) (c : Cmd) (base stride operand : Nat) (poison : Bool) :
    List (Nat × List Bits) → Except (State × Status) (State × Bool)
  | [] => .ok (s, false)
  | (j, x) :: r =>
    match s.pushRow c (base + stride * j) operand poison x with
    | .error f => .error f
    | .ok (s', o) =>
      match s'.pushRows c base stride operand poison r with
      | .error f => .error f
      | .ok (s'', o') => .ok (s'', o || o')

/-! ### Units on cores -/

/-- An attention operator of the state. -/
def State.attn? (s : State) (id : Nat) : Option AttnOp := s.attns.find? (fun m => m.cmd == id)

/-- An attention operator changed. -/
def State.modAttn (s : State) (id : Nat) (f : AttnOp → AttnOp) : State :=
  { s with attns := s.attns.map (fun m => if m.cmd == id then f m else m) }

/-- Rows an operator writes. -/
def AttnOp.rowCount (m : AttnOp) : Nat :=
  ((m.seqs.filter (fun e => !e.skipped)).map (fun e => e.qLen * m.par.qHeads)).sum

/-- Key blocks computed up to now: those of the units that ended or were given up, and of the running ones (R169). -/
def State.attnWork (s : State) (m : AttnOp) : Nat :=
  m.work + ((s.cores.map (fun c => match c.2.run with | .attn u => if u.key.cmd = m.cmd then u.next else 0 | _ => 0))).sum

/-- The failures that concern single sequences, noted as their command ends: a poisoned entry, an invalid page table entry (R160, R167). -/
def State.noteSequences (s : State) (m : AttnOp) : State :=
  let s := if m.seqs.any (·.skipped) then s.failCmd m.cmd 0x0303 2 else s
  if m.dropped.isEmpty then s else s.failCmd m.cmd 0x0300 15

/-- An attention operator whose rows are all written ends (R169). -/
def State.finishAttn (s : State) (id : Nat) : State :=
  match s.attn? id with
  | none => s
  | some m =>
    if m.written.length = m.rowCount then
      let s := if m.satTiles.isEmpty then s else s.noticeCmd id 0x0105 (sat16 m.satTiles.length)
      (s.noteSequences m).finish id m.work
    else s

/-- An attention operator whose command failed ends once no unit of it runs. -/
def State.endFailedAttn (s : State) (id : Nat) : State :=
  if s.opLive id || s.cores.any (fun c => match c.2.run with | .attn u => u.key.cmd == id | _ => false) then s
  else match s.attn? id with | some m => (s.noteSequences m).finish id m.work | none => s.endCmd id

/-- A unit given up by a command or a sequence that will not run it again: the key blocks it computed count (R169). -/
def State.giveUpAttn (s : State) (cmd col : Nat) : State :=
  match (s.core col).run with
  | .attn u => if u.key.cmd = cmd then (s.modAttn cmd (fun m => { m with work := m.work + u.next })).setRun col .idle else s
  | _ => s

/-- A sequence whose page table failed it: its units are given up and none of its rows is written from then on, while other sequences run
(R167). -/
def State.dropSequence (s : State) (id seq : Nat) : State :=
  let cols := (s.cores.filter (fun c => match c.2.run with | .attn u => u.key.cmd == id && u.key.entry == seq | _ => false)).map (·.1)
  let s := cols.foldl (fun s col => s.giveUpAttn id col) s
  s.modAttn id (fun m =>
    let e := m.seqs[seq]?
    let n := match e with | some e => e.qLen | none => 0
    let rows := ((List.range n).map (fun r => (List.range m.par.qHeads).map (fun h => (seq, r, h)))).flatten
    { m with written := m.written.filter (fun w => w.1 != seq) ++ rows, dropped := insertNew m.dropped seq })

/-- A unit that has computed its split leaves its core; its rows' states wait for their merge. -/
def State.attnUnitDone (s : State) (col : Nat) : State :=
  match (s.core col).run with
  | .attn u =>
    match s.attn? u.key.cmd, u.plan with
    | none, _ => s.setRun col .idle
    | some m, some plan =>
      match m.seqs[u.key.entry]? with
      | none => s.setRun col .idle
      | some e =>
        if u.next < plan.length then s
        else
          let rows := ((m.par.rowsOf e u.key.mb u.key.nb).zip u.rows).map (fun x =>
            ({ seq := u.key.entry, row := x.1.1, head := x.1.2, split := u.key.seg, st := x.2 } : RowPart))
          let s := (s.setRun col .idle).touchDomain (clusterOf col)
          s.modAttn u.key.cmd (fun m =>
            { m with rows := m.rows ++ rows, endedUnits := m.endedUnits ++ [u.key], work := m.work + u.next })
    | some _, none => s
  | _ => s

/-- Whether an attention unit runs or has ended. -/
def State.attnTaken (s : State) (m : AttnOp) (key : UnitKey) : Bool :=
  m.endedUnits.contains key || s.cores.any (fun c => match c.2.run with | .attn u => u.key == key | _ => false)

/-- An attention unit handed to a column's core (R140, R87). -/
def State.dispatchAttn (s : State) (m : AttnOp) (e : SeqEntry) (key : UnitKey) (col : Nat) : State :=
  let d := clusterOf col
  let rows := m.par.rowsOf e key.mb key.nb
  if s.attnTaken m key || !s.unitRoom m.lod col || !s.placementOk m.lod col || rows.isEmpty
      || decide (key.nb ≥ m.par.unitHeads ∨ key.seg ≥ m.par.splits) || m.par.phase == 2 || m.par.opcode == 0x0204 then s
  else if (s.domain d).state ≠ .on then s.requestWake d
  else
    let tol := if m.par.tolExp = 0 then s.mxaTol.get (stackOf col) 20 else m.par.tolExp
    let u : AttnUnit := { key := key, tol := tol, plan := none, mask := [], queries := [], pages := [], next := 0,
                          rows := rows.map (fun _ => RowState.start m.par.headDim) }
    ((s.noteColumn m.cmd col).setRun col (.attn u)).touchDomain d

/-- A unit before its first key block: its mask rows and its query rows are read, and the key blocks of its split are known; a row takes the
poison of its own operands (R147, R156, R159, R168). -/
def State.planUnit (s : State) (m : AttnOp) (e : SeqEntry) (u : AttnUnit) (ans : HostAns) : Reads AttnUnit :=
  let p := m.par
  let ids := s.idsOf m.cmd
  let rows := p.rowsOf e u.key.mb u.key.nb
  match (if p.block then s.readMaskRows m.lod p e rows ans ids [] (maskRowsOf e rows) else .ok (s, [])) with
  | .error f => .error f
  | .ok (s, mask) =>
    match (if p.opcode = 0x0202 then s.readBwdRows m.lod p e ans ids rows else s.readQueries m.lod p e ans ids rows) with
    | .error f => .error f
    | .ok (s, qs) =>
      .ok (s, { u with plan := some (splitBlocks (p.keyBlocks e mask rows) p.splits u.key.seg), mask := mask, queries := qs,
                       rows := (u.rows.zip qs).map (fun x => { x.1 with poison := x.2.poison }) })

/-- The page of a key block of a unit: each page table entry is read once in the unit (R155). -/
def State.unitPage (s : State) (m : AttnOp) (e : SeqEntry) (u : AttnUnit) (b : Nat) (ans : HostAns) : PageRead :=
  match u.pages.find? (fun x => x.1 == b / 4) with
  | some x => .ok s x.2
  | none => s.pageOf m.lod e (64 * b) ans (s.idsOf m.cmd)

/-- What a key block of a unit reads and computes: its keys and values, the passes on the arrays, and each row's state. -/
def State.blockSums (s : State) (m : AttnOp) (e : SeqEntry) (u : AttnUnit) (page b col : Nat) (errs : List AttnErr) (ans : HostAns) :
    Reads (List Nat × Bool × ArrayRun × Option BlockSums) :=
  let p := m.par
  let ids := s.idsOf m.cmd
  let kvh := p.kvHead u.key.nb
  let rows := p.rowsOf e u.key.mb u.key.nb
  let toks := ((List.range 64).map (· + 64 * b)).filter (fun j => decide (j < e.kvLen))
  match s.readTokens (fun s j => s.readKey m.lod p e page kvh j ans ids) toks with
  | .error f => .error f
  | .ok (s, ks, pk) =>
    match s.readValues m.lod p e page kvh b ans ids with
    | .error f => .error f
    | .ok (s, vs, pv) =>
      let run : ArrayRun := { left := s.arrays col, failed := [], gated := 0 }
      let masked := p.maskedScores e u.mask rows b
      .ok (s, toks, pk || pv || p.maskPoison e u.mask rows b,
        if p.opcode = 0x0202 then p.bwdBlock u.tol run errs u.rows u.queries ks vs pk pv masked
        else p.fwdBlock u.tol run errs u.rows u.queries ks vs pk pv masked)

/-- The contributions of a backward block pushed to DV and DK, those of DK rotated back (R163). -/
def State.pushBlock (s : State) (m : AttnOp) (c : Cmd) (e : SeqEntry) (kvh : Nat) (toks : List Nat) (x : BlockSums) (poison : Bool) :
    Except (State × Status) State :=
  let p := m.par
  let rot := fun (j : Nat) (y : List Bits) => if p.ropeMode = 2 then p.rotate (e.kvPos0 + j) true y else y
  let stride := 4 * p.kvHeads * p.headDim
  let off := 4 * kvh * p.headDim
  match s.pushRows c (e.dv + off) stride 8 poison (toks.zip x.dv) with
  | .error f => .error f
  | .ok (s, o1) =>
    match s.pushRows c (e.dk + off) stride 7 poison ((toks.zip x.dk).map (fun y => (y.1, rot y.1 y.2))) with
    | .error f => .error f
    | .ok (s, o2) => .ok (if o1 || o2 then s.noticeCmd m.cmd 0x0104 0 else s)

/-- What passes that failed their proof leave: retries counted, arrays suspect, notices (R140, R95). -/
def State.attnProof (s : State) (col cmd : Nat) (failed : List (Nat × Bool)) : State :=
  let k := stackOf col
  let ids := s.idsOf cmd
  failed.foldl (fun s f =>
    let s := { s with mxaRetries := s.mxaRetries.incr k 1 }
    let s := (s.log (s.physCore col) 0x02 f.1 ids.1 ids.2).countPass col 0x011 cmd
    if f.2 then
      let s := s.modCore col (fun c => { c with suspect := c.suspect ||| 2 ^ f.1 })
      let s := { s with mxaSuspected := s.mxaSuspected.incr k 1 }
      let s := s.log (s.physCore col) 0x03 f.1 ids.1 ids.2
      (s.modCmd cmd (fun c => c.suspectNotice (arrayDetail col f.1))).askCore col
    else s.modCmd cmd (fun c => c.retryNotice (arrayDetail col f.1))) s

/-- An operator's command fails at a column's unit: the unit is given up. -/
def State.failUnit (s : State) (cmd col : Nat) (f : Status) : State :=
  ((s.failCmd cmd f.1 f.2).giveUpAttn cmd col).endFailedAttn cmd

/-- How many key blocks of a backward unit have pushed their contributions (R170). -/
def AttnOp.pushedOf (m : AttnOp) (key : UnitKey) : Nat :=
  match m.pushed.find? (fun x => x.1 == key) with
  | some x => x.2
  | none => 0

/-- A computed key block taken up by its unit: pushes made once for each block, however often the unit runs (R163, R170). -/
def State.takeBlock (s : State) (m : AttnOp) (c : Cmd) (e : SeqEntry) (u : AttnUnit) (col : Nat) (toks : List Nat) (all : Bool)
    (x : BlockSums) : State :=
  let rows := (x.rows.zip u.queries).map (fun y => { y.1 with poison := y.1.poison || all })
  let done := fun (s : State) =>
    let s := s.setRun col (.attn { u with next := u.next + 1, rows := rows })
    ((s.countPass col 0x020 m.cmd).attnUnitDone col).endFailedAttn m.cmd
  if m.par.opcode = 0x0202 ∧ m.pushedOf u.key ≤ u.next then
    match s.pushBlock m c e (m.par.kvHead u.key.nb) toks x (all || u.queries.any (·.poison)) with
    | .error (s', f) => s'.failUnit m.cmd col f
    | .ok s' =>
      done (s'.modAttn m.cmd (fun m => { m with pushed := m.pushed.filter (fun x => x.1 != u.key) ++ [(u.key, u.next + 1)] }))
  else done s

/-- The key block `b` of a unit on a column. -/
def State.keyBlock (s : State) (m : AttnOp) (c : Cmd) (e : SeqEntry) (u : AttnUnit) (b col : Nat) (errs : List AttnErr) (ans : HostAns) : State :=
  match s.unitPage m e u b ans with
  | .fail s st d => s.failUnit m.cmd col (st, d)
  | .wait s => s
  | .invalid s => (s.dropSequence m.cmd u.key.entry).finishAttn m.cmd
  | .ok s page =>
    let u := { u with pages := u.pages.set (b / 4) page }
    let s := s.setRun col (.attn u)
    match s.blockSums m e u page b col errs ans with
    | .error (s, none) => s
    | .error (s, some f) => s.failUnit m.cmd col f
    | .ok (s, toks, all, run, sums) =>
      let s := (s.attnProof col m.cmd run.failed).countEvents col 0x012 m.cmd run.gated
      match sums with
      | none => s.setRun col .idle
      | some x => s.takeBlock m c e u col toks all x

/-- The key blocks that no row of a unit sees, counted where the unit's key blocks become known; of a unit with splits at its first (R147;
19, R424). -/
def State.countSkipped (s : State) (m : AttnOp) (e : SeqEntry) (u : AttnUnit) (col : Nat) : State :=
  if u.key.seg = 0 then
    s.countEvents col 0x021 m.cmd ((e.kvLen + 63) / 64 - (m.par.keyBlocks e u.mask (m.par.rowsOf e u.key.mb u.key.nb)).length)
  else s

/-- `ATTENTION_KEY_BLOCK`: the unit on a column reads its rows and masks where it has not yet, and computes the next key block of its split
(R146, R163, R169). -/
def execAttentionKeyBlock (col : Nat) (errs : List AttnErr) (ans : HostAns) (s : State) : Host.Outcome State Fault Refusal :=
  match (s.core col).run with
  | .attn u =>
    match s.attn? u.key.cmd, s.cmd? u.key.cmd with
    | some m, some c =>
      match m.seqs[u.key.entry]? with
      | none => .next s
      | some e =>
        let known := u.plan.isSome
        match (match u.plan with | some _ => (.ok (s, u) : Reads AttnUnit) | none => s.planUnit m e u ans) with
        | .error (s, none) => .next s
        | .error (s, some f) => .next (s.failUnit m.cmd col f)
        | .ok (s, u) =>
          let s := if known then s else s.countSkipped m e u col
          let s := s.setRun col (.attn u)
          match (u.plan.getD [])[u.next]? with
          | none => .next ((s.attnUnitDone col).endFailedAttn m.cmd)
          | some b => .next (s.keyBlock m c e u b col errs ans)
    | _, _ => .next s
  | _ => .next s

/-! ### Merges and output (06, R148, R149, R161; 05, R131 to R133) -/

/-- Two states of a row merged (R148, R132, R133). -/
def mergeRows (a b : RowState) : RowState :=
  let p := a.poison || b.poison
  if isNaN a.m ∨ isNaN b.m then { a.nanRow with poison := p }
  else if b.m = infF32 true then { a with poison := p }
  else if a.m = infF32 true then { b with poison := p }
  else
    let m := if flt a.m b.m then b.m else a.m
    let wa := expTwo (fsub a.m m)
    let wb := expTwo (fsub b.m m)
    { m := m, l := fadd (fmul a.l wa) (fmul b.l wb), o := (a.o.zip b.o).map (fun x => fadd (fmul x.1 wa) (fmul x.2 wb)), poison := p }

/-- The log-sum-exp of a row: rne(m + log2(l)), rounded once (R149, LOG 138). -/
def RowState.lseOf (r : RowState) : Bits :=
  match f32 r.m, f32 r.l with
  | .nan, _ => nanF32
  | _, .nan => nanF32
  | .inf neg, _ => infF32 neg
  | _, .inf _ => infF32 false
  | m, _ => if isZero r.l then infF32 true else roundF32 (m.dy.add (log2Dy r.l))

/-- The finished elements of a row (R149, R131, R132). -/
def AttnParams.outRowF32 (p : AttnParams) (r : RowState) : List Bits :=
  if isNaN r.m then r.o.map (fun _ => nanF32)
  else if isZero r.l then r.o.map (fun _ => 0)
  else r.o.map (fun x => fmul (fdiv x r.l) (if p.kvFmt = 1 then p.vScale else oneF32))

/-- A row converted to `O_FMT`, and which elements its conversion saturated. -/
def AttnParams.outCodes (p : AttnParams) (xs : List Bits) : List Byte × List Bool :=
  if p.oFmt = 2 then ((xs.map (leBytes 4)).flatten, [])
  else
    let cs := xs.map (convert (oFmtOf p.oFmt))
    ((cs.map (fun c => leBytes 2 c.code)).flatten, cs.map (·.sat))

/-- Bytes of a partial record (R161). -/
def AttnParams.recordBytes (p : AttnParams) : Nat := 32 * ((8 + 4 * p.headDim + 31) / 32)

/-- A partial record. -/
def AttnParams.record (p : AttnParams) (r : RowState) : List Byte :=
  slice (leBytes 4 r.m ++ leBytes 4 r.l ++ (r.o.map (leBytes 4)).flatten) 0 p.recordBytes

/-- A row's partial records read in buffer order and merged (R161 `PHASE` 2). -/
def State.readPartials (s : State) (l : Nat) (p : AttnParams) (e : SeqEntry) (row head : Nat) (ans : HostAns) (ids : Nat × Nat)
    (acc : Option RowState) (b : Nat) : Nat → Except (State × Option Status) (State × RowState)
  | 0 => .ok (s, acc.getD (RowState.start p.headDim))
  | n + 1 =>
    let va := e.partials + (b * e.qLen * p.qHeads + row * p.qHeads + head) * p.recordBytes
    match s.vread l va p.recordBytes permRead 9 ans ids with
    | .fail s st d => .error (s, some (st, d))
    | .wait s' => .error (s', none)
    | .ok s' x q =>
      let r : RowState := { m := field x 0 4, l := field x 4 4, o := (List.range p.headDim).map (fun i => field x (8 + 4 * i) 4),
                            poison := anyPoison q }
      s'.readPartials l p e row head ans ids (some (match acc with | none => r.settled | some a => mergeRows a r.settled)) (b + 1) n

/-- The states of a row's splits in split order, where every split has ended. -/
def AttnOp.splitsOf (m : AttnOp) (seq row head : Nat) : Option (List RowState) :=
  (List.range m.par.splits).foldr (fun sp acc =>
    match acc, m.rows.find? (fun r => r.seq == seq && r.row == row && r.head == head && r.split == sp) with
    | some r, some p => some (p.st :: r)
    | _, _ => none) (some [])

/-- What a finished row writes: virtual address, operand, bytes; and which of its elements were saturated. -/
def AttnParams.rowWrites (p : AttnParams) (e : SeqEntry) (row head : Nat) (r : RowState) : List (Nat × Nat × List Byte) × List Bool :=
  let i := row * p.qHeads + head
  if p.opcode = 0x0202 then
    let x := r.o.map (fun y => fmul y p.scale)
    let x := if p.ropeMode = 2 then p.rotate (e.qPos0 + row) true x else x
    let x := if r.m = infF32 true then x.map (fun _ => 0) else x
    ([(e.dq + i * p.headDim * 4, 6, (x.map (leBytes 4)).flatten)], [])
  else if p.phase = 1 then ([(e.partials + i * p.recordBytes, 9, p.record r)], [])
  else
    let o := p.outCodes (p.outRowF32 r)
    let w := if p.oFmt = 2 then 4 else 2
    ((e.o + i * p.headDim * w, 2, o.1) :: (if p.lseEn then [(e.lse + i * 4, 4, leBytes 4 r.lseOf)] else []), o.2)

/-- The columns of 32 elements in which some element was saturated. -/
def satColumns (sat : List Bool) : List Nat := (List.range ((sat.length + 31) / 32)).filter (fun c => ((sat.drop (32 * c)).take 32).any id)

/-- The output tiles of a row that its conversion saturated (05, R127; LOG 141). -/
def AttnParams.rowTiles (p : AttnParams) (e : SeqEntry) (seq row head : Nat) (sat : List Bool) : List (Nat × Nat × Nat × Nat) :=
  let x := if p.packed then head % p.group * e.qLen + row else row
  (satColumns sat).map (fun c => (seq, if p.packed then head / p.group else head, x / 32, c))

/-- A list of writes of one row. -/
def State.writeRow (s : State) (l cmd : Nat) (poison : Bool) (ids : Nat × Nat) (acks : Nat) : List (Nat × Nat × List Byte) → VWrite
  | [] => .ok s acks
  | (va, operand, b) :: r =>
    match s.vwrite l va operand b poison (some cmd) ids with
    | .ok s' k => s'.writeRow l cmd poison ids (acks + k) r
    | x => x

/-- The DQ of a row's splits added in split order, with the `LSE` of those that computed a block (R163). -/
def addSplits (xs : List RowState) : Option RowState :=
  match xs with
  | [] => none
  | x :: r => some (r.foldl (fun a b =>
      { a with m := if a.m = infF32 true then b.m else a.m, o := zipBits fadd a.o b.o, poison := a.poison || b.poison }) x)

/-- A row's splits merged in ascending order (R148). -/
def mergeSplits (xs : List RowState) : Option RowState :=
  match xs with
  | [] => none
  | x :: r => some (r.foldl mergeRows x)

/-- The elements of a written row noted for a digest: O, or DQ of `ATTENTION_BWD` (19, R427). -/
def State.noteRow (s : State) (m : AttnOp) (e : SeqEntry) (seq row head : Nat) (r : RowState) : State :=
  if !s.wantsDigest m.cmd then s
  else
    match (m.par.rowWrites e row head r).1 with
    | [] => s
    | (va, _, b) :: _ =>
      let w := if m.par.opcode = 0x0202 ∨ m.par.oFmt = 2 then 4 else 2
      let before := ((m.seqs.take seq).map (fun x => x.qLen * m.par.qHeads * m.par.headDim)).sum
      let codes := (List.range m.par.headDim).map (fun i => field b (w * i) w)
      let first := before + (row * m.par.qHeads + head) * m.par.headDim
      s.modAttn m.cmd (fun (m : AttnOp) => { m with elems := s.digestElems m.lod va w r.poison first codes m.elems })

/-- A row written and counted. -/
def State.finishRow (s : State) (m : AttnOp) (e : SeqEntry) (seq row head : Nat) (r : RowState) (work : Nat) : State :=
  let w := m.par.rowWrites e row head r
  match s.writeRow m.lod m.cmd r.poison (s.idsOf m.cmd) 0 w.1 with
  | .fail st d => (s.failCmd m.cmd st d).endFailedAttn m.cmd
  | .wait => s
  | .ok s k =>
    let s := s.modAttn m.cmd (fun m =>
      { m with rows := m.rows.filter (fun x => !(x.seq == seq && x.row == row && x.head == head)),
               written := m.written ++ [(seq, row, head)],
               satTiles := (m.par.rowTiles e seq row head w.2).foldl insertNew m.satTiles, work := m.work + work })
    let s := s.noteRow m e seq row head r
    (s.modCmd m.cmd (fun c => { c with acks := c.acks + k })).finishAttn m.cmd

/-- `SPLIT_MERGE`: the splits of a row merged in order and the row written (R148, R149, R161, R163). -/
def execSplitMerge (cmd seq row head : Nat) (ans : HostAns) (s : State) : Host.Outcome State Fault Refusal :=
  match s.attn? cmd with
  | none => .next s
  | some m =>
    match m.seqs[seq]? with
    | none => .next s
    | some e =>
      if !s.opLive cmd || m.par.opcode == 0x0204 || m.written.contains (seq, row, head) || e.skipped || decide (row ≥ e.qLen ∨ head ≥ m.par.qHeads) then .next s
      else if m.par.phase = 2 then
        match s.readPartials m.lod m.par e row head ans (s.idsOf cmd) none 0 m.par.numPartials with
        | .error (s', none) => .next s'
        | .error (s', some f) => .next ((s'.failCmd cmd f.1 f.2).endFailedAttn cmd)
        | .ok (s', r) => .next (s'.finishRow m e seq row head r m.par.numPartials)
      else
        match m.splitsOf seq row head with
        | none => .next s
        | some xs =>
          match (if m.par.opcode = 0x0202 then addSplits xs else mergeSplits xs) with
          | none => .next s
          | some r => .next (s.finishRow m e seq row head r 0)

/-! ### `KV_APPEND` (06, R165, R166) -/

/-- An append's writes: virtual address, operand, bytes. -/
abbrev Writes := List (Nat × Nat × List Byte)

/-- Two nibble codes to a byte, low first. -/
def nibbles : List Nat → List Byte
  | a :: b :: r => BitVec.ofNat 8 (a + 16 * b) :: nibbles r
  | [a] => [BitVec.ofNat 8 a]
  | [] => []

/-- A scale as an E8M0 byte. -/
def scaleByte (k : Option Int) : Byte := match k with | none => 0xFF | some e => BitVec.ofNat 8 (e + 127).toNat

/-- A key vector quantised in blocks of 32 along the head dimension (R165). -/
def quantRow (xs : List Val) : List Nat × List Byte :=
  let bs := runsOf 32 xs
  ((bs.map (fun b => b.map (fun x => quantE2m1 x (blockScale b)))).flatten, bs.map (fun b => scaleByte (blockScale b)))

/-- The writes of one token's key of one head, and which elements a conversion saturated (R165, R144). -/
def AttnParams.keyWrites (p : AttnParams) (e : SeqEntry) (page kvh j : Nat) (x : List Bits) : Writes × List Bool :=
  let d := p.headDim
  let i := kvh * 256 + j % 256
  let turned := if p.ropeMode = 1 then (p.rotate (e.kvPos0 + j) false x).zipIdx.map (fun y =>
      if y.2 < p.rotDim then convert .bf16 y.1 else { code := y.1 / 2 ^ 16, sat := false }) else x.map (fun y => { code := y / 2 ^ 16, sat := false })
  let x := turned.map (fun c => bf16ToF32 c.code)
  let sat := turned.map (·.sat)
  match p.kvFmt with
  | 0 => ([(page + i * d * 2, 15, (turned.map (fun c => leBytes 2 c.code)).flatten)], sat)
  | 1 =>
    let cs := x.map (fun y => convert .e4m3 (fdiv y p.kScale))
    ([(page + i * d, 15, cs.map (fun c => BitVec.ofNat 8 c.code))], (sat.zip cs).map (fun y => y.1 || y.2.sat))
  | _ =>
    let q := quantRow (x.map f32)
    ([(page + i * d / 2, 15, nibbles q.1), (page + p.sections.2.1 + i * (d / 32), 15, q.2)], sat)

/-- The writes of one token's value of one head; for `KV_FMT` 2 the token goes to `V_TAIL`. -/
def AttnParams.valueWrites (p : AttnParams) (e : SeqEntry) (page kvh j : Nat) (x : List Bits) : Writes × List Bool :=
  let d := p.headDim
  let i := kvh * 256 + j % 256
  match p.kvFmt with
  | 0 => ([(page + p.sections.2.2.1 + i * d * 2, 15, (x.map (fun y => leBytes 2 (y / 2 ^ 16))).flatten)], [])
  | 1 =>
    let cs := x.map (fun y => convert .e4m3 (fdiv y p.vScale))
    ([(page + p.sections.2.2.1 + i * d, 15, cs.map (fun c => BitVec.ofNat 8 c.code))], cs.map (·.sat))
  | _ => ([(e.vTail + ((j % 32) * p.kvHeads + kvh) * d * 2, 13, (x.map (fun y => leBytes 2 (y / 2 ^ 16))).flatten)], [])

/-- The writes of the block of 32 tokens that `V_TAIL` holds, for one head (R165). -/
def AttnParams.tailWrites (p : AttnParams) (page kvh j : Nat) (rows : List (List Elem)) : Writes :=
  let d := p.headDim
  let cols := (List.range d).map (fun c => rows.map (fun r => (r.getD c Elem.zero).v))
  let scales := cols.map blockScale
  let codes := fun t => (cols.zip scales).map (fun x => quantE2m1 (x.1.getD t (.fin false 0 0)) x.2)
  let t0 := alignDown j 32
  ((List.range 32).map (fun t =>
      (page + p.sections.2.2.1 + (kvh * 256 + (t0 + t) % 256) * d / 2, 15, nibbles (codes t)))) ++
    [(page + p.sections.2.2.2 + (kvh * 8 + j % 256 / 32) * d, 15, scales.map scaleByte)]

/-- A step of an append: a token's key of one head, its value, and the quantisation of a full tail block (R165). -/
inductive AppendPart where
  | key | value | tail
  deriving DecidableEq, Repr

/-- One step of an append. -/
structure AppendStep where
  seq : Nat
  token : Nat
  kvh : Nat
  part : AppendPart
  /-- The token's last step. -/
  last : Bool
  deriving DecidableEq, Repr

/-- The steps of a token, head after head. -/
def AttnParams.tokenSteps (p : AttnParams) (e : SeqEntry) (seq i : Nat) : List AppendStep :=
  let tail := p.kvFmt = 2 ∧ (e.kvLen + i) % 32 = 31
  ((List.range p.kvHeads).map (fun h =>
    let fin := decide (h + 1 = p.kvHeads)
    [{ seq := seq, token := i, kvh := h, part := .key, last := false },
     { seq := seq, token := i, kvh := h, part := .value, last := fin && !decide tail }] ++
      (if tail then [{ seq := seq, token := i, kvh := h, part := .tail, last := fin }] else []))).flatten

/-- The steps of an append: every token of every sequence in order. -/
def AttnParams.appendSteps (p : AttnParams) (es : List SeqEntry) : List AppendStep :=
  (es.zipIdx.map (fun x => if x.1.skipped then [] else ((List.range x.1.qLen).map (p.tokenSteps x.1 x.2)).flatten)).flatten

/-- The bytes of one step to be written, read from `K_NEW`, `V_NEW` or the tail, with their poison and the elements saturated. -/
def State.appendBytes (s : State) (c : Cmd) (p : AttnParams) (e : SeqEntry) (t : AppendStep) (page : Nat) (ans : HostAns) :
    Reads (Writes × List Bool × Bool) :=
  let l := c.lod
  let d := p.headDim
  let j := e.kvLen + t.token
  let src := (t.token * p.kvHeads + t.kvh) * d * 2
  let codes := fun (va operand : Nat) (k : List Bits → Writes × List Bool) =>
    match s.readCodes l va 16 d operand ans c.ids with
    | .fail s st o => (.error (s, some (st, o)) : Reads (Writes × List Bool × Bool))
    | .wait s' => .error (s', none)
    | .ok s rows q =>
      let w := k (rows.flatten.map bf16ToF32)
      .ok (s, w.1, w.2, q)
  match t.part with
  | .key => codes (e.kNew + src) 11 (p.keyWrites e page t.kvh j)
  | .value => codes (e.vNew + src) 12 (p.valueWrites e page t.kvh j)
  | .tail =>
    match s.readTokens (fun s t' => s.readTail l p e t.kvh t' ans c.ids) (List.range 32) with
    | .error f => .error f
    | .ok (s, ts, q) => .ok (s, p.tailWrites page t.kvh j ts, [], q)

/-- What one step of an append comes to. -/
inductive AppendRes where
  | fail (s : State) (st d : Nat)
  | wait (s : State)
  | done (s : State)

/-- One step of an append done: its writes land together (R165). A sequence with an invalid page table entry fails alone (R167). -/
def State.appendStep (s : State) (c : Cmd) (p : AttnParams) (e : SeqEntry) (t : AppendStep) (ans : HostAns) : AppendRes :=
  let step := fun (s : State) (f : AttnOp → AttnOp) => s.modAttn c.id (fun m => let m := f m; { m with appended := m.appended + 1 })
  match s.pageOf c.lod e (e.kvLen + t.token) ans c.ids with
  | .fail s st d => .fail s st d
  | .wait s => .wait s
  | .invalid s => .done (step s (fun m => { m with dropped := insertNew m.dropped t.seq }))
  | .ok s page =>
    match s.appendBytes c p e t page ans with
    | .error (s, none) => .wait s
    | .error (s, some f) => .fail s f.1 f.2
    | .ok (s, ws, sat, q) =>
      match s.writeRow c.lod c.id q c.ids 0 ws with
      | .fail st o => .fail s st o
      | .wait => .wait s
      | .ok s k =>
        let tiles := (satColumns sat).map (fun x => (t.seq, t.kvh + (if t.part = .key then 0 else 256), t.token / 32, x))
        .done (step (s.modCmd c.id (fun x => { x with acks := x.acks + k })) (fun m =>
          { m with satTiles := tiles.foldl insertNew m.satTiles, work := m.work + ofBool t.last }))

/-- The steps of an append that are left, done in order. -/
def State.appendRun (s : State) (c : Cmd) (p : AttnParams) (es : List SeqEntry) (ans : HostAns) : List AppendStep → AppendRes
  | [] => .done s
  | t :: r =>
    match es[t.seq]?, s.attn? c.id with
    | some e, some m =>
      if m.dropped.contains t.seq then
        (s.modAttn c.id (fun m => { m with appended := m.appended + 1 })).appendRun c p es ans r
      else
        match s.appendStep c p e t ans with
        | .done s' => s'.appendRun c p es ans r
        | x => x
    | _, _ => .done s

/-- An attention operator as it starts. -/
def Cmd.attnOp (c : Cmd) : AttnOp :=
  let p := attnParams c
  { cmd := c.id, lod := c.lod, par := p, seqs := p.entries c.read c.readPoison, rows := [], endedUnits := [], written := [], dropped := [],
    pushed := [], appended := 0, work := 0, satTiles := [], elems := [] }

/-- What `KV_APPEND` does when it starts, and from its first step not yet done when it was held: every token of every sequence (R165, R167,
R169). -/
def State.startAppend (s : State) (c : Cmd) (ans : HostAns) : State :=
  let s := match s.attn? c.id with | some _ => s | none => { s with attns := s.attns ++ [c.attnOp] }
  match s.attn? c.id with
  | none => s
  | some m =>
    let workOf := fun (s : State) => match s.attn? c.id with | some m => m.work | none => 0
    match s.appendRun c m.par m.seqs ans ((m.par.appendSteps m.seqs).drop m.appended) with
    | .wait s => s.modCmd c.id (fun x => { x with issued := false, work := workOf s })
    | .fail s st d => (s.modCmd c.id (fun x => { x with work := workOf s })).endWith c.id st d
    | .done s =>
      match s.attn? c.id with
      | none => s
      | some m =>
        let s := if m.satTiles.isEmpty then s else s.noticeCmd c.id 0x0105 (sat16 m.satTiles.length)
        ((s.noteSequences m).modCmd c.id (fun x => { x with issued := true })).finish c.id m.work

/-- What an attention operator does when it starts. -/
def State.startAttn (s : State) (c : Cmd) : State :=
  ({ s with attns := s.attns ++ [c.attnOp] } : State).finishAttn c.id

/-! ### Handing out units (04, R87; 06, R140) -/

/-- `UNIT_DISPATCH`: a unit of a matrix or attention operator handed to a core of its lodging's clusters. -/
def execUnitDispatch (cmd entry mb nb seg col : Nat) (s : State) : Host.Outcome State Fault Refusal :=
  let key : UnitKey := { cmd := cmd, entry := entry, mb := mb, nb := nb, seg := seg }
  match s.mat? cmd with
  | some m =>
    match m.entries[entry]? with
    | none => .next s
    | some e =>
      if !s.opLive cmd || e.skipped || decide (mb ≥ e.mBlocks ∨ nb ≥ e.nBlocks ∨ seg ≥ m.par.segs) then .next s
      else .next (s.dispatchMat m e key col)
  | none =>
    match s.attn? cmd with
    | none => .next s
    | some m =>
      match m.seqs[entry]? with
      | none => .next s
      | some e => if !s.opLive cmd || m.dropped.contains entry || e.skipped then .next s else .next (s.dispatchAttn m e key col)

end Sys2Proof.Machine
end

