-- ==== Sys2Proof/Machine/Threads.lean ====
section
/-! DEFINITION. Kernel launches, blocks, groups and threads (03): launch checks, placement, issue, barriers, exit, halts and timeouts;
core registers with their poison; and the instruction cache. What an instruction computes is the core instruction reference's
(LOG 12); what it does to the rest of the device is here. -/

namespace Sys2Proof.Machine

/-! ### Launches and blocks -/

/-- A running launch. -/
def State.launch? (s : State) (id : Nat) : Option Launch := s.launches.find? (fun l => l.cmd == id)

/-- A launch changed. -/
def State.modLaunch (s : State) (id : Nat) (f : Launch → Launch) : State :=
  { s with launches := s.launches.map (fun l => if l.cmd == id then f l else l) }

/-- A block by number. -/
def State.block? (s : State) (id : Nat) : Option Block := s.blocks.find? (fun b => b.id == id)

/-- A block changed. -/
def State.modBlock (s : State) (id : Nat) (f : Block → Block) : State :=
  { s with blocks := s.blocks.map (fun b => if b.id == id then f b else b) }

/-- Blocks of the grid. -/
def Launch.total (l : Launch) : Nat := l.gridX * l.gridY * l.gridZ

/-- Group `i` of a block changed. -/
def Block.modGroup (b : Block) (i : Nat) (f : Group → Group) : Block :=
  match b.groups[i]? with
  | some g => { b with groups := b.groups.set i (f g) }
  | none => b

/-- A thread of a group. -/
def Group.thread (g : Group) (t : Nat) : Thread := g.threads.get t (Thread.reset 0)

/-- Threads of a group changed. -/
def State.modThreads (s : State) (blk grp : Nat) (ts : List Nat) (f : Thread → Thread) : State :=
  s.modBlock blk (fun b => b.modGroup grp (fun g => { g with threads := ts.foldl (fun m t => m.set t (f (m.get t (Thread.reset 0)))) g.threads }))

/-- Every thread of a group has exited. -/
def Group.over (g : Group) : Bool := g.threads.all (fun t => t.2.wait == .exited)

/-! ### Registers (03, R60, R66) -/

/-- A register: 32 bits, zero until written. -/
def Thread.reg (t : Thread) (r : Nat) : Nat := t.regs.get r 0

/-- A register written, with its poison. -/
def Thread.setReg (t : Thread) (r v : Nat) (p : Bool) : Thread :=
  { t with regs := t.regs.set r (v % 2 ^ 32), poison := if p then insertNew t.poison r else t.poison.filter (· != r) }

/-- Consecutive registers written. -/
def Thread.setRegs (t : Thread) (r : Nat) (vs : List Nat) (p : Bool) : Thread :=
  vs.zipIdx.foldl (fun t x => t.setReg (r + x.2) x.1 p) t

/-- Whether any of some registers is poisoned. -/
def Thread.poisoned (t : Thread) (rs : List Nat) : Bool := rs.any (fun r => t.poison.contains r)

/-- The registers that hold a value of `size` bytes. -/
def regsOf (r size : Nat) : List Nat := (List.range (max 1 (size / 4))).map (· + r)

/-- A value of `size` bytes in consecutive registers, the first the least significant. -/
def Thread.value (t : Thread) (r size : Nat) : Nat :=
  ((regsOf r size).foldr (fun x n => t.reg x + 2 ^ 32 * n) 0) % 2 ^ (8 * size)

/-- The register values that a load of some bytes writes. -/
def loadRegs (size : Nat) (b : List Byte) : List Nat :=
  if size < 4 then [Config.extend size (leNat b)] else (List.range (size / 4)).map (fun i => field b (4 * i) 4)

/-! ### Ends of blocks and launches (03, R65, R80, R81; 02, R44) -/

/-- A launch with no block left ends when it failed or its grid is exhausted; `WORK` counts blocks that ended normally. -/
def State.settleLaunch (s : State) (id : Nat) : State :=
  match s.launch? id with
  | none => s
  | some l =>
    if s.blocks.any (fun b => b.cmd == id) || (s.opLive id && decide (l.next < l.total)) then s else s.finish id l.normal

/-- The block, group and thread whose access a transaction is. -/
def TxnKind.thread? : TxnKind → Option (Nat × Nat × Nat)
  | .load b g h _ _ => some (b, g, h)
  | .store b g h _ _ _ => some (b, g, h)
  | .atomic b g h _ => some (b, g, h)
  | .hostAtomic b g h _ => some (b, g, h)
  | _ => none

/-- A write or an atomic of a block, by one of its threads or its feeder. -/
def TxnKind.writes (k : TxnKind) (blk : Nat) : Bool :=
  match k with
  | .store b _ _ _ _ _ => b == blk
  | .atomic b _ _ _ => b == blk
  | .hostAtomic b _ _ _ => b == blk
  | .feed b _ => b == blk
  | _ => false

/-- A block removed: registers, slots and scratch are free; writes on their way are awaited by its command (R44). -/
def State.dropBlock (s : State) (b : Block) : State :=
  let n := s.fab.txns.countP (fun t => t.kind.writes b.id)
  let s := { s with
    blocks := s.blocks.filter (fun x => x.id != b.id),
    fab := { s.fab with txns := s.fab.txns.map (fun (t : Txn) => if t.kind.writes b.id then { t with cmd := some b.cmd } else t) } }
  (s.modCmd b.cmd (fun c => { c with acks := c.acks + n })).touchDomain (clusterOf b.col)

/-- A group halts: its block stops, no further block of the launch starts, the lodging is notified (R67, R68, R74, R75, R81;
13, R334). -/
def State.haltGroup (s : State) (b : Block) (grp st d : Nat) : State :=
  let ids := s.idsOf b.cmd
  let q := match b.groups[grp]? with | some g => g.quarter | none => 0
  let s := s.log (s.physCore b.col) 0x01 q ids.1 ids.2
  let s := s.event b.lod 0x01 0 b.col
  ((s.dropBlock b).failCmd b.cmd st d).settleLaunch b.cmd

/-! ### Waiting threads (03, R61, R64, R74; 07, R177, R180) -/

/-- Whether a transaction is an access of a thread. -/
def Txn.ofThread (t : Txn) (blk grp thr : Nat) : Bool := t.kind.thread? == some (blk, grp, thr)

/-- An access that returns a value: the registers it writes, as first register and width in bytes. -/
def TxnKind.target? : TxnKind → Option (Nat × Nat)
  | .load _ _ _ dst size => some (dst, size)
  | .atomic _ _ _ a => some (a.dst, a.size)
  | .hostAtomic _ _ _ a => some (a.dst, a.size)
  | _ => none

/-- Bytes that an access of a thread covers. -/
def TxnKind.size : TxnKind → Nat
  | .load _ _ _ _ n => n
  | .store _ _ _ n _ _ => n
  | .atomic _ _ _ a => a.size
  | .hostAtomic _ _ _ a => a.size
  | _ => 0

/-- Reads of a thread whose values are not fixed yet: loads and atomics. -/
def State.reads (s : State) (blk grp thr : Nat) : List Nat :=
  (s.fab.txns.filter (fun t => t.ofThread blk grp thr && t.kind.target?.isSome)).map (·.id)

/-- Whether a transaction is still open. -/
def State.isOpen (s : State) (id : Nat) : Bool := s.fab.txns.any (fun t => t.id == id)

/-- The threads of a block that a performed access, an ended transfer, an arrival or an exit releases. A barrier is a full fence and a
feeder wait an acquire: both await the values of the thread's reads (07, R181). -/
def State.wakeBlock (s : State) (blk : Nat) : State :=
  match s.block? blk with
  | none => s
  | some b =>
    let free := fun (grp : Nat) (t : Nat × Thread) =>
      match t.2.wait with
      | .txns ids => !ids.any s.isOpen
      | .feeder k v => decide (b.counters.get k 0 ≥ v) && (s.reads blk grp t.1).isEmpty
      | _ => false
    let groups := b.groups.zipIdx.map (fun x =>
      { x.1 with threads := x.1.threads.map (fun t => if free x.2 t then (t.1, { t.2 with wait := .ready }) else t) })
    let alive := (groups.zipIdx.map (fun x => (x.1.threads.filter (fun t => t.2.wait != .exited)).map (fun t => (x.2, t)))).flatten
    let done := !alive.isEmpty && alive.all (fun x => x.2.2.wait == .barrier && (s.reads blk x.1 x.2.1).isEmpty)
    let groups := if done then
        groups.map (fun (g : Group) => { g with threads := g.threads.map (fun t => if t.2.wait = .barrier then (t.1, { t.2 with wait := .ready }) else t) })
      else groups
    s.modBlock blk (fun b => { b with groups := groups })

/-! ### Issue (03, R61 to R63) -/

/-- A thread placed in the set of its program counter; sets ascend by program counter. -/
def addToSets (pc t : Nat) : List (Nat × List Nat) → List (Nat × List Nat)
  | [] => [(pc, [t])]
  | (q, ts) :: r => if pc < q then (pc, [t]) :: (q, ts) :: r else if pc = q then (q, ts ++ [t]) :: r else (q, ts) :: addToSets pc t r

/-- The program-counter sets of a group's unblocked threads. -/
def Group.sets (g : Group) : List (Nat × List Nat) :=
  g.threads.foldl (fun m t => if t.2.wait = .ready then addToSets t.2.pc t.1 m else m) []

/-- The issue slot at which a set was last issued. -/
def Group.lastOf (g : Group) (ts : List Nat) : Nat := ts.foldl (fun m t => max m (g.lastIssue.get t 0)) 0

/-- What an issue slot of a group picks: program counter, threads, the group afterwards, and whether a granted run begins. -/
structure Pick where
  pc : Nat
  ts : List Nat
  grp : Group
  fresh : Bool

/-- The procedure of R62. `run_set` is the set that holds a thread of it; a grant ends at 64 slots, or when other threads have joined it or
all of it has exited. While all of a granted set is only blocked, the largest set issues and the grant stands (LOG 144). -/
def Group.pick (g : Group) : Option Pick :=
  match g.sets with
  | [] => none
  | x :: r =>
    let isRun := fun (y : Nat × List Nat) => y.2.any (fun t => g.runSet.contains t)
    let cur := (x :: r).find? isRun
    let merged := match cur with
      | none => false
      | some y => y.2.any (fun t => !g.runSet.contains t)
    let exited := g.runSet.all (fun t => (g.thread t).wait == .exited)
    let g := if g.granted && (g.runLen == 64 || merged || exited) then { g with granted := false, runLen := 0, spun := false } else g
    let largest := r.foldl (fun a y => if y.2.length > a.2.length then y else a) x
    let others := (x :: r).filter (fun y => !isRun y)
    let choice : (Nat × List Nat) × Bool :=
      if g.granted then (cur.getD largest, false)
      else if g.runLen ≥ 64 ∧ g.spun then
        match others with
        | [] => (largest, false)
        | y :: ys => (ys.foldl (fun a z => if g.lastOf z.2 < g.lastOf a.2 then z else a) y, true)
      else (largest, false)
    let p := choice.1
    let away := g.granted && cur.isNone
    let g := if choice.2 then { g with granted := true } else g
    let g := if away then g else if isRun p then { g with runLen := g.runLen + 1 } else { g with runSet := p.2, runLen := 1, spun := false }
    let slot := g.slots + 1
    some { pc := p.1, ts := p.2, fresh := choice.2,
           grp := { g with runSet := if away then g.runSet else p.2, slots := slot,
                           lastIssue := p.2.foldl (fun m t => m.set t slot) g.lastIssue } }

/-- Whether a column's instruction cache holds the line of an address for a lodging (R70). -/
def State.lineHeld (s : State) (col lod va : Nat) : Bool :=
  (s.core col).icache.any (fun l => l.lod == lod && l.line == va / 128)

/-- Whether a block may issue: resident, not stopped, its column served (R58; 17, R381, R386). -/
def State.blockRuns (s : State) (b : Block) : Bool :=
  !b.saved && !b.stopping && s.passed (s.turn (clusterOf b.col)).restoreUntil && (s.core b.col).served != .noCore

/-- The group that a quarter issues at its next slot: slot order after the group issued last, among those whose picked
instruction is in the instruction cache (R61; LOG 32). -/
def State.quarterPick (s : State) (col q : Nat) : Option (Nat × Nat) :=
  let cands := ((s.blocksOn col).map (fun b =>
    if s.blockRuns b then
      (b.groups.zipIdx.filter (fun x => x.1.quarter == q &&
        (match x.1.pick with | some p => s.lineHeld col b.lod p.pc | none => false))).map (fun x => (x.1.slot, b.id, x.2))
    else [])).flatten
  match nextRound 16 ((s.core col).lastGroup.get q 15) (fun k => cands.any (fun c => c.1 == k)) with
  | none => none
  | some k => (cands.find? (fun c => c.1 == k)).map (fun c => c.2)

/-- An instruction of a group that its quarter issues now. -/
structure Issue where
  b : Block
  i : Nat
  g : Group
  p : Pick
  ids : Nat × Nat

/-- The issue of the next instruction of a group, where its quarter picks that group. -/
def State.issue (s : State) (blk grp : Nat) : Option Issue :=
  match s.block? blk with
  | none => none
  | some b =>
    match b.groups[grp]? with
    | none => none
    | some g =>
      if s.blockRuns b && s.quarterPick b.col g.quarter == some (blk, grp) then
        g.pick.map (fun p => { b := b, i := grp, g := g, p := p, ids := s.idsOf b.cmd })
      else none

/-- The scheduler's state after an issue, with the instruction counted as issued, and as retired where it is (R62, R72). -/
def State.commit (s : State) (x : Issue) (retired : Bool) : State :=
  let s := s.modBlock x.b.id (fun b => b.modGroup x.i (fun g => { x.p.grp with threads := g.threads }))
  let s := s.modCore x.b.col (fun c => { c with lastGroup := c.lastGroup.set x.g.quarter x.g.slot })
  let k := stackOf x.b.col
  let s := if x.p.fresh then s.count k 0x004 (some x.b.lod) x.ids 1 else s
  let s := s.count k 0x001 (some x.b.lod) x.ids 1
  if retired then s.count k 0x002 (some x.b.lod) x.ids 1 else s

/-- The picked threads go on at another program counter. -/
def State.goOn (s : State) (x : Issue) (next : Nat) : State :=
  s.modThreads x.b.id x.i x.p.ts (fun t => { t with pc := next })

/-- A picked thread's state at the issue. -/
def Issue.thread (x : Issue) (t : Nat) : Thread := x.g.thread t

/-- The spin hint of an issued instruction (R62). -/
def State.hint (s : State) (x : Issue) (spin : Bool) : State :=
  if spin then s.modBlock x.b.id (fun b => b.modGroup x.i (fun g => { g with spun := true })) else s

/-- Picked threads that must await accesses before their instruction may issue: each is blocked until its own have been performed, and
nothing issues (R61). -/
def State.block (s : State) (x : Issue) (holds : Nat → List Nat) : State :=
  x.p.ts.foldl (fun s t => if (holds t).isEmpty then s
    else s.modThreads x.b.id x.i [t] (fun h => { h with wait := .txns (holds t) })) s

/-- Reads of a thread not yet returned that write some of its registers: an instruction that names them waits. -/
def State.regHolds (s : State) (x : Issue) (t : Nat) (rs : List Nat) : List Nat :=
  (s.fab.txns.filter (fun y => y.ofThread x.b.id x.i t &&
    (match y.kind.target? with | some d => (regsOf d.1 d.2).any (fun r => rs.contains r) | none => false))).map (·.id)

/-- An instruction that names some registers and nothing else: run once its threads hold them. -/
def State.whenHeld (s : State) (x : Issue) (rs : List Nat) (run : State) : State :=
  if x.p.ts.all (fun t => (s.regHolds x t rs).isEmpty) then run else s.block x (fun t => s.regHolds x t rs)

/-- An issue that halts its group. -/
def State.haltIssue (s : State) (x : Issue) (st d : Nat) : State := (s.commit x false).haltGroup x.b x.i st d

/-! ### `KERNEL_LAUNCH` (03, R76 to R79) -/

/-- Fields of the packet and of the descriptor. -/
def launchFields : List (Nat × Nat) × List (Nat × Nat) :=
  ([(16, 57), (24, 57), (32, 32), (36, 16), (38, 16), (40, 32), (44, 9)], [])

/-- A reserved bit of a kernel descriptor (R77). -/
def kdescReserved (b : List Byte) : Option Nat :=
  (List.range 64).find? (fun off =>
    strayBits (byteAt b off) (if off < 7 then 255 else if off = 7 then 1 else if off = 8 ∨ off = 9 then 63
      else if off = 10 then 255 else if off = 11 then 1 else if off = 12 then 1 else 0))

/-- The packet's checks of R78 after its reserved bits. -/
def launchBad (c : Cmd) : Option Status :=
  if c.f 16 8 % 64 ≠ 0 then some (0x0202, 16)
  else if c.f 32 4 * c.f 36 2 * c.f 38 2 > 2 ^ 40 then some (0x0207, 32)
  else none

/-- The descriptor's checks of R78. -/
def kdescBad (c : Cmd) (b : List Byte) : Option Status :=
  let groups := bits (byteAt b 8) 0 6
  let div8 := bits (byteAt b 9) 0 6
  match kdescReserved b with
  | some off => some (0x0201, 64 + off)
  | none =>
    if field b 0 8 % 128 ≠ 0 then some (0x0202, 64)
    else if groups = 0 ∨ groups > 32 then some (0x0202, 72)
    else if div8 = 0 ∨ div8 > 32 then some (0x0202, 73)
    else if field b 10 2 + c.f 44 2 > 256 then some (0x0207, 44)
    else if (groups + 3) / 4 * 8 * div8 > 512 then some (0x0207, 73)
    else none

/-- The launch that a packet and its descriptor describe. -/
def launchOf (c : Cmd) (b : List Byte) : Launch :=
  { cmd := c.id, lod := c.lod, code := field b 0 8, args := c.f 24 8, groups := bits (byteAt b 8) 0 6,
    regsPerThread := 8 * bits (byteAt b 9) 0 6, scratchKib := field b 10 2 + c.f 44 2, exclusive := bit (byteAt b 12) 0,
    gridX := c.f 32 4, gridY := c.f 36 2, gridZ := c.f 38 2, timeoutUs := c.f 40 4, next := 0, normal := 0, cleaned := [] }

/-- Step 8 of R37 for a launch: the packet, then the descriptor read and checked (R78). -/
def State.launchCheck (s : State) (c : Cmd) (ans : HostAns) : CheckRes :=
  match launchBad c with
  | some f => .bad s f.1 f.2
  | none =>
    match s.vread c.lod (c.f 16 8) 64 permRead 0 ans c.ids with
    | .fail s st d => .bad s st d
    | .wait s' => .wait s'
    | .ok s' b p =>
      if anyPoison p then .bad s' 0x0303 2
      else
        match kdescBad c b with
        | some f => .bad s' f.1 f.2
        | none => .ok s' b p

/-- What a launch does when it starts, by the descriptor that its check read: an empty grid ends at once (R79). -/
def State.startLaunch (s : State) (c : Cmd) : State := ({ s with launches := s.launches ++ [launchOf c c.read] } : State).settleLaunch c.id

/-! ### Placement (03, R58 to R60, R71, R80) -/

/-- Registers in use on each quarter and group slots taken, by resident groups that have not exited. -/
def State.groupsOn (s : State) (col q : Nat) : List (Block × Group) :=
  ((s.blocksOn col).map (fun b => (b.groups.filter (fun g => g.quarter == q && !g.over)).map (fun g => (b, g)))).flatten

/-- Free registers of a quarter (R60: 32,768). -/
def State.freeRegs (s : State) (col q : Nat) : Nat :=
  32768 - ((s.groupsOn col q).map (fun x => 64 * x.1.regsPerThread)).sum

/-- The quarter with the most free registers, ties to the lowest (R59). -/
def State.firstQuarter (s : State) (col : Nat) : Nat :=
  (List.range 4).foldl (fun q k => if s.freeRegs col k > s.freeRegs col q then k else q) 0

/-- The allocations of a quarter's register file: first register and count. -/
def State.regsTaken (s : State) (col q : Nat) : List (Nat × Nat) :=
  (s.groupsOn col q).map (fun x => (x.2.regBase, 64 * x.1.regsPerThread))

/-- The lowest place where `n` registers in one piece are free (R60; LOG 145). -/
def firstFit (taken : List (Nat × Nat)) (n : Nat) : Option Nat :=
  let fits := fun (a : Nat) => decide (a + n ≤ 32768) && taken.all (fun x => !overlaps x.1 x.2 a n)
  ((0 :: taken.map (fun x => x.1 + x.2)).filter fits).foldl (fun m a =>
    match m with | some b => some (min a b) | none => some a) none

/-- Places for `k` allocations of `n` registers, one after the other. -/
def placeRegs (taken : List (Nat × Nat)) (n : Nat) : Nat → Option (List Nat)
  | 0 => some []
  | k + 1 =>
    match firstFit taken n with
    | none => none
    | some a => (placeRegs ((a, n) :: taken) n k).map (fun r => a :: r)

/-- The places on a quarter of the registers of `k` groups. -/
def State.regPlaces (s : State) (col q regs k : Nat) : Option (List Nat) := placeRegs (s.regsTaken col q) (64 * regs) k

/-- Groups of a block of `n` that R59 puts on quarter `k` when group 0 goes to `q`. -/
def groupsAt (n q k : Nat) : Nat := (List.range n).countP (fun i => (q + i) % 4 == k)

/-- Whether a column has room for a block (R58, R60; 03: scratch of 256 KiB). -/
def State.blockRoom (s : State) (lod col groups regs kib : Nat) (exclusive : Bool) (cmd : Nat) : Bool :=
  let bs := s.blocksOn col
  let q := s.firstQuarter col
  (s.core col).served != .noCore && (s.core col).run == .idle && bs.all (fun b => b.lod == lod && !b.stopping)
    && !(exclusive && bs.any (fun b => b.cmd == cmd))
    && decide ((bs.map (·.scratchKib)).sum + kib ≤ 256)
    && (List.range 4).all (fun k =>
        let n := groupsAt groups q k
        (s.regPlaces col k regs n).isSome && decide ((s.groupsOn col k).length + n ≤ 16))

/-- The lowest free group slots of a quarter. -/
def State.freeSlots (s : State) (col q : Nat) : List Nat :=
  (List.range 16).filter (fun k => !(s.groupsOn col q).any (fun x => x.2.slot == k))

/-- Where group `i` of `n` goes on a column: quarter (q + i) mod 4, its slot and its registers (R59, R60). -/
def State.groupPlace (s : State) (col n regs i : Nat) : Nat × Nat × Nat :=
  let q0 := s.firstQuarter col
  let q := (q0 + i) % 4
  (q, (s.freeSlots col q).getD (i / 4) 0, ((s.regPlaces col q regs (groupsAt n q0 q)).getD []).getD (i / 4) 0)

/-- The groups of a new block, all threads at the entry. -/
def State.newGroups (s : State) (col n regs entry : Nat) : List Group :=
  (List.range n).map (fun i =>
    let p := s.groupPlace col n regs i
    { quarter := p.1, slot := p.2.1, regBase := p.2.2,
      threads := (List.range 64).map (fun t => (t, Thread.reset entry)), runSet := [], runLen := 0, spun := false,
      granted := false, lastIssue := [], slots := 0 })

/-- A saved block of a launch whose cluster a contract change has withdrawn, to be restored on another core (13, R325). -/
def State.displaced (s : State) (l : Launch) : Option Block :=
  s.blocks.find? (fun b => b.cmd == l.cmd && b.saved &&
    (match s.contract? l.lod with | some c => !bit c.shared (clusterOf b.col) | none => true))

/-- A displaced block restored on a column: its groups take free slots and registers there as R59 places them. -/
def State.restoreBlock (s : State) (b : Block) (col : Nat) : State :=
  let groups := b.groups.zipIdx.map (fun x =>
    let p := s.groupPlace col b.groups.length b.regsPerThread x.2
    ({ x.1 with quarter := p.1, slot := p.2.1, regBase := p.2.2 } : Group))
  s.modBlock b.id (fun b => { b with col := col, saved := false, groups := groups })

/-- `BLOCK_PLACEMENT`: the next block of a launch, or before it a block displaced by a contract change, placed on a core with room, its
cluster's wake asked for where it is OFF (R58 to R60, R71, R80; 13, R325; 15, R348). -/
def execBlockPlacement (cmd col : Nat) (s : State) : Host.Outcome State Fault Refusal :=
  match s.launch? cmd with
  | none => .next s
  | some l =>
    let d := clusterOf col
    if !s.opLive cmd || (decide (l.next ≥ l.total) && (s.displaced l).isNone) || !s.assigned l.lod d || !s.clusterServes d
        || !s.blockRoom l.lod col l.groups l.regsPerThread l.scratchKib l.exclusive cmd then .next s
    else if (s.domain d).state ≠ .on then .next (s.requestWake d)
    else
      let clean := !l.cleaned.contains col
      match s.displaced l with
      | some b =>
        let s := if clean then s.modCore col (fun c => { c with icache := c.icache.filter (fun x => x.lod != l.lod) }) else s
        let s := (s.restoreBlock b col).modLaunch cmd (fun l => { l with cleaned := insertNew l.cleaned col })
        .next ((s.noteColumn cmd col).touchDomain d)
      | none =>
      let b : Block :=
        { id := s.nextBlock, cmd := cmd, lod := l.lod, col := col, index := l.next, regsPerThread := l.regsPerThread,
          scratchKib := l.scratchKib, scratch := { cells := [], poison := [] }, groups := s.newGroups col l.groups l.regsPerThread l.code,
          counters := [], feeds := [], nextFeed := 0, stopping := false, saved := false }
      let s := if clean then s.modCore col (fun c => { c with icache := c.icache.filter (fun x => x.lod != l.lod) }) else s
      let s := { s with blocks := s.blocks ++ [b], nextBlock := s.nextBlock + 1 }
      let s := s.modLaunch cmd (fun l => { l with next := l.next + 1, cleaned := insertNew l.cleaned col })
      .next ((s.noteColumn cmd col).touchDomain d)

/-! ### Instruction fetch (03, R69 to R71) -/

/-- A line filled into a column's instruction cache of 512 lines, and its page in the TLB. -/
def State.fillLine (s : State) (col lod va : Nat) (b : List Byte) (p : List Bool) : State :=
  s.modCore col (fun c =>
    let kept := c.icache.filter (fun x => !(x.lod == lod && x.line == va / 128))
    { c with icache := ({ lod := lod, line := va / 128, bytes := b, poison := p } :: kept).take 512,
             itlb := insertNew c.itlb (lod, va / 4096) })

/-- A fetch on a predicted path: through held translations, from local Stonos and HBM4 only, without a fault (R70). It counts as a
wrong-path fetch where the prediction was wrong (R72). -/
def State.fetchPredicted (s : State) (b : Block) (va : Nat) (wrong : Bool) (ids : Nat × Nat) : State :=
  let s := if wrong then s.count (stackOf b.col) 0x003 (some b.lod) ids 1 else s
  if (s.core b.col).itlb.contains (b.lod, va / 4096) then
    match s.trans b.lod (alignDown va 128) permExec with
    | .error _ => s
    | .ok pa =>
      if (placeOf pa = .hbm ∨ placeOf pa = .scratch) ∧ (s.withdrawn pa).isNone then
        let r := s.readRange b.lod pa 128 ids
        r.1.fillLine b.col b.lod va r.2.1 r.2.2
      else s
  else s

/-- A fetch on the taken path of the line where a program-counter set stands. R260's table lists no fetch of code among the consumers of
poison: the line is filled with the bytes delivered and keeps the mark (LOG 33). -/
def State.fetchTaken (s : State) (b : Block) (grp va : Nat) (ans : HostAns) (ids : Nat × Nat) : State :=
  match s.vread b.lod (alignDown va 128) 128 permExec 0xFFFE ans ids with
  | .fail s st d => s.haltGroup b grp st (if st = 0x0300 then 2 else d)
  | .wait s' => s'
  | .ok s' bytes p => s'.fillLine b.col b.lod va bytes p

/-- `INSTRUCTION_FETCH`: of the line at `va`, for a program-counter set that stands there, or on a predicted path. -/
def execInstructionFetch (blk grp va : Nat) (path : FetchPath) (ans : HostAns) (s : State) : Host.Outcome State Fault Refusal :=
  match s.block? blk with
  | none => .next s
  | some b =>
    if !s.blockRuns b then .next s
    else
      match path with
      | .predicted wrong => .next (s.fetchPredicted b va wrong (s.idsOf b.cmd))
      | .taken =>
        match b.groups[grp]? with
        | none => .next s
        | some g => if g.sets.any (fun x => x.1 == va) then .next (s.fetchTaken b grp va ans (s.idsOf b.cmd)) else .next s

/-! ### Arithmetic (03, R66, R67, R69; 05, R128, R129) -/

/-- The target format of a core conversion: 0 BF16, 1 FP16, 2 E4M3, 3 E5M2. -/
def coreFmt (f : Nat) : Fmt := if f = 0 then .bf16 else if f = 1 then .fp16 else if f = 2 then .e4m3 else .e5m2

/-- A branch of the picked threads: each takes its own way (R62: a taken backward branch, or the hint, notes a spin). -/
def State.branchOn (s : State) (x : Issue) (code cond target next : Nat) : State :=
  let takes := fun (t : Nat) => Config.taken code ((x.thread t).reg cond)
  let yes := x.p.ts.filter takes
  let no := x.p.ts.filter (fun t => !takes t)
  let s := s.modThreads x.b.id x.i yes (fun t => { t with pc := target })
  let s := s.modThreads x.b.id x.i no (fun t => { t with pc := next })
  s.modBlock x.b.id (fun b => b.modGroup x.i (fun g =>
    { g with spun := g.spun || (!yes.isEmpty && decide (target ≤ x.p.pc)),
             runSet := if yes.length > no.length then yes else if no.length > yes.length then no
               else if target < next then yes else no }))

/-- What an instruction reads for a thread: a register, or what the core tells it of its place in the grid and its arguments (R80). -/
def State.srcValue (s : State) (x : Issue) (t : Nat) (v : CoreSrc) : Nat :=
  let l := s.launch? x.b.cmd
  let gx := match l with | some l => l.gridX | none => 1
  let gy := match l with | some l => l.gridY | none => 1
  let args := match l with | some l => l.args | none => 0
  match v with
  | .reg r => (x.thread t).reg r
  | .blockX => x.b.index % gx
  | .blockY => x.b.index / gx % gy
  | .blockZ => x.b.index / (gx * gy)
  | .groupIndex => x.i
  | .threadIndex => t
  | .argsLo => bits args 0 32
  | .argsHi => bits args 32 32

/-- The registers among what an instruction reads. -/
def srcRegs (vs : List CoreSrc) : List Nat := vs.filterMap (fun v => match v with | .reg r => some r | _ => none)

/-- The registers that an arithmetic instruction names. -/
def opRegs : CoreOp → List Nat
  | .alu _ dst srcs _ => dst :: srcRegs srcs
  | .stochastic _ dst src seed entry m n _ => [dst, src, seed, entry, m, n]
  | .branch _ cond _ _ => [cond]
  | .wrongPath => []
  | .undefined => []

/-- An arithmetic instruction of the picked threads whose registers are there. -/
def State.arith (s : State) (x : Issue) (op : CoreOp) : State :=
  match op with
  | .wrongPath => s.count (stackOf x.b.col) 0x001 (some x.b.lod) x.ids 1
  | .undefined => s.haltIssue x 0x0301 2
  | .alu code dst srcs next =>
    x.p.ts.foldl (fun s' t => s'.modThreads x.b.id x.i [t] (fun h =>
      { h.setReg dst (Config.alu code (srcs.map (s.srcValue x t))) (h.poisoned (srcRegs srcs)) with pc := next })) (s.commit x true)
  | .stochastic fmt dst src seed entry m n next =>
    (s.commit x true).modThreads x.b.id x.i x.p.ts (fun t =>
      let d := draw (t.reg seed) 1 0 (t.reg entry) (t.reg m) (t.reg n)
      { t.setReg dst (convertStoch (coreFmt fmt) d (t.reg src)).code (t.poisoned [src, seed, entry, m, n]) with pc := next })
  | .branch code cond target next =>
    if x.p.ts.any (fun t => (x.thread t).poisoned [cond]) then s.haltIssue x 0x0302 0xFFFE
    else (s.commit x true).branchOn x code cond target next

/-- `ARITHMETIC_INSTRUCTION`. -/
def execArithmeticInstruction (blk grp : Nat) (op : CoreOp) (spin : Bool) (s : State) : Host.Outcome State Fault Refusal :=
  match s.issue blk grp with
  | none => .next s
  | some x => .next (s.whenHeld x (opRegs op) ((s.arith x op).hint x (spin && op != .wrongPath)))

/-! ### Fences and barriers (03, R64; 07, R171, R177, R180, R181) -/

/-- Whether a fence of a scope waits until an access of its thread is performed: at device scope one to memory of this device, at system
scope every one; at a narrower scope the threads it covers await the access themselves (R171, R190). -/
def scopeAwaits (sc : Scope) (t : Txn) : Bool :=
  match sc with
  | .group => false
  | .block => false
  | .device => placeOf t.addr == .hbm || placeOf t.addr == .scratch
  | .system => true

/-- Writes and atomics of a thread that a fence of a scope waits for. -/
def State.covered (s : State) (blk grp thr : Nat) (sc : Scope) : List Nat :=
  (s.fab.txns.filter (fun t => t.ofThread blk grp thr && t.kind.writes blk && scopeAwaits sc t)).map (·.id)

/-- The threads that see what a thread has written before a fence of a scope, from then on: those of its group, or of its block. -/
def scopeMark : Scope → Nat
  | .group => 1
  | _ => 2

/-- The earlier writes and atomics of a thread made visible to the threads that its fence covers (R171, R177). -/
def State.markWrites (s : State) (blk grp thr : Nat) (sc : Scope) : State :=
  { s with fab := { s.fab with txns := s.fab.txns.map (fun (t : Txn) =>
      if t.ofThread blk grp thr && t.kind.writes blk then { t with mark := max t.mark (scopeMark sc) } else t) } }

/-- A thread's release fence: what it covers is performed before any later store or atomic of the thread (R177). -/
def State.releaseBy (s : State) (blk grp thr : Nat) (sc : Scope) : State :=
  let ids := s.covered blk grp thr sc
  (s.markWrites blk grp thr sc).modThreads blk grp [thr] (fun h => { h with release := (h.release.filter s.isOpen) ++ ids })

/-- A thread blocked until some accesses are performed; not at all where there are none. -/
def State.awaitTxns (s : State) (blk grp thr : Nat) (ids : List Nat) : State :=
  if ids.isEmpty then s else s.modThreads blk grp [thr] (fun h => { h with wait := .txns ids })

/-- A fence of one thread: an acquire awaits its reads, a full fence its writes too; a release holds later writes only (R177). -/
def State.fenceBy (s : State) (blk grp thr : Nat) (form : FenceForm) (sc : Scope) : State :=
  match form with
  | .release => s.releaseBy blk grp thr sc
  | .acquire => s.awaitTxns blk grp thr (s.reads blk grp thr)
  | .full => (s.markWrites blk grp thr sc).awaitTxns blk grp thr (s.reads blk grp thr ++ s.covered blk grp thr sc)

/-- `BARRIER`: the picked threads arrive; a block-scope full fence of each (07, R181). -/
def execBarrier (blk grp creg next : Nat) (spin : Bool) (s : State) : Host.Outcome State Fault Refusal :=
  match s.issue blk grp with
  | none => .next s
  | some x =>
    let run := if x.p.ts.any (fun t => (x.thread t).poisoned [creg]) then s.haltIssue x 0x0302 0xFFFE
      else
        let s := (s.commit x true).modThreads blk grp x.p.ts (fun t => { t with pc := next, wait := .barrier })
        (((x.p.ts.foldl (fun s t => s.markWrites blk grp t .block) s).hint x spin).wakeBlock blk)
    .next (s.whenHeld x [creg] run)

/-- `FENCE`: with nothing outstanding it completes at once (R180). -/
def execFence (blk grp : Nat) (form : FenceForm) (scope : Scope) (next : Nat) (spin : Bool) (s : State) :
    Host.Outcome State Fault Refusal :=
  match s.issue blk grp with
  | none => .next s
  | some x =>
    let s := (s.commit x true).goOn x next
    .next ((x.p.ts.foldl (fun s t => s.fenceBy blk grp t form scope) s).hint x spin)

/-! ### Exit (03, R65, R80) -/

/-- A block whose last thread exited (R65, R80). -/
def State.endBlock (s : State) (b : Block) : State :=
  let s := s.dropBlock b
  (s.modLaunch b.cmd (fun l => { l with normal := l.normal + 1 })).settleLaunch b.cmd

/-- A late report of a block's end after its launch timed out, at the porter that ran the launch (R83). -/
def State.lateEnd (s : State) (blk : Nat) : State :=
  match (List.range 4).find? (fun k => (s.porter k).lateBlocks.contains blk) with
  | none => s
  | some k =>
    let s := s.modPorter k (fun p =>
      { p with lateDiscard := wrap32 (p.lateDiscard + 1), lateBlocks := p.lateBlocks.filter (· != blk) })
    s.log (unitPorter k) 0x11 0 0 0

/-- `THREAD_EXIT`: the picked threads exit; the last of a block ends it. -/
def execThreadExit (blk grp : Nat) (s : State) : Host.Outcome State Fault Refusal :=
  match s.issue blk grp with
  | none => if (s.block? blk).isSome then .next s else .next (s.lateEnd blk)
  | some x =>
    let s := (s.commit x true).modThreads blk grp x.p.ts (fun t => { t with wait := .exited })
    match s.block? blk with
    | none => .next s
    | some b => if b.groups.all (·.over) then .next (s.endBlock b) else .next (s.wakeBlock blk)

/-- `LAUNCH_TIMEOUT`: every running block stops and the launch ends with 0x0400 (R82, R83; 02, R52). -/
def execLaunchTimeout (cmd : Nat) (s : State) : Host.Outcome State Fault Refusal :=
  match s.launch? cmd, s.cmd? cmd with
  | some l, some c =>
    if l.timeoutUs ≠ 0 ∧ c.phase = .running ∧ s.expired c.start (l.timeoutUs * 1000) then
      let mine := s.blocks.filter (fun b => b.cmd == cmd)
      let s := mine.foldl (fun s b => s.dropBlock b) s
      let s := s.modPorter c.stack (fun p => { p with lateBlocks := p.lateBlocks ++ mine.map (·.id) })
      let s := (s.failCmd cmd 0x0400 0).finish cmd l.normal
      .next (s.modCmd cmd (fun c => { c with endT := lastTick s.now }))
    else .next s
  | _, _ => .next s

end Sys2Proof.Machine
end

