-- ==== Sys2Proof/Machine/CoreMem.lean ====
section
/-! DEFINITION. Memory operations of core code (03, R66 to R68, R73 to R75; 07): loads, stores and atomics of the picked threads,
performed at once or left to a later flit, and the feeder. -/

namespace Sys2Proof.Machine

/-! ### Addresses and faults -/

/-- The address of a thread's access: a register pair and an offset, modulo 2^64. -/
def Thread.addr (t : Thread) (a : CoreAcc) : Nat := (t.reg a.areg + 2 ^ 32 * t.reg (a.areg + 1) + a.off) % 2 ^ 64

/-- What stops a thread's access before it is carried out: a poisoned address (R67), misalignment (07, R172), scratch bounds
(R68), translation or permission. -/
def State.accFault (s : State) (b : Block) (t : Thread) (a : CoreAcc) (need : Nat) : Option Status :=
  let v := t.addr a
  if t.poisoned [a.areg, a.areg + 1] then some (0x0302, 0xFFFE)
  else if v % a.size ≠ 0 then some (0x0301, 0xFFFE)
  else if a.scratch then (if v + a.size > 1024 * b.scratchKib then some (0x0301, 0xFFFE) else none)
  else
    match s.trans b.lod v need with
    | .error st => some (st, 0xFFFE)
    | .ok pa => (s.withdrawn pa).map (fun k => (0x0501, k))

/-- The first fault among the picked threads, in thread order; no thread's access is carried out then (LOG 34). -/
def State.firstFault (s : State) (x : Issue) (a : CoreAcc) (need : Nat) : Option Status :=
  x.p.ts.findSome? (fun t => s.accFault x.b (x.thread t) a need)

/-- The physical address of a thread's access that has no fault. -/
def State.accPa (s : State) (lod va need : Nat) : Nat :=
  match s.trans lod va need with
  | .ok pa => pa
  | .error _ => 0

/-- Accesses that a thread's access to some bytes waits for: its own to them (07, R174), and the writes to them that a fence has made
visible to it (R171, R177). -/
def State.sameBytes (s : State) (x : Issue) (t pa n : Nat) : List Nat :=
  (s.fab.txns.filter (fun y => overlaps y.addr y.kind.size pa n &&
    (match y.kind.thread? with
     | some (b, g, h) => b == x.b.id && ((g == x.i && h == t) ||
         (y.kind.writes b && (decide (y.mark = 2) || (decide (y.mark = 1) && g == x.i))))
     | none => false))).map (·.id)

/-- What a store or an atomic of a thread waits for: the values of the thread's earlier reads (R176), and what its release fences put
before it (R177). -/
def State.beforeWrite (s : State) (x : Issue) (t : Nat) : List Nat :=
  s.reads x.b.id x.i t ++ (x.thread t).release.filter s.isOpen

/-- What the access of a thread to memory waits for. -/
def State.accHolds (s : State) (x : Issue) (a : CoreAcc) (need t : Nat) : List Nat :=
  (if a.scratch then [] else s.sameBytes x t (s.accPa x.b.lod ((x.thread t).addr a) need) a.size)
    ++ (if need = permRead then [] else s.beforeWrite x t)

/-- Whether a column is quiesced: its core issues no access to memory then (11, R279). -/
def State.quiesced (s : State) (col : Nat) : Bool := (s.vch.bundles.get col Bundle.reset).quiescedAt.isSome

/-- A memory instruction: it waits for its registers, halts its group on a fault, waits for the accesses before it, and then runs. `more`
is what this instruction waits for besides, `bad` a fault of its own. -/
def State.memoryOp (s : State) (x : Issue) (a : CoreAcc) (need : Nat) (rs : List Nat) (bad : Option Status) (more : Nat → List Nat)
    (run : State) : State :=
  s.whenHeld x (a.areg :: (a.areg + 1) :: rs)
    (match (s.firstFault x a need).or bad with
     | some f => s.haltIssue x f.1 f.2
     | none =>
       let holds := fun t => s.accHolds x a need t ++ more t
       if x.p.ts.any (fun t => !(holds t).isEmpty) then s.block x holds
       else if !a.scratch && s.quiesced x.b.col then s
       else run)

/-- Whether every picked thread's access goes to a place of this device or the host, so that it can be left to a later flit. -/
def State.allNear (s : State) (x : Issue) (a : CoreAcc) (need : Nat) (host : Bool) : Bool :=
  x.p.ts.all (fun t =>
    match placeOf (s.accPa x.b.lod ((x.thread t).addr a) need) with
    | .hbm => true
    | .scratch => true
    | .host => host
    | _ => false)

/-- What an access of several threads comes to. -/
inductive Access (α : Type) where
  | ok (s : State) (r : α)
  | wait (s : State)
  | fault (s : State) (st d : Nat)

/-! ### Loads -/

/-- Each thread's load: done at once, or left open where its remote line must be fetched (09, R224). The data of those done. -/
def State.loadThreads (s : State) (x : Issue) (dst : Nat) (a : CoreAcc) : List Nat → Access (List (Nat × List Byte × Bool))
  | [] => .ok s []
  | t :: r =>
    let v := (x.thread t).addr a
    let one : VRead :=
      if a.scratch then .ok s (x.b.scratch.read v a.size) [x.b.scratch.poisoned v]
      else s.vread x.b.lod v a.size permRead 0xFFFE a.ans x.ids
    match one with
    | .fail s st d => .fault s st d
    | .wait w => (w.newTxn x.b.lod (s.accPa x.b.lod v permRead) (.load x.b.id x.i t dst a.size)).1.loadThreads x dst a r
    | .ok s' b p =>
      match s'.loadThreads x dst a r with
      | .ok s'' vs => .ok s'' ((t, b, anyPoison p) :: vs)
      | y => y

/-- A load's result delivered to a thread's registers (R66). -/
def State.putLoad (s : State) (blk grp thr dst size : Nat) (b : List Byte) (p : Bool) : State :=
  s.modThreads blk grp [thr] (fun t => t.setRegs dst (loadRegs size b) p)

/-- Accesses left to a later flit or completion, one for each picked thread; a read of host memory is a TLP (10, R462). -/
def State.issueTxns (s : State) (x : Issue) (a : CoreAcc) (need : Nat) (kind : Nat → TxnKind) : List Nat → State
  | [] => s
  | t :: r =>
    let pa := s.accPa x.b.lod ((x.thread t).addr a) need
    let s := (s.newTxn x.b.lod pa (kind t)).1
    let s := if placeOf pa = .host then s.emit (.hostRead (requester x.b.lod) (pa - 2 ^ 51) a.size) else s
    s.issueTxns x a need kind r

/-- The loads of the picked threads. -/
def State.loadOp (s : State) (x : Issue) (dst : Nat) (a : CoreAcc) : State :=
  if a.late && !a.scratch && s.allNear x a permRead true then
    ((s.commit x true).goOn x a.next).issueTxns x a permRead (fun t => .load x.b.id x.i t dst a.size) x.p.ts
  else
    match s.loadThreads x dst a x.p.ts with
    | .wait _ => s
    | .fault s' st d => s'.haltIssue x st d
    | .ok s' vs =>
      (vs.foldl (fun s v => s.putLoad x.b.id x.i v.1 dst a.size v.2.1 v.2.2) ((s'.commit x true).goOn x a.next)).purgeBuffers x.b.lod

/-- `CORE_LOAD` (07, R172 to R174, R176; 03, R61, R66 to R69). A thread goes on after a load that is not performed yet; it is blocked when it
comes to use its register. -/
def execCoreLoad (blk grp dst : Nat) (acc : CoreAcc) (s : State) : Host.Outcome State Fault Refusal :=
  match s.issue blk grp with
  | none => .next s
  | some x =>
    .next (s.memoryOp x acc permRead (regsOf dst acc.size) none (fun _ => []) ((s.loadOp x dst acc).hint x acc.spin))

/-! ### Stores -/

/-- Whether a thread's value registers are poisoned (R66). -/
def Issue.dirty (x : Issue) (t src size : Nat) : Bool := (x.thread t).poisoned (regsOf src size)

/-- Each thread's store performed in thread order; a remote home's acknowledgement is awaited by the thread's fences (R190). -/
def State.storeThreads (s : State) (x : Issue) (src : Nat) (a : CoreAcc) : List Nat → Access Unit
  | [] => .ok s ()
  | t :: r =>
    let v := (x.thread t).addr a
    let val := (x.thread t).value src a.size
    let p := x.dirty t src a.size
    if a.scratch then
      (s.modBlock x.b.id (fun b => { b with scratch := b.scratch.write v (leBytes a.size val) p })).storeThreads x src a r
    else
      let pa := s.accPa x.b.lod v permWrite
      if placeOf pa = .remote then
        match s.remoteStore x.b.lod pa (leBytes a.size val) (.store x.b.id x.i t a.size val p) p with
        | .held => .wait s
        | .unreachable => .fault s 0x0305 (deviceOf pa)
        | .sent s' => s'.storeThreads x src a r
      else (s.writeRange x.b.lod pa (leBytes a.size val) p x.ids).storeThreads x src a r

/-- The stores of the picked threads. -/
def State.storeOp (s : State) (x : Issue) (src : Nat) (a : CoreAcc) : State :=
  if a.late && !a.scratch && s.allNear x a permWrite false then
    ((s.commit x true).goOn x a.next).issueTxns x a permWrite
      (fun t => .store x.b.id x.i t a.size ((x.thread t).value src a.size) (x.dirty t src a.size)) x.p.ts
  else
    match s.storeThreads x src a x.p.ts with
    | .wait _ => s
    | .fault s' st d => s'.haltIssue x st d
    | .ok s' _ => (s'.commit x true).goOn x a.next

/-- `CORE_STORE` (07, R172 to R177, R193, R196; 03, R66 to R68; 10, R261). -/
def execCoreStore (blk grp src : Nat) (acc : CoreAcc) (s : State) : Host.Outcome State Fault Refusal :=
  match s.issue blk grp with
  | none => .next s
  | some x =>
    .next (s.memoryOp x acc permWrite (regsOf src acc.size) none (fun _ => []) ((s.storeOp x src acc).hint x acc.spin))

/-! ### Atomics (07, R185 to R189, R194) -/

/-- Widths in bytes of an atomic (R185). -/
def atomWidths : AtomOp → List Nat
  | .compareExchange => [4, 8, 16]
  | .fadd => [4]
  | .fmin => [4]
  | .fmax => [4]
  | _ => [4, 8]

/-- The new value of an atomic (R185). -/
def atomApply (op : AtomOp) (size old src cmp : Nat) : Nat :=
  let w := 8 * size
  match op with
  | .exchange => src
  | .compareExchange => if old = cmp then src else old
  | .add => (old + src) % 2 ^ w
  | .and => old &&& src
  | .or => old ||| src
  | .xor => old ^^^ src
  | .smin => if signedOf w src < signedOf w old then src else old
  | .smax => if signedOf w old < signedOf w src then src else old
  | .umin => min old src
  | .umax => max old src
  | .fadd => fadd old src
  | .fmin => fmin old src
  | .fmax => fmax old src

/-- What an atomic leaves: the state, the value returned, and its poison. -/
structure AtomResult where
  s : State
  old : Nat
  poison : Bool

/-- An atomic performed by the slice that owns a local address (R185, R194). `bad`: a register operand is poisoned. -/
def State.atomicHome (s : State) (lod pa size : Nat) (op : AtomOp) (src cmp : Nat) (bad : Bool) (ids : Nat × Nat) : AtomResult :=
  let r := s.readSector lod (pa / 32) ids
  let s := r.1.count (stackOf (s.wordColumn pa)) 0x032 (some lod) ids 1
  let old := field r.2.bytes (pa % 32) size
  if r.2.poison then { s := s, old := old, poison := true }
  else if bad then { s := s.storeSector lod (pa / 32) 0 r.2.bytes true ids, old := old, poison := true }
  else if op = .compareExchange ∧ old ≠ cmp then { s := s, old := old, poison := false }
  else { s := s.storeSector lod (pa / 32) (pa % 32) (leBytes size (atomApply op size old src cmp)) false ids,
         old := old, poison := false }

/-- An atomic performed by the core on its block's scratch (R187, R194). -/
def Memory.atomic (m : Memory) (a size : Nat) (op : AtomOp) (src cmp : Nat) (bad : Bool) : Memory × Nat × Bool :=
  let old := leNat (m.read a size)
  if m.poisoned a then (m, old, true)
  else if bad then (m.mark (a / 32) true, old, true)
  else (m.put a (leBytes size (atomApply op size old src cmp)), old, false)

/-- Whether the host performs an operation as an AtomicOp (R188). -/
def hostAtom (op : AtomOp) : Bool := op == .add || op == .exchange || op == .compareExchange

/-- An atomic's result delivered to a thread. -/
def State.putAtomic (s : State) (blk grp thr dst size old : Nat) (p : Bool) : State :=
  s.modThreads blk grp [thr] (fun t => t.setRegs dst ((List.range (max 1 (size / 4))).map (fun i => bits old (32 * i) 32)) p)

/-- One instruction's atomic operands. -/
structure AtomArgs where
  dst : Nat
  src : Nat
  cmp : Nat
  op : AtomOp
  order : MemOrder
  scope : Scope

/-- The operands of a PCIe AtomicOp: the addend or the new value, and for CAS the comparand before it (R188). -/
def AtomTxn.operands (a : AtomTxn) : List Nat := if a.op = .compareExchange then [a.cmp, a.src] else [a.src]

/-- An AtomicOp sent to the host; a poisoned operand sets its EP bit (R188; 10, R261; LOG 143). -/
def State.hostAtomicOp (s : State) (lod pa : Nat) (a : AtomTxn) (kind : TxnKind) : State :=
  (s.newTxn lod pa kind).1.emit (.hostAtomic (requester lod) (pa - 2 ^ 51) a.size a.op a.operands a.bad)

/-- One thread's atomic operands. -/
def Issue.atomTxn (x : Issue) (g : AtomArgs) (size t : Nat) : AtomTxn :=
  let th := x.thread t
  { dst := g.dst, size := size, op := g.op, order := g.order, src := th.value g.src size, cmp := th.value g.cmp size,
    bad := x.dirty t g.src size || (g.op == .compareExchange && x.dirty t g.cmp size) }

/-- Each thread's atomic, in thread order. -/
def State.atomicThreads (s : State) (x : Issue) (g : AtomArgs) (a : CoreAcc) : List Nat → Access Unit
  | [] => .ok s ()
  | t :: r =>
    let v := (x.thread t).addr a
    let y := x.atomTxn g a.size t
    if a.scratch then
      let m := match s.block? x.b.id with | some b => b.scratch | none => x.b.scratch
      let z := m.atomic v a.size y.op y.src y.cmp y.bad
      ((s.modBlock x.b.id (fun b => { b with scratch := z.1 })).putAtomic x.b.id x.i t g.dst a.size z.2.1 z.2.2).atomicThreads x g a r
    else
      let pa := s.accPa x.b.lod v 3
      match placeOf pa with
      | .host => (s.hostAtomicOp x.b.lod pa y (.hostAtomic x.b.id x.i t y)).atomicThreads x g a r
      | .remote =>
        let h := s.sendHomes (s.reduceOf x.b.lod (pa / 128))
        if !h.2.isEmpty then .fault h.1 0x0305 (deviceOf pa)
        else
          let w := h.1.newTxn x.b.lod pa (.atomic x.b.id x.i t y)
          match w.1.cylSend (deviceOf pa) opAtomic (localOf pa) (w.2 % 2 ^ 16)
              (packAtom (atomBytes y.op a.size y.order (pa % 128) y.src y.cmp)) (some w.2) y.bad with
          | .held => .wait s
          | .unreachable => .fault h.1 0x0305 (deviceOf pa)
          | .sent s'' => s''.atomicThreads x g a r
      | _ =>
        let z := s.atomicHome x.b.lod pa a.size y.op y.src y.cmp y.bad x.ids
        (z.s.putAtomic x.b.id x.i t g.dst a.size z.old z.poison).atomicThreads x g a r

/-- A fault of an atomic besides those of every access: a host operation that is no AtomicOp, or an address in a reduction
region (R188, R189). -/
def State.atomFault (s : State) (x : Issue) (op : AtomOp) (a : CoreAcc) : Option Status :=
  if a.scratch then none
  else if x.p.ts.any (fun t =>
      let va := (x.thread t).addr a
      let pa := s.accPa x.b.lod va 3
      (placeOf pa == .host && !hostAtom op) ||
        (match (s.lod x.b.lod).mapping? va with | some m => m.region.isSome | none => false) || s.inRegion x.b.lod pa)
  then some (0x0301, 0xFFFE)
  else none

/-- The atomics of the picked threads; an acquire then awaits its reads, the atomic's own value among them (R179). -/
def State.atomicOp (s : State) (x : Issue) (g : AtomArgs) (a : CoreAcc) : State :=
  let s := if g.order = .release ∨ g.order = .acqRel then x.p.ts.foldl (fun s t => s.markWrites x.b.id x.i t g.scope) s else s
  let done : Option State :=
    if a.late && !a.scratch && s.allNear x a 3 false then
      some (((s.commit x true).goOn x a.next).issueTxns x a 3 (fun t => .atomic x.b.id x.i t (x.atomTxn g a.size t)) x.p.ts)
    else
      match s.atomicThreads x g a x.p.ts with
      | .wait _ => none
      | .fault s' st d => some (s'.haltIssue x st d)
      | .ok s' _ => some ((s'.commit x true).goOn x a.next)
  match done with
  | none => s
  | some s =>
    if g.order = .acquire ∨ g.order = .acqRel then
      x.p.ts.foldl (fun s t => s.awaitTxns x.b.id x.i t (s.reads x.b.id x.i t)) s
    else s

/-- `CORE_ATOMIC`: a width that the operation has not is an undefined encoding; a release is a fence of the atomic's scope before it, an
acquire one after it; on core scratch a wider scope acts as block scope (07, R171, R179, R185 to R189, R194). -/
def execCoreAtomic (blk grp dst src cmp : Nat) (op : AtomOp) (order : MemOrder) (scope : Scope) (acc : CoreAcc) (s : State) :
    Host.Outcome State Fault Refusal :=
  match s.issue blk grp with
  | none => .next s
  | some x =>
    if !(atomWidths op).contains acc.size then .next (s.haltIssue x 0x0301 2)
    else
      let scope := if acc.scratch ∧ scope ≠ .group then .block else scope
      let g : AtomArgs := { dst := dst, src := src, cmp := cmp, op := op, order := order, scope := scope }
      let rs := regsOf dst acc.size ++ regsOf src acc.size ++ (if op = .compareExchange then regsOf cmp acc.size else [])
      let before := fun (t : Nat) => if order = .release ∨ order = .acqRel then s.covered blk grp t scope else []
      .next (s.memoryOp x acc 3 rs (s.atomFault x op acc) before ((s.atomicOp x g acc).hint x acc.spin))

/-! ### The feeder (03, R73 to R75; 07, R181) -/

/-- The 32 bytes of a descriptor in eight registers. -/
def Thread.descBytes (t : Thread) (r : Nat) : List Byte := ((List.range 8).map (fun i => leBytes 4 (t.reg (r + i)))).flatten

/-- A signed 32-bit field. -/
def signed32 (b : List Byte) (off : Nat) : Int := signedOf 32 (field b off 4)

/-- A refused descriptor (R74). With `ZERO` the one side named is the destination. -/
def feederRefused (b : List Byte) : Bool :=
  let zero := bit (byteAt b 28) 0
  let rb := field b 16 2
  strayBits (field b 0 8) (2 ^ 63 + (2 ^ 57 - 1)) || strayBits (field b 8 8) (2 ^ 63 + (2 ^ 57 - 1)) || strayBits rb (2 ^ 14 - 1)
    || strayBits (byteAt b 28) 1 || strayBits (byteAt b 29) 15 || field b 30 2 != 0
    || rb % 4 != 0 || rb == 0 || field b 18 2 == 0
    || !(bit (byteAt b 15) 7 || (!zero && bit (byteAt b 7) 7))

/-- The transfer that a descriptor names. -/
def feederOf (b : List Byte) (idx grp : Nat) : FeederXfer :=
  { idx := idx, grp := grp, src := field b 0 8 % 2 ^ 57, srcScratch := bit (byteAt b 7) 7, dst := field b 8 8 % 2 ^ 57,
    dstScratch := bit (byteAt b 15) 7, rowBytes := field b 16 2, rows := field b 18 2, srcStride := signed32 b 20,
    dstStride := signed32 b 24, zero := bit (byteAt b 28) 0, counter := bits (byteAt b 29) 0 4, row := 0, pos := 0, acks := 0 }

/-- The transfers of some threads accepted. -/
def State.acceptXfers (s : State) (x : Issue) (dreg : Nat) : List Nat → State
  | [] => s
  | t :: r =>
    (s.modBlock x.b.id (fun b =>
      { b with feeds := b.feeds ++ [feederOf ((x.thread t).descBytes dreg) b.nextFeed x.i], nextFeed := b.nextFeed + 1 })).acceptXfers
      x dreg r

/-- The picked threads whose descriptors the feeder takes, 16 transfers of its core at a time; the others stay (LOG 36). -/
def State.feederTakes (s : State) (x : Issue) : List Nat :=
  x.p.ts.take (16 - ((s.blocksOn x.b.col).map (fun b => b.feeds.length)).sum)

/-- Descriptors handed over: a block-scope release of the issuing threads (07, R181). -/
def State.handOver (s : State) (x : Issue) (dreg next : Nat) : State :=
  let ts := s.feederTakes x
  if x.p.ts.any (fun t => (x.thread t).poisoned ((List.range 8).map (· + dreg))) then s.haltIssue x 0x0302 0xFFFE
  else if x.p.ts.any (fun t => feederRefused ((x.thread t).descBytes dreg)) then s.haltIssue x 0x0301 0xFFFE
  else if ts.any (fun t => !(s.reads x.b.id x.i t).isEmpty) then s.block x (fun t => s.reads x.b.id x.i t)
  else if ts.isEmpty then s
  else
    let s := (s.commit x true).modThreads x.b.id x.i ts (fun t => { t with pc := next })
    (ts.foldl (fun s t => s.markWrites x.b.id x.i t .block) s).acceptXfers x dreg ts

/-- `FEEDER_ISSUE`: each picked thread hands over its descriptor while the feeder takes it. -/
def execFeederIssue (blk grp dreg next : Nat) (spin : Bool) (s : State) : Host.Outcome State Fault Refusal :=
  match s.issue blk grp with
  | none => .next s
  | some x => .next (s.whenHeld x ((List.range 8).map (· + dreg)) ((s.handOver x dreg next).hint x spin))

/-- `FEEDER_WAIT`: the picked threads wait until a counter reaches a value (R74). -/
def execFeederWait (blk grp counter value next : Nat) (spin : Bool) (s : State) : Host.Outcome State Fault Refusal :=
  match s.issue blk grp with
  | none => .next s
  | some x =>
    let s := (s.commit x true).modThreads blk grp x.p.ts (fun t => { t with pc := next, wait := .feeder counter value })
    .next ((s.hint x spin).wakeBlock blk)

/-- Address of row `r`. -/
def rowAddr (a : Nat) (stride : Int) (r : Nat) : Nat := (((a : Int) + stride * r) % 2 ^ 57).toNat

/-- Whether a piece of a transfer must wait for a write of its block that its issue put before it (07, R181). -/
def State.feedHeld (s : State) (b : Block) (va n need : Nat) : Bool :=
  match s.transRange b.lod va n need with
  | .error _ => false
  | .ok ps => s.fab.txns.any (fun y => y.kind.writes b.id && decide (y.mark = 2) && ps.any (fun p => overlaps y.addr y.kind.size p.1 p.2))

/-- The transfer after a piece of `n` bytes. -/
def FeederXfer.advance (f : FeederXfer) (n acks : Nat) : FeederXfer :=
  if f.pos + n ≥ f.rowBytes then { f with row := f.row + 1, pos := 0, acks := f.acks + acks }
  else { f with pos := f.pos + n, acks := f.acks + acks }

/-- The source bytes of a piece, and whether any of their sectors is poisoned (R75). -/
def State.feedSource (s : State) (b : Block) (f : FeederXfer) (n : Nat) (ans : HostAns) (ids : Nat × Nat) : Access (List Byte × Bool) :=
  let a := rowAddr f.src f.srcStride f.row + f.pos
  if f.zero then .ok s (List.replicate n 0, false)
  else if f.srcScratch then
    let m := match s.block? b.id with | some b => b.scratch | none => b.scratch
    if a + n > 1024 * b.scratchKib then .fault s 0x0301 0xFFFE
    else .ok s (m.read a n, (List.range n).any (fun i => m.poisoned (a + i)))
  else if s.feedHeld b a n permRead then .wait s
  else
    match s.vread b.lod a n permRead 0xFFFE ans ids with
    | .fail s st d => .fault s st d
    | .wait w => .wait w
    | .ok s' by' ps => .ok s' (by', anyPoison ps)

/-- The next piece of a transfer: what of a row lies in one sector of the destination (R73, R75; 07, R173). -/
def State.feedPiece (s : State) (b : Block) (f : FeederXfer) (ans : HostAns) (ids : Nat × Nat) : Access FeederXfer :=
  let a := rowAddr f.dst f.dstStride f.row + f.pos
  let n := min (f.rowBytes - f.pos) (32 - a % 32)
  match s.feedSource b f n ans ids with
  | .wait w => .wait w
  | .fault s' st d => .fault s' st d
  | .ok s' (by', p) =>
    if f.dstScratch then
      (if a + n > 1024 * b.scratchKib then .fault s' 0x0301 0xFFFE
       else .ok (s'.modBlock b.id (fun b => { b with scratch := b.scratch.write a by' p })) (f.advance n 0))
    else if s'.feedHeld b a n permWrite then .wait s
    else
      match s'.vwriteAs b.lod a 0xFFFE by' p (.feed b.id f.idx) ids with
      | .fail st d => .fault s' st d
      | .wait => .wait s
      | .ok s'' k => .ok s'' (f.advance n k)

/-- Up to `fuel` pieces of a transfer. -/
def State.feedPieces (s : State) (b : Block) (ans : HostAns) (ids : Nat × Nat) : FeederXfer → Nat → Access FeederXfer
  | f, 0 => .ok s f
  | f, fuel + 1 =>
    if f.row ≥ f.rows then .ok s f
    else
      match s.feedPiece b f ans ids with
      | .ok s' f' => s'.feedPieces b ans ids f' fuel
      | .wait w => .ok w f
      | .fault s' st d => .fault s' st d

/-- A transfer with all its bytes written and every remote home's acknowledgement in ends: its counter increments (R74). -/
def State.settleFeed (s : State) (blk idx : Nat) : State :=
  match s.block? blk with
  | none => s
  | some b =>
    match b.feeds.find? (fun f => f.idx == idx) with
    | none => s
    | some f =>
      if f.row < f.rows ∨ f.acks ≠ 0 then s
      else
        ((s.modBlock blk (fun b =>
          { b with feeds := b.feeds.filter (fun y => y.idx != idx),
                   counters := b.counters.set f.counter ((b.counters.get f.counter 0 + 1) % 2 ^ 32) })).wakeBlock blk).purgeBuffers b.lod

/-- `FEEDER_TRANSFER_COMPLETE`: up to `pieces` further sectors of a transfer are written, and with the last it completes; a fault halts the
group that issued it (R74, R75; 07, R173). -/
def execFeederTransferComplete (blk idx pieces : Nat) (ans : HostAns) (s : State) : Host.Outcome State Fault Refusal :=
  match s.block? blk with
  | none => .next s
  | some b =>
    match b.feeds.find? (fun f => f.idx == idx) with
    | none => .next s
    | some f =>
      if b.saved || s.quiesced b.col then .next s
      else
        match s.feedPieces b ans (s.idsOf b.cmd) f pieces with
        | .wait w => .next w
        | .fault s' st d => .next (s'.haltGroup b f.grp st d)
        | .ok s' g =>
          .next ((s'.modBlock blk (fun b => { b with feeds := b.feeds.map (fun y => if y.idx == idx then g else y) })).settleFeed blk idx)

end Sys2Proof.Machine
end

