-- ==== Sys2Proof/Machine/Dma.lean ====
section
/-! DEFINITION. The bulk copy engines (12): the channels with their register sets, start classes and pacing, bursts with their
retries, and the commands `COPY`, `FILL` and `COPY_REMOTE`. Channel c of stack s is global channel 32s + c. -/

namespace Sys2Proof.Machine

/-! ### Channels and their settings (R292 to R296, R303, R306, R313) -/

/-- A channel. -/
def State.chan (s : State) (gch : Nat) : DmaCh := s.dma.chans.get gch DmaCh.reset

/-- A channel changed. -/
def State.modChan (s : State) (gch : Nat) (f : DmaCh → DmaCh) : State :=
  { s with dma := { s.dma with chans := s.dma.chans.mod gch DmaCh.reset f } }

/-- DMA registers of a stack. -/
def State.dmaRegs (s : State) (k : Nat) : DmaRegs := s.dma.regs.get k DmaRegs.reset

/-- DMA registers changed. -/
def State.modDmaRegs (s : State) (k : Nat) (f : DmaRegs → DmaRegs) : State :=
  { s with dma := { s.dma with regs := s.dma.regs.mod k DmaRegs.reset f } }

/-- Whether the PF programs a channel (R292). -/
def pfChannel (ch : Nat) : Bool := decide (24 ≤ ch ∧ ch < 30)

/-- Whether a register set cannot start (R313). -/
def DmaSet.invalid (d : DmaSet) (stack : Nat) : Bool :=
  d.cls == 3 || d.burstLog == 7 || decide (16 ≤ d.trigger ∧ d.trigger < 32)
    || (d.cls == 2 && (decide (d.lowKib ≥ d.highKib) || decide (d.paceSrc ≥ 13) || (d.paceSrc == 12 && stack != 0)))
    || (d.srcFixed && (d.src % 32 != 0 || d.count % 32 != 0)) || (d.dstFixed && (d.dst % 32 != 0 || d.count % 32 != 0))

/-- Bytes of the channel's next burst (R295). -/
def DmaCh.burstBytes (c : DmaCh) : Nat := min (64 * 2 ^ c.act.burstLog) c.remain

/-- Bytes of the run already written. -/
def DmaCh.position (c : DmaCh) : Nat := c.act.count - c.remain

/-- The level of a pacing source (R306): software queues, or a hardware queue with the reservations made of it. -/
def State.level (s : State) (stack src : Nat) : Int :=
  if src < 8 then (s.dmaRegs stack).swq.get src 0 else s.dma.levels.get (16 * stack + src) 0

/-- The pacing request at a level (R306). -/
def paceRequest (dir high low : Nat) (level : Int) (old : Bool) : Bool :=
  if dir = 0 then (if level ≥ 1024 * high then true else if level ≤ 1024 * low then false else old)
  else (if level ≤ 1024 * low then true else if level ≥ 1024 * high then false else old)

/-- The requests of the channels paced by a source evaluated again (R308). -/
def State.evalPace (s : State) (stack src : Nat) : State :=
  { s with dma := { s.dma with chans := s.dma.chans.map (fun (e : Nat × DmaCh) =>
      if e.1 / 32 = stack ∧ e.2.act.cls = 2 ∧ e.2.act.paceSrc = src ∧ e.2.running then
        (e.1, { e.2 with asserted := paceRequest e.2.act.paceDir e.2.act.highKib e.2.act.lowKib (s.level stack src) e.2.asserted })
      else e) } }

/-- A level changed, its requests evaluated on the sum (R308). -/
def State.addLevel (s : State) (stack src : Nat) (d : Int) : State :=
  let s :=
    if src < 8 then s.modDmaRegs stack (fun r => { r with swq := r.swq.set src (signedOf 32 ((r.swq.get src 0 + d) % 2 ^ 32).toNat) })
    else { s with dma := { s.dma with levels := s.dma.levels.set (16 * stack + src) (s.dma.levels.get (16 * stack + src) 0 + d) } }
  s.evalPace stack src

/-! ### Starting, ending and halting runs (R303, R304, R311 to R314) -/

/-- A channel halted with a status; its transactions are no longer awaited. -/
def State.haltChannel (s : State) (gch st d : Nat) : State :=
  let s := s.modChan gch (fun c =>
    { c with running := false, halted := true, haltStatus := st, haltDetail := d, burst := none, staging := [],
             stagingPoison := [], lines := [], reserved := false, retryAt := none, armed := false, triggerPending := false })
  { s with fab := { s.fab with txns := s.fab.txns.filter (fun t => match t.kind with | .dma g _ => g != gch | _ => true) } }

/-- A run from the programmed addresses, or from the first byte not yet written. -/
def DmaCh.run (c : DmaCh) (remain : Nat) (level : Int) : DmaCh :=
  { c with running := true, halted := false, remain := remain, attempts := 0, retryAt := none, burst := none, staging := [],
           stagingPoison := [], lines := [], reserved := false,
           asserted := c.act.cls == 2 && paceRequest c.act.paceDir c.act.highKib c.act.lowKib level false }

/-- What a trigger does to a class T channel (R304); a run of no bytes is done at once (R313). -/
def DmaCh.trigger (c : DmaCh) : DmaCh :=
  if !c.armed || c.act.cls != 1 || c.halted then c
  else if c.running then
    (if c.triggerPending then { c with missed := min 255 (c.missed + 1) } else { c with triggerPending := true })
  else if c.act.count = 0 then { c with done := true, remain := 0 }
  else c.run c.act.count 0

/-- Whether a trigger gives a channel a run of no bytes. -/
def DmaCh.emptyRun (c : DmaCh) : Bool := c.armed && c.act.cls == 1 && !c.halted && !c.running && c.act.count == 0

/-- The interrupt of a channel at its end of count (R314). -/
def State.endInterrupt (s : State) (gch : Nat) : State :=
  if (s.chan gch).act.intEn && decide (24 ≤ gch % 32) then s.raise 256 (32 + 8 * (gch / 32) + (gch % 32 - 24)) else s

/-- The channels of a stack that a trigger number selects. -/
def State.triggeredBy (s : State) (stack trig : Nat) : List Nat :=
  ((List.range 8).map (fun i => 32 * stack + 24 + i)).filter (fun g => (s.chan g).act.trigger == trig)

/-- A trigger for some channels, each in turn; a run of no bytes ends at once, and its end of count triggers in its turn. `fuel` bounds a
chain of such runs (LOG 146). -/
def State.triggerEach (s : State) : Nat → List Nat → State
  | 0, _ => s
  | fuel + 1, gs =>
    gs.foldl (fun s g =>
      let c := s.chan g
      let s := s.modChan g DmaCh.trigger
      if c.emptyRun then ((s.setNow (.dmaDone g)).endInterrupt g).triggerEach fuel (s.triggeredBy (g / 32) (32 + g % 32)) else s) s

/-- The channels of a stack that a trigger number selects take a trigger. -/
def State.triggerAll (s : State) (stack trig fuel : Nat) : State := s.triggerEach fuel (s.triggeredBy stack trig)

/-- The trigger that a channel's end of count is (R303). -/
def State.endTrigger (s : State) (gch : Nat) : State := s.triggerAll (gch / 32) (32 + gch % 32) 32

/-- Interrupt and end-of-count trigger of a channel (R303, R314). -/
def State.endSignals (s : State) (gch : Nat) : State := (s.endInterrupt gch).endTrigger gch

/-- A channel that does not run starts under its active set (R303, R311 to R313). -/
def State.startChannel (s : State) (gch : Nat) : State :=
  let c := s.chan gch
  if c.running then s
  else
    if c.act.invalid (gch / 32) then s.haltChannel gch 0x0202 0
    else
      let resume := c.halted && c.remain != 0
      let level := s.level (gch / 32) c.act.paceSrc
      if c.act.cls = 1 then
        s.modChan gch (fun c =>
          let c := { c with halted := false, armed := true, triggerPending := false }
          if resume then c.run c.remain 0 else c)
      else if resume then s.modChan gch (fun c => c.run c.remain level)
      else if c.act.count = 0 then ((s.modChan gch (fun c => { c with halted := false, done := true, remain := 0 })).setNow (.dmaDone gch)).endSignals gch
      else s.modChan gch (fun c => c.run c.act.count level)

/-- `GO`: the count of triggers missed starts again. -/
def State.goChannel (s : State) (gch : Nat) : State := (s.modChan gch (fun c => { c with missed := 0 })).startChannel gch

/-- `DMA_GO` by the PF. -/
def execDmaGo (stack ch : Nat) (s : State) : Host.Outcome State Fault Refusal :=
  if pfChannel ch then .next (s.goChannel (32 * stack + ch)) else .next s

/-- `DMA_STOP` (R311); an idle channel that awaits no trigger has nothing to stop. -/
def execDmaStop (stack ch : Nat) (s : State) : Host.Outcome State Fault Refusal :=
  let c := s.chan (32 * stack + ch)
  if pfChannel ch && (c.running || c.armed) then .next (s.haltChannel (32 * stack + ch) 0x0401 0) else .next s

/-- The shadow set loaded, the channel continuing under it (R312). -/
def State.loadShadow (s : State) (gch : Nat) : State :=
  (s.modChan gch (fun c => { c with act := c.sh, shadowArmed := false, armed := false, triggerPending := false })).startChannel gch

/-- `DMA_ARM_SHADOW`: an idle channel that is not halted loads the set at once, as though `GO` followed (R312). -/
def execDmaArmShadow (stack ch : Nat) (s : State) : Host.Outcome State Fault Refusal :=
  let g := 32 * stack + ch
  let c := s.chan g
  if !pfChannel ch then .next s
  else
    let s := s.modChan g (fun c => { c with shadowArmed := true })
    if !c.running && !c.halted then .next ((s.loadShadow g).modChan g (fun c => { c with missed := 0 })) else .next s

/-- A write to a register of a set, by its offset: `SRC` 0x00, `DST` 0x08, `COUNT` 0x10, whole or their high words at 4 above (LOG 126),
`CTRL` 0x18, `PACE` 0x1C. -/
def DmaSet.write (d : DmaSet) (off v : Nat) : DmaSet :=
  match off with
  | 0x00 => { d with src := v % 2 ^ 62 }
  | 0x04 => { d with src := (v % 2 ^ 30) * 2 ^ 32 + d.src % 2 ^ 32 }
  | 0x0C => { d with dst := (v % 2 ^ 30) * 2 ^ 32 + d.dst % 2 ^ 32 }
  | 0x14 => { d with count := (v % 2 ^ 8) * 2 ^ 32 + d.count % 2 ^ 32 }
  | 0x08 => { d with dst := v % 2 ^ 62 }
  | 0x10 => { d with count := v % 2 ^ 40 }
  | 0x18 =>
    { d with asLodging := bit v 31, lodging := bits v 23 8, qclass := bits v 20 3, cls := bits v 18 2, priority := bits v 16 2,
             retry := bits v 12 4, srcFixed := bit v 11, dstFixed := bit v 10, burstLog := bits v 7 3, trigger := bits v 1 6,
             intEn := bit v 0 }
  | 0x1C => { d with paceSrc := bits v 28 4, paceDir := bits v 27 1, highKib := bits v 12 12, lowKib := bits v 0 12 }
  | _ => d

/-- `DMA_REG_WRITE`: the active set, the shadow set 0x20 above it, or the RW1C bits of `DMA_CH_STATUS` (R292, R312). -/
def execDmaRegWrite (stack ch off value : Nat) (s : State) : Host.Outcome State Fault Refusal :=
  let g := 32 * stack + ch
  let c := s.chan g
  if !pfChannel ch then .next s
  else if off < 0x20 then
    (if c.running then .next ((s.modChan g (fun c => { c with writeDrop := true })).setNow (.dmaWriteDrop g))
     else .next (s.modChan g (fun c => { c with act := c.act.write off value })))
  else if off < 0x40 then
    (if c.shadowArmed then .next ((s.modChan g (fun c => { c with writeDrop := true })).setNow (.dmaWriteDrop g))
     else .next (s.modChan g (fun c => { c with sh := c.sh.write (off - 0x20) value })))
  else if off = 0x40 then
    .next (s.modChan g (fun c =>
      { c with done := s.cleared (.dmaDone g) c.done (bit value 29), writeDrop := s.cleared (.dmaWriteDrop g) c.writeDrop (bit value 26) }))
  else .next s

/-- `DMA_SWQ_ADJ` (R308). -/
def execDmaSwqAdj (stack q value : Nat) (s : State) : Host.Outcome State Fault Refusal :=
  .next (s.addLevel stack q (signedOf 32 value))

/-- `DMA_TIMER_FIRE`: when the time base modulo the period equals the phase, and not while it is held (R305; 11, R289). -/
def execDmaTimerFire (stack t : Nat) (s : State) : Host.Outcome State Fault Refusal :=
  let r := s.dmaRegs stack
  let period := r.period.get t 0
  if period ≠ 0 ∧ s.now % period = r.phase.get t 0 ∧ !s.holding then .next (s.triggerAll stack t 32) else .next s

/-! ### The commands (R298 to R302) -/

/-- Fields of a copy or fill packet. -/
def copyFields (op : Nat) : List (Nat × Nat) × List (Nat × Nat) :=
  if op = 0x0402 then ([(24, 57), (32, 40), (48, 64)], [(40, 2)]) else ([(16, 57), (24, 57), (32, 40), (40, 2)], [])

/-- The checks of R300 after the reserved bits, in the table's order; within a row the lowest offset first. -/
def copyBad (c : Cmd) : Option Status :=
  let fill := c.opcode == 0x0402
  let sf := !fill && bit (c.f 40 1) 0
  let df := bit (c.f 40 1) 1
  let n := c.f 32 8
  if sf ∧ c.f 16 8 % 32 ≠ 0 then some (0x0202, 16)
  else if df ∧ c.f 24 8 % 32 ≠ 0 then some (0x0202, 24)
  else if (sf ∨ df) ∧ n % 32 ≠ 0 then some (0x0202, 32)
  else if !fill ∧ !sf ∧ !df ∧ overlaps (c.f 16 8) n (c.f 24 8) n ∧ n ≠ 0 then some (0x0202, 24)
  else none

/-- A copy that runs. -/
def State.copy? (s : State) (id : Nat) : Option CopyOp := s.dma.copies.find? (fun c => c.cmd == id)

/-- A copy changed. -/
def State.modCopy (s : State) (id : Nat) (f : CopyOp → CopyOp) : State :=
  { s with dma := { s.dma with copies := s.dma.copies.map (fun c => if c.cmd == id then f c else c) } }

/-- The command channels of a stack that a contract assigns to a lodging (R301; 13, R326). -/
def State.cmdChannels (s : State) (l k : Nat) : List Nat :=
  match s.contract? l with
  | some c => (setBits (c.dmaCh.getD k 0) 24).map (fun x => 32 * k + x)
  | none => []

/-- Bytes of the segment that starts at an offset: 1 MiB, or all with a fixed side (R301). -/
def CopyOp.segBytes (c : CopyOp) : Nat := if c.srcFixed ∨ c.dstFixed then c.length else min (2 ^ 20) (c.length - c.nextSeg)

/-- The register set of a segment. -/
def CopyOp.segSet (c : CopyOp) (priority qclass : Nat) : DmaSet :=
  { DmaSet.reset with
    src := if c.srcFixed then c.src else c.src + c.nextSeg, dst := if c.dstFixed then c.dst else c.dst + c.nextSeg,
    count := c.segBytes, asLodging := true, lodging := c.lod, qclass := qclass, priority := priority,
    srcFixed := c.srcFixed, dstFixed := c.dstFixed }

/-- Segments dealt to the free channels in ascending order while the command has not failed (R301). -/
def State.dealSegments (s : State) (id : Nat) : List Nat → State
  | [] => s
  | g :: r =>
    match s.copy? id, s.cmd? id with
    | some c, some m =>
      if s.opLive id && decide (c.nextSeg < c.length) && !(s.chan g).running && (s.chan g).cmd.isNone then
        let set := c.segSet (s.galley m.lod m.g).desc.priority m.qclass
        let s := s.modChan g (fun x => { ({ x with act := set }).run set.count 0 with cmd := some id, done := false })
        let s := s.modCopy id (fun c => { c with nextSeg := c.nextSeg + c.segBytes, running := c.running + 1 })
        s.dealSegments id r
      else s.dealSegments id r
    | _, _ => s

/-- A copy with no segment running and none left to deal ends (R301). -/
def State.settleCopy (s : State) (id : Nat) : State :=
  match s.copy? id with
  | none => s
  | some c => if c.running = 0 ∧ (¬ s.opLive id ∨ c.nextSeg ≥ c.length) then s.finish id c.written else s

/-- Every running copy of a stack dealt segments, oldest first. -/
def State.dealAll (s : State) (k : Nat) : State :=
  (s.dma.copies.filter (fun c => c.stack == k)).foldl (fun s c => s.dealSegments c.cmd (s.cmdChannels c.lod k)) s

/-- What a copy or fill does when it starts. -/
def State.startCopy (s : State) (c : Cmd) : State :=
  let fill := c.opcode == 0x0402
  let op : CopyOp :=
    { cmd := c.id, lod := c.lod, stack := c.stack, remote := c.opcode == 0x0403, fill := fill, pattern := c.f 48 8,
      src := c.f 16 8, dst := c.f 24 8, length := c.f 32 8, srcFixed := !fill && bit (c.f 40 1) 0, dstFixed := bit (c.f 40 1) 1,
      nextSeg := 0, running := 0, written := 0 }
  let s := { s with dma := { s.dma with copies := s.dma.copies ++ [op] } }
  (s.dealSegments c.id (s.cmdChannels c.lod c.stack)).settleCopy c.id

/-- A command channel's segment ended or halted. -/
def State.segmentEnded (s : State) (gch : Nat) (f : Option Status) : State :=
  let c := s.chan gch
  match c.cmd with
  | none => s
  | some id =>
    let s := match f with | some f => s.failCmd id f.1 f.2 | none => s
    let s := s.modCopy id (fun o => { o with running := o.running - 1, written := o.written + c.position })
    let s := s.modChan gch (fun c => { c with running := false, halted := false, cmd := none })
    (s.dealAll (gch / 32)).settleCopy id

/-- A channel halted by an error: a command channel ends its command's segment. -/
def State.channelError (s : State) (gch st d : Nat) : State := (s.haltChannel gch st d).segmentEnded gch (some (st, d))

/-! ### Bursts (R293, R295 to R297, R302, R306, R307, R309) -/

/-- The lodging for which a channel's accesses go: 256 is the device itself (R296). -/
def DmaSet.owner (d : DmaSet) : Nat := if d.asLodging then d.lodging else 256

/-- Addresses of one side of a burst: the position for an incrementing side. -/
def sideAddr (base : Nat) (fixed : Bool) (pos : Nat) : Nat := if fixed then base else base + pos

/-- Physical pieces of a range as a channel names it. In rescue mode a channel that acts for a lodging copies out to host addresses (17;
LOG 94): the destination's low 51 bits. -/
def State.dmaPieces (s : State) (d : DmaSet) (isSrc : Bool) (a n : Nat) : Except Nat (List (Nat × Nat)) :=
  if s.rel.mode = 2 ∧ !isSrc ∧ d.asLodging then .ok [(2 ^ 51 + a % 2 ^ 51, n)]
  else if d.asLodging then s.transRange d.lodging a n (if isSrc then permRead else permWrite)
  else if a % 4096 + n ≤ 4096 then .ok [(a, n)]
  else .ok [(a, 4096 - a % 4096), (a + (4096 - a % 4096), n - (4096 - a % 4096))]

/-- What one side of a burst comes to. -/
inductive Side (α : Type) where
  | ok (s : State) (r : α)
  | wait (s : State)
  | fail (s : State)
  | halt (s : State) (st d : Nat)

/-- A remote line asked of its home for a channel; nothing where the home cannot be reached. -/
def State.askLine (s : State) (gch lod line : Nat) : Option State :=
  if s.fab.txns.any (fun (t : Txn) => t.kind == .dma gch true && t.addr == 128 * line) then some s
  else
    let h := s.sendHomes (s.reduceOf lod line)
    if !h.2.isEmpty then none
    else
      let t := h.1.newTxn lod (128 * line) (.dma gch true)
      match t.1.cylSend (deviceOf (128 * line)) opRead (localOf (128 * line)) (t.2 % 2 ^ 16) [BitVec.ofNat 8 15] (some t.2) with
      | .sent s' => some s'
      | .held => some s
      | .unreachable => none

/-- Poison by byte from poison by sector of a range. -/
def byteFlags (a n : Nat) (ps : List Bool) : List Bool :=
  ((pieces a n).zipIdx.map (fun x => List.replicate x.1.2.2 (ps.getD x.2 false))).flatten

/-- Layer, operator and class of a channel's traffic: its command's, or its own class (R296). -/
def State.chanIds (s : State) (gch : Nat) : Nat × Nat :=
  match (s.chan gch).cmd with
  | some id => s.idsOf id
  | none => (0, 2 ^ 16 * (s.chan gch).act.qclass)

/-- One physical piece read for a channel, cut at lines where it is remote. Command channels of `COPY` read remote lines as core
code does; others read each from its home (R302). -/
def State.dmaReadPiece (s : State) (gch : Nat) (cached : Bool) (operand : Nat) (ans : HostAns) (pa n : Nat) :
    Side (List Byte × List Bool) :=
  let c := s.chan gch
  let lod := c.act.owner
  match placeOf pa with
  | .remote =>
    if cached then
      match s.remoteLine lod (pa / 128) with
      | .bytes s b p => .ok s (slice b (pa % 128) n, (List.range n).map (fun i => bit p ((pa + i) % 128 / 32)))
      | .wait s' => .wait s'
      | .fault s st _ => if st = 0x0305 ∨ st = 0x0502 then .fail s else .halt s st operand
      | .unreachable s => .fail s
    else
      match c.lines.find? (fun e => e.1 == pa / 128) with
      | some e => .ok s (slice e.2.1 (pa % 128) n, (List.range n).map (fun i => bit e.2.2 ((pa + i) % 128 / 32)))
      | none =>
        match s.askLine gch lod (pa / 128) with
        | some s' => .wait s'
        | none => .fail s
  | .host =>
    match ans with
    | .unsupported => .halt s 0x0301 operand
    | .abort => .fail s
    | .timeout => .fail s
    | a =>
      let r := s.readRange lod pa n (s.chanIds gch)
      .ok (if a = .ep then r.1.logHost lod a else r.1) (r.2.1, List.replicate n (a == .ep))
  | .hbm =>
    let r := s.readRange lod pa n (s.chanIds gch)
    .ok r.1 (r.2.1, byteFlags pa n r.2.2)
  | .scratch =>
    match s.withdrawn pa with
    | some k => .halt s 0x0501 k
    | none =>
      let r := s.readRange lod pa n (s.chanIds gch)
      .ok r.1 (r.2.1, byteFlags pa n r.2.2)
  | _ => .halt s 0x0304 operand

/-- Pieces read in order; every remote line of them is asked for before the burst waits. -/
def State.dmaReadPieces (s : State) (gch : Nat) (cached : Bool) (operand : Nat) (ans : HostAns) :
    List (Nat × Nat) → Side (List Byte × List Bool)
  | [] => .ok s ([], [])
  | (pa, n) :: r =>
    match s.dmaReadPiece gch cached operand ans pa n with
    | .ok s' x =>
      match s'.dmaReadPieces gch cached operand ans r with
      | .ok s'' y => .ok s'' (x.1 ++ y.1, x.2 ++ y.2)
      | z => z
    | .wait s' =>
      match s'.dmaReadPieces gch cached operand ans r with
      | .ok s'' _ => .wait s''
      | z => z
    | z => z

/-- Physical pieces cut at remote lines. -/
def cutLines (ps : List (Nat × Nat)) : List (Nat × Nat) := (ps.map (fun p => linePieces p.1 p.2 (p.2 / 128 + 2))).flatten

/-- The copy that a channel runs a segment of. -/
def State.chanCopy? (s : State) (gch : Nat) : Option CopyOp :=
  match (s.chan gch).cmd with
  | some id => s.copy? id
  | none => none

/-- Whether a channel reads remote lines as core code would: one of `COPY` (R302). -/
def State.readsCached (s : State) (gch : Nat) : Bool :=
  match s.chanCopy? gch with
  | some o => !o.remote
  | none => false

/-- The bytes that a burst reads: its address and their number. -/
def DmaCh.srcRange (c : DmaCh) (n : Nat) : Nat × Nat :=
  (sideAddr c.act.src c.act.srcFixed c.position, if c.act.srcFixed then 32 else n)

/-- The source of a burst read; a fixed source gives its sector for every sector of the burst. -/
def State.dmaReadSource (s : State) (gch n : Nat) (ans : HostAns) : Side (List Byte × List Bool) :=
  let c := s.chan gch
  let r := c.srcRange n
  match s.dmaPieces c.act true r.1 r.2 with
  | .error st => .halt s st 0
  | .ok ps =>
    match s.dmaReadPieces gch (s.readsCached gch) 0 ans (cutLines ps) with
    | .ok s' x =>
      let s' := s'.useUpPieces c.act.owner (cutLines ps)
      if c.act.srcFixed then .ok s' ((List.replicate (n / 32) x.1).flatten, (List.replicate (n / 32) x.2).flatten) else .ok s' x
    | y => y

/-- The data of a burst (R295); `FILL` gives its pattern (R299). -/
def State.dmaRead (s : State) (gch n : Nat) (ans : HostAns) : Side (List Byte × List Bool) :=
  let c := s.chan gch
  let dst := sideAddr c.act.dst c.act.dstFixed c.position
  match s.chanCopy? gch with
  | some o =>
    if o.fill then .ok s ((List.range n).map (fun i => BitVec.ofNat 8 (bits o.pattern (8 * ((dst + i) % 8)) 8)), List.replicate n false)
    else s.dmaReadSource gch n ans
  | none => s.dmaReadSource gch n ans

/-- The operand number of a channel's destination: 0 for `FILL` (R298, R299). -/
def State.dstOperand (s : State) (gch : Nat) : Nat :=
  match s.chanCopy? gch with
  | some o => if o.fill then 0 else 1
  | none => 1

/-- Whether the first `n` bytes of one side of a burst can be reached: translated, permitted, in no hole and in no withdrawn frame. -/
def State.sideReached (s : State) (gch : Nat) (isSrc : Bool) (n : Nat) : Bool :=
  let c := s.chan gch
  let fixed := if isSrc then c.act.srcFixed else c.act.dstFixed
  let a := sideAddr (if isSrc then c.act.src else c.act.dst) fixed c.position
  match s.dmaPieces c.act isSrc a (if fixed then 32 else n) with
  | .error _ => false
  | .ok ps => ps.all (fun p => placeOf p.1 != .hole && placeOf p.1 != .registers && (s.withdrawn p.1).isNone)

/-- The bytes of the channel's next burst (R295). Translation and permission are checked as each page is reached (R300): a burst that would
fault in a later page than its first ends before that page. -/
def State.burstLen (s : State) (gch : Nat) : Nat :=
  let c := s.chan gch
  let n := c.burstBytes
  let cut := fun (base : Nat) (fixed : Bool) => if fixed then n else min n (4096 - (base + c.position) % 4096)
  let fill := match s.chanCopy? gch with | some o => o.fill | none => false
  let ok := fun (m : Nat) => (fill || s.sideReached gch true m) && s.sideReached gch false m
  let best := ([n, cut c.act.src c.act.srcFixed, cut c.act.dst c.act.dstFixed].filter ok).foldl max 0
  if best = 0 then n else best

/-- One sector piece written for a channel; a remote home's acknowledgement is awaited. -/
def State.dmaStore (s : State) (gch operand pa : Nat) (b : List Byte) (p : Bool) : Side Unit :=
  let lod := (s.chan gch).act.owner
  match placeOf pa with
  | .remote =>
    match s.remoteStore lod pa b (.dma gch false) p with
    | .held => .wait s
    | .unreachable => .fail s
    | .sent s' => .ok s' ()
  | .host => .ok (s.writeRange lod pa b p (s.chanIds gch)) ()
  | .registers => .halt s 0x0304 operand
  | .hole => .halt s 0x0304 operand
  | _ =>
    if s.rel.mode = 2 then .halt s 0x0500 0
    else
      match s.withdrawn pa with
      | some k => .halt s 0x0501 k
      | none => .ok (s.writeRange lod pa b p (s.chanIds gch)) ()

/-- A write of the channel's burst issued. -/
def DmaCh.issued (c : DmaCh) : DmaCh := { c with burst := c.burst.map (fun b => { b with sent := b.sent + 1 }) }

/-- The sectors of a range written in ascending order with their poison, each counted for its stack (R297; 19, R422), until one must wait for
credit. -/
def State.dmaStores (s : State) (gch operand : Nat) : List (Nat × List Byte × Bool) → Side Unit
  | [] => .ok s ()
  | (pa, b, p) :: r =>
    match s.dmaStore gch operand pa b p with
    | .ok s' _ => ((s'.addBytes (fixedOf (gch / 32) 0x30) b.length).modChan gch DmaCh.issued).dmaStores gch operand r
    | y => y

/-- The sector writes of data laid over physical pieces. -/
def sectorWrites : List (Nat × Nat) → List Byte → List Bool → List (Nat × List Byte × Bool)
  | [], _, _ => []
  | (pa, n) :: r, b, f =>
    ((pieces pa n).map (fun x =>
      let o := 32 * x.1 + x.2.1 - pa
      (pa + o, slice b o x.2.2, ((f.take n).drop o |>.take x.2.2).any id))) ++ sectorWrites r (b.drop n) (f.drop n)

/-- The staged data written to its destination (R173, R295): a fixed destination takes every sector in turn. -/
def State.dmaWrite (s : State) (gch : Nat) (b : List Byte) (f : List Bool) : Side Unit :=
  let c := s.chan gch
  let operand := s.dstOperand gch
  let a := sideAddr c.act.dst c.act.dstFixed c.position
  match s.dmaPieces c.act false a (if c.act.dstFixed then 32 else b.length) with
  | .error st => .halt s st operand
  | .ok ps =>
    let ws :=
      if c.act.dstFixed then
        ((List.range (b.length / 32)).map (fun i => sectorWrites ps (slice b (32 * i) 32) ((f.drop (32 * i)).take 32))).flatten
      else sectorWrites ps b f
    s.dmaStores gch operand (ws.drop (match c.burst with | some x => x.sent | none => 0))

/-- Retries allowed to a channel: `DMA_CMD_RETRY` for command channels (R302, R309). -/
def State.retries (s : State) (gch : Nat) : Nat :=
  if gch % 32 < 24 then (s.dmaRegs (gch / 32)).cmdRetry else (s.chan gch).act.retry

/-- A burst failed: its transactions become late arrivals, and it is retried after its backoff or the channel halts with
0x0402 (R309, R310). -/
def State.burstFail (s : State) (gch : Nat) : State :=
  let c := s.chan gch
  let wrote := match c.burst with | some b => decide (0 < b.sent) | none => false
  let s := { s with fab := { s.fab with txns := s.fab.txns.map (fun (t : Txn) => match t.kind with | .dma g _ => if g = gch then { t with kind := .dmaLate gch } else t | _ => t) } }
  let tries := c.attempts + 1
  if c.act.dstFixed && wrote then s.channelError gch 0x0402 1
  else if tries > s.retries gch then s.channelError gch 0x0402 tries
  else
    s.modChan gch (fun c =>
      { c with burst := none, staging := [], stagingPoison := [], lines := [], attempts := tries,
               retryAt := some ((s.now + 1000 * 2 ^ (tries - 1)) % 2 ^ 48) })

/-- A burst whose writes are all acknowledged: its bytes are written (R295, R309). -/
def State.burstDone (s : State) (gch : Nat) : State :=
  if s.fab.txns.any (fun (t : Txn) => t.kind == .dma gch false) then s
  else
    match (s.chan gch).burst with
    | none => s
    | some b =>
      if b.writesIssued then
        s.modChan gch (fun c =>
          { c with remain := c.remain - b.bytes, burst := none, staging := [], stagingPoison := [], lines := [],
                   reserved := false, attempts := 0 })
      else s

/-- Whether a channel could start a burst now: running, bytes left, no burst in progress, no backoff, and in class F its request
asserted or its credit reserved. -/
def DmaCh.ready (c : DmaCh) : Bool :=
  c.running && decide (c.remain ≠ 0) && c.burst.isNone && c.retryAt.isNone && (c.act.cls != 2 || c.asserted || c.reserved)

/-- The channel of an engine that starts the next burst: the highest priority, round robin among equals (R293). -/
def State.engineNext (s : State) (gch : Nat) : Option Nat :=
  let e := gch / 8
  let cs := (List.range 8).filter (fun i => (s.chan (8 * e + i)).ready)
  let top := cs.foldl (fun m i => max m (s.chan (8 * e + i)).act.priority) 0
  (nextRound 8 (s.dma.arb.get e 7) (fun i => cs.contains i && (s.chan (8 * e + i)).act.priority == top)).map (fun i => 8 * e + i)

/-- The credit of a class F burst reserved from its source (R306, R308). -/
def State.reserve (s : State) (gch n : Nat) : State :=
  let c := s.chan gch
  if c.act.cls = 2 ∧ !c.reserved then
    (s.modChan gch (fun c => { c with reserved := true })).addLevel (gch / 32) c.act.paceSrc (if c.act.paceDir = 0 then -(n : Int) else n)
  else s

/-- A burst carried on: read into staging, then written. -/
def State.runBurst (s : State) (gch : Nat) (ans : HostAns) : State :=
  let c := s.chan gch
  match c.burst with
  | none => s
  | some b =>
    if b.writesIssued then s
    else
      let staged : Side (List Byte × List Bool) :=
        if b.readDone then .ok s (c.staging, c.stagingPoison) else s.dmaRead gch b.bytes ans
      match staged with
      | .wait s' => s'
      | .fail s' => s'.burstFail gch
      | .halt s' st d => s'.channelError gch st d
      | .ok s' x =>
        let s := s'.modChan gch (fun c => { c with staging := x.1, stagingPoison := x.2, burst := some { b with readDone := true } })
        match s.dmaWrite gch x.1 x.2 with
        | .wait s' => s'
        | .fail s' => s'.burstFail gch
        | .halt s' st d => s'.channelError gch st d
        | .ok s' _ => (s'.modChan gch (fun c => { c with burst := c.burst.map (fun b => { b with writesIssued := true }) })).burstDone gch

/-- `DMA_BURST_START`: a new burst of the channel whose turn its engine gives, or one in progress carried on. -/
def execDmaBurstStart (stack ch : Nat) (ans : HostAns) (s : State) : Host.Outcome State Fault Refusal :=
  let g := 32 * stack + ch
  let c := s.chan g
  if c.running && c.burst.isSome then .next (s.runBurst g ans)
  else if c.ready && s.engineNext g == some g then
    let n := s.burstLen g
    let s := { s with dma := { s.dma with arb := s.dma.arb.set (g / 8) (g % 8) } }
    let s := (s.reserve g n).modChan g (fun c => { c with burst := some { bytes := n, readDone := false, sent := 0, writesIssued := false } })
    .next (s.runBurst g ans)
  else .next s

/-- `DMA_END_OF_COUNT`: a run whose bytes are all written: its interrupt, its command's next segment or its shadow set, a trigger that was
held, and the channels that its end of count triggers (R301, R303, R304, R312, R314). -/
def execDmaEndOfCount (stack ch : Nat) (s : State) : Host.Outcome State Fault Refusal :=
  let g := 32 * stack + ch
  let c := s.chan g
  if c.running && c.remain == 0 && c.burst.isNone then
    let s := ((s.modChan g (fun c => { c with running := false, done := true, asserted := false, triggerPending := false })).setNow
      (.dmaDone g)).endInterrupt g
    let s := if c.cmd.isSome then s.segmentEnded g none else if c.shadowArmed then s.loadShadow g else s
    .next ((if c.triggerPending then s.triggerEach 32 [g] else s).endTrigger g)
  else .next s

/-- Whether a request of a channel's burst went out 100 µs ago or earlier and has no response: a read or a write to a home, or the fetch of a
line that `COPY` reads as core code would. -/
def State.burstOverdue (s : State) (gch : Nat) (b : Burst) : Bool :=
  let c := s.chan gch
  let r := c.srcRange b.bytes
  let lines := if b.readDone || !s.readsCached gch then []
    else match s.dmaPieces c.act true r.1 r.2 with
      | .ok ps => (cutLines ps).map (fun p => p.1 / 128)
      | .error _ => []
  s.fab.txns.any (fun t => decide (s.since t.issued ≥ 100000) &&
    (match t.kind with
     | .dma g _ => g == gch
     | .fetch l n _ => l == c.act.owner && lines.contains n
     | _ => false))

/-- `DMA_BURST_TIMEOUT`: no response 100 µs after a read or a write to a home was issued (R309, R310). -/
def execDmaBurstTimeout (stack ch : Nat) (s : State) : Host.Outcome State Fault Refusal :=
  let g := 32 * stack + ch
  match (s.chan g).burst with
  | some b => if (s.chan g).running && s.burstOverdue g b then .next (s.burstFail g) else .next s
  | none => .next s

/-- `DMA_RETRY_START`: the backoff is over, and the burst starts again from its first byte (R309). -/
def execDmaRetryStart (stack ch : Nat) (s : State) : Host.Outcome State Fault Refusal :=
  let g := 32 * stack + ch
  match (s.chan g).retryAt with
  | some t =>
    if (s.chan g).running && decide (elapsed t s.now < 2 ^ 47) then
      let b : Burst := { bytes := s.burstLen g, readDone := false, sent := 0, writesIssued := false }
      .next (s.modChan g (fun c => { c with retryAt := none, burst := some b }))
    else .next s
  | none => .next s

/-- A remote line or a late response for a channel (R310); `poison` marks all its sectors. -/
def State.dmaLine (s : State) (gch line : Nat) (b : List Byte) (poison : Nat) : State :=
  s.modChan gch (fun c => { c with lines := c.lines.set line (b, poison) })

/-- A response that a failed burst no longer awaits (R310; 19, R414). -/
def State.dmaLateArrival (s : State) (gch : Nat) : State :=
  (s.modDmaRegs (gch / 32) (fun r => { r with lateDiscard := wrap32 (r.lateDiscard + 1) })).log (unitEngine gch) 0x11 0 0 0

end Sys2Proof.Machine
end

