-- ==== Sys2Proof/Machine/Regulate.lean ====
section
/-! DEFINITION. Precedence of guarantees and breaches (13, R330 to R333), time-sliced clusters (13, R328, R329), and the regulator of
shared resources (14). -/

namespace Sys2Proof.Machine

/-! ### Breaches (13, R330 to R334) -/

/-- `RESOURCE` of a breach (R334). -/
def breachResource (level key : Nat) : Nat :=
  if level = 5 then (if key / 8 < 8 then 3 else if key / 8 < 12 then 4 else 5) else if level = 6 then 6 else key

/-- A breach opened or closed for a lodging, with its event; one that stands as it was raises none. -/
def State.setBreach (s : State) (l level key detail : Nat) (opens : Bool) : State :=
  let was := (s.lod l).breaches.contains (level, key)
  if was == opens then s
  else
    let s := s.modLod l (fun x =>
      { x with breaches := if opens then x.breaches ++ [(level, key)] else x.breaches.filter (· != (level, key)) })
    s.event l ((if opens then 0x10 else 0x20) + level) (breachResource level key) detail

/-- Columns of a cluster that take work (17, R386). -/
def State.liveColumns (s : State) (d : Nat) : Nat :=
  if s.clusterServes d then (List.range 8).countP (fun i => (s.core (8 * d + i)).served != .noCore) else 0

/-- Columns that take work among the clusters of a mask. -/
def State.liveIn (s : State) (mask : Nat) : Nat := ((setBits mask 32).map (fun d => s.liveColumns d)).sum

/-- Whether a lodging has work that needs cores. -/
def State.hasWork (s : State) (l : Nat) : Bool :=
  s.mats.any (fun m => m.lod == l && s.opLive m.cmd) || s.attns.any (fun m => m.lod == l && s.opLive m.cmd)
    || s.launches.any (fun m => m.lod == l && s.opLive m.cmd) || s.blocks.any (fun b => b.lod == l)

/-- The lodgings whose pool a cluster is. -/
def State.sharers (s : State) (d : Nat) : List (Nat × Nat) :=
  (s.lods.filterMap (fun e => match e.2.contract with | some c => if bit c.shared d then some (e.1, c.weight) else none | none => none))

/-- Columns of a pool cluster, in 1/65,536, that are committed to lodgings with work (R330 worked example: by `WEIGHT`). -/
def State.committed (s : State) (d : Nat) : Nat :=
  let all := s.sharers d
  let w := (all.map (·.2)).sum
  if w = 0 then 0 else ((all.filter (fun x => s.hasWork x.1)).map (·.2)).sum * (8 * 65536) / w

/-- Frames of a contract in one slice of a stack (08, R213). -/
def Contract.framesIn (c : Contract) (k n : Nat) : Nat :=
  c.cacheFrames.getD k 0 + c.hashRows.getD k 0 + (if bit (c.affSlices.getD k 0) n then c.affRows.getD k 0 else 0)

/-- A holder of a resource: its lodging, its `WEIGHT` and what it holds. -/
structure Holder where
  lod : Nat
  weight : Nat
  held : Nat
  deriving DecidableEq, Repr

/-- What each holder loses of a loss (R332): by weight, none more than it holds, the excess shared again among the others. -/
def shareLoss : Nat → Nat → List Holder → List (Nat × Nat)
  | 0, _, _ => []
  | n + 1, loss, hs =>
    let w := (hs.map (·.weight)).sum
    let takesAll := fun (h : Holder) => decide (loss * h.weight ≥ h.held * w)
    let out := hs.filter takesAll
    if w = 0 then []
    else if out = [] then hs.map (fun h => (h.lod, loss * h.weight / w))
    else out.map (fun h => (h.lod, h.held)) ++ shareLoss n (loss - (out.map (·.held)).sum) (hs.filter (fun h => !takesAll h))

/-- What one holder loses of a loss. -/
def lossOf (loss : Nat) (hs : List Holder) (l : Nat) : Nat := ((shareLoss hs.length loss hs).lookup l).getD 0

/-- The share retained in 1/1,024, of `held` with `lost` gone (R334). -/
def retained (held lost : Nat) : Nat := if held = 0 then 1024 else 1024 * (held - lost) / held

/-- The active lodgings that hold a resource, with what each holds of it. -/
def State.holders (s : State) (held : Contract → Nat) : List Holder :=
  (s.lods.filterMap (fun e =>
    match e.2.contract with
    | some c => if e.2.state = .active then some { lod := e.1, weight := c.weight, held := held c } else none
    | none => none)).filter (fun h => h.held != 0)

/-- What a lodging is committed of the pool clusters of a mask, in 1/65,536 of a column: its part of each by `WEIGHT`. -/
def State.poolShare (s : State) (c : Contract) (mask : Nat) : Nat :=
  ((setBits mask 32).map (fun d =>
    if bit c.shared d then c.weight * (8 * 65536) / ((s.sharers d).map (·.2)).sum else 0)).sum

/-- Shares of cores recomputed for one lodging: fair share (level 7), then committed capacity (level 4). What the pool lacks of the
shares of the lodgings with work is taken from these (R332); a dedicated cluster's loss is its lodging's. -/
def State.coreShares (s : State) (l : Nat) (c : Contract) : State :=
  let nomS := 8 * popcount c.shared 32
  let liveS := s.liveIn c.shared
  let nomD := 8 * popcount c.dedicated 32
  let liveD := s.liveIn c.dedicated
  let busy := (s.holders (fun d => s.poolShare d c.shared)).filter (fun h => s.hasWork h.lod)
  let need := ((setBits c.shared 32).map (fun d => s.committed d)).sum
  let lost := 65536 * (nomD - liveD) + lossOf (need - 65536 * liveS) busy l
  let s := s.setBreach l 7 0 (retained nomS (nomS - liveS)) (decide (liveS < nomS))
  s.setBreach l 4 0 (retained (65536 * nomD + s.poolShare c c.shared) lost) (decide (lost ≠ 0))

/-- Frames in 1/65,536 that a lodging loses in one slice: all it holds of a retired slice, and of its relief partner its part of what
that slice lacks once the bitmap's frame is taken (17, R386). -/
def State.framesLost (s : State) (l : Nat) (c : Contract) (col : Nat) : Nat :=
  let k := stackOf col
  let n := col % 64
  if (s.sliceAt col).retired then 65536 * c.framesIn k n
  else if (s.sliceAt (partnerOf col)).retired then
    let hs := s.holders (fun d => 65536 * d.framesIn k n)
    lossOf ((hs.map (·.held)).sum - 65536 * 511) hs l
  else 0

/-- Cytil port capacity in 1/256 of the nominal one that a port has now. -/
def CytilPort.live (q : CytilPort) : Nat := if q.upEn && !q.up then 0 else if q.halfWidth then 128 else 256

/-- Shares of Stonos frames, HBM4 and Cytil ports recomputed for one lodging: what it holds of a retired slice or channel is its own
loss, and what a port lacks of the shares committed there is taken by weight (R332). A port's loss meets fair share first (R330). -/
def State.memoryShares (s : State) (l : Nat) (c : Contract) : State :=
  let frames := ((List.range 256).map (fun col => 65536 * c.framesIn (stackOf col) (col % 64))).sum
  let framesLost := ((List.range 256).map (fun col => s.framesLost l c col)).sum
  let lostChans := (List.range 256).countP (fun col => (s.channel col).retired || (s.channel col).failed)
  let lostChans := if c.extents = [] then 0 else lostChans
  let ports := (List.range 12).filter (fun p => c.portShare.getD p 0 != 0)
  let shares := (ports.map (fun p => 65536 * c.portShare.getD p 0)).sum
  let sharesLost := (ports.map (fun p =>
    let hs := s.holders (fun d => 65536 * d.portShare.getD p 0)
    lossOf ((hs.map (·.held)).sum - 65536 * (s.port p).live) hs l)).sum
  let live := (ports.map (fun p => (s.port p).live)).sum
  let s := s.setBreach l 4 1 (retained frames framesLost) (decide (framesLost ≠ 0))
  let s := s.setBreach l 4 2 (retained 256 lostChans) (decide (lostChans ≠ 0))
  let s := s.setBreach l 7 5 (retained (256 * ports.length) (256 * ports.length - live)) (decide (live < 256 * ports.length))
  s.setBreach l 4 5 (retained shares sharesLost) (decide (sharesLost ≠ 0))

/-- The Innkeeper recomputes shares (R332, R333). -/
def State.recomputeShares (s : State) : State :=
  (s.lods.map (·.1)).foldl (fun s l =>
    match s.contract? l with
    | some c => if (s.lod l).state = .active then (s.coreShares l c).memoryShares l c else s
    | none => s) s

/-! ### Units discarded (04, R88) -/

/-- A unit in progress on a column discarded: it is run again elsewhere, or given up where its command runs no more (04, R88, R113; 06,
R169). -/
def State.discardUnit (s : State) (col : Nat) : State :=
  match (s.core col).run with
  | .idle => s
  | .mat u => if s.opLive u.key.cmd then s.setRun col .idle else s.giveUpUnit u.key.cmd col
  | .attn u => if s.opLive u.key.cmd then s.setRun col .idle else s.giveUpAttn u.key.cmd col

/-- Units in progress on some columns discarded. -/
def State.discardUnits (s : State) (cols : List Nat) : State := cols.foldl (fun s c => s.discardUnit c) s

/-- The columns of a cluster. -/
def columnsOf (d : Nat) : List Nat := (List.range 8).map (· + 8 * d)

/-- Commands that failed while units of theirs ran end once no unit runs. -/
def State.sweepFailed (s : State) : State :=
  (s.cmds.map (·.id)).foldl (fun s id =>
    if (s.mats.any (fun m => m.cmd == id)) && !s.opLive id then s.endFailedMat id
    else if (s.attns.any (fun m => m.cmd == id)) && !s.opLive id then s.endFailedAttn id else s) s

/-! ### Turns (13, R328, R329, R335) -/

/-- Whether a lodging has work for a pool cluster. -/
def State.wantsTurn (s : State) (l : Nat) : Bool := (s.lod l).state == .active && s.hasWork l

/-- Smooth weighted round robin: every lodging with work gains its weight, the richest, ties to the lowest, pays the sum. -/
def nextTurn (credit : Tab Int) (ws : List (Nat × Nat)) : Option (Nat × Tab Int) :=
  let total : Int := (((ws.map (·.2)).sum : Nat) : Int)
  let credit := ws.foldl (fun t w => t.set w.1 (t.get w.1 0 + w.2)) credit
  match ws with
  | [] => none
  | w :: r =>
    let best := r.foldl (fun a x => if credit.get x.1 0 > credit.get a.1 0 ∨ (credit.get x.1 0 = credit.get a.1 0 ∧ x.1 < a.1) then x else a) w
    some (best.1, credit.set best.1 (credit.get best.1 0 - total))

/-- The blocks of a lodging on a cluster saved, or restored. -/
def State.saveBlocks (s : State) (l d : Nat) (saved : Bool) : State :=
  { s with blocks := s.blocks.map (fun (b : Block) => if b.lod = l ∧ clusterOf b.col = d then { b with saved := saved } else b) }

/-- Time in ns that saving, and restoring, a cluster's cores takes: 6,815,744 bytes at 512 GB/s (R328; LOG 37). -/
def saveNs : Nat := 13312

/-- A pool cluster passed from one lodging to another (R328). -/
def State.switchTurn (s : State) (d : Nat) (from' : Option Nat) (to' : Nat) (credit : Tab Int) : State :=
  let quantum := s.quantumUs
  let mine := match from' with | some a => s.blocks.filter (fun (b : Block) => b.lod == a && clusterOf b.col == d && !b.saved) | none => []
  let s := match from' with
    | some a => ((s.discardUnits (columnsOf d)).saveBlocks a d true).sweepFailed
    | none => s
  let theirs := s.blocks.any (fun (b : Block) => b.lod == to' && clusterOf b.col == d && b.saved)
  let s := s.saveBlocks to' d false
  let start := (s.now + (if mine.isEmpty then 0 else saveNs)) % 2 ^ 48
  let t : Turn := { lod := some to', since := s.now, quantum := quantum, credit := credit, switchUntil := some start,
                    restoreUntil := some ((start + (if theirs then saveNs else 0)) % 2 ^ 48) }
  { s with turns := s.turns.set d t }

/-- The lodging that has a cluster keeps it for another turn. -/
def State.keepTurn (s : State) (d : Nat) (credit : Tab Int) : State :=
  let t := s.turn d
  { s with turns := s.turns.set d { t with since := s.now, quantum := s.quantumUs, credit := credit } }

/-- The lodging that has a pool cluster, while it still shares it. -/
def State.turnHolder (s : State) (d : Nat) : Option Nat :=
  match (s.turn d).lod with
  | some a => if (s.sharers d).any (fun x => x.1 == a) then some a else none
  | none => none

/-- `TURN_END` of a pool cluster: after its quantum, or at once where no lodging has it. -/
def execTurnEnd (cluster : Nat) (s : State) : Host.Outcome State Fault Refusal :=
  let t := s.turn cluster
  let ws := (s.sharers cluster).filter (fun x => s.wantsTurn x.1)
  let holder := s.turnHolder cluster
  if holder.isSome && decide (s.since t.since < 1000 * t.quantum) then .next s
  else
    match ws with
    | [] => .next s
    | [w] =>
      if holder = some w.1 then .next (s.keepTurn cluster t.credit)
      else .next (s.switchTurn cluster holder w.1 t.credit)
    | _ =>
      match nextTurn t.credit ws with
      | none => .next s
      | some (b, credit) =>
        if holder = some b then .next (s.keepTurn cluster credit)
        else .next (s.switchTurn cluster holder b credit)

/-- A write of `LOD_SLICE.QUANTUM_US` (R335). -/
def execLodSliceWrite (value : Nat) (s : State) : Host.Outcome State Fault Refusal :=
  let q := bits value 0 16
  if q < 100 then .next s else .next { s with quantumUs := q }

/-! ### Windows, budgets, demotion (14, R336 to R342, R345) -/

/-- Nominal capacity of a resource in a full window (R336). -/
def nominal (r : Nat) : Nat := if r < 8 then 2048000 else if r < 12 then 64000000 else if r < 20 then 4000000 else 200000

/-- Whether the window in progress spans the wrap of the time base (R336). -/
def Qos.wraps (q : Qos) : Bool := decide (q.windowStart + 1000 > 2 ^ 48)

/-- A part of a usual byte value in the window in progress, rounded down to whole bytes: of 656/1,000 of it in the window of the wrap
(R336). -/
def Qos.share (q : Qos) (num den : Nat) : Nat := if q.wraps then num * 656 / (den * 1000) else num / den

/-- `CAP` of a class. -/
def Qos.capOf (q : Qos) (k : Nat) : Nat := q.cap.get k 1024

/-- `BASE` of a class. -/
def Qos.baseOf (q : Qos) (k : Nat) : Nat := q.base.get k (k / 2)

/-- A flow. -/
def Qos.flow (q : Qos) (r l k : Nat) : Flow := q.flows.get (flowKey r l k) Flow.reset

/-- Weight of a lodging's flows; 1,024 for device-owned traffic (R336). -/
def State.weightOf (s : State) (l : Nat) : Nat :=
  if l ≥ 256 then 1024 else match s.contract? l with | some c => c.weight | none => 1

/-- Floor in bytes of a lodging's class at a resource in the window in progress (R340); a port's share is split among the
classes by their bytes in the window. -/
def State.floorBytes (s : State) (r l k : Nat) : Nat :=
  if l ≥ 256 then 0
  else
    match s.contract? l with
    | none => 0
    | some c =>
      let own := s.qos.share (c.floor.getD k 0 * nominal r) 1024
      if r < 20 then own
      else
        let used := (List.range 8).map (fun j => (s.qos.flow r l j).granted)
        own + (if used.sum = 0 then 0 else s.qos.share (c.portShare.getD (r - 20) 0 * nominal r * used.getD k 0) (256 * used.sum))

/-- Capacity that a resource has now in a usual window: the HBM4 channels that work at the memory capacity in force, a link that is up, a
port at its width (R342; 15, R363). -/
def State.capacityNow (s : State) (r : Nat) : Nat :=
  if r < 8 then
    let live := (List.range 256).countP (fun col => siteOf col == r && !((s.channel col).retired || (s.channel col).failed))
    nominal r * live * (if s.pwr.memCap = 0 then 8 else s.pwr.memCap) / 256
  else if r < 12 then nominal r
  else if r < 20 then (if (s.d2d.get (r - 12) D2d.reset).up then nominal r else 0)
  else if (s.port (r - 20)).halfWidth then nominal r / 2 else nominal r

/-- Urgency at a fill of a buffer of `cap` bytes (R343). -/
def fillUrgency (held cap : Nat) : Nat := if 8 * held ≥ 7 * cap then 3 else if 4 * held ≥ 3 * cap then 2 else if 2 * held ≥ cap then 1 else 0

/-- Urgency that a class F channel or a Cytil receive buffer drives (R343; 11, R283: 512 flit buffers of 256 bytes). -/
def State.urgencyOf (s : State) (src : Endpoint) : Nat :=
  match src with
  | .dma g =>
    let c := s.chan g
    if c.act.cls ≠ 2 ∨ !c.running then 0
    else
      let level := s.level (g / 32) c.act.paceSrc
      let d : Int := 1024 * ((c.act.highKib : Int) - c.act.lowKib)
      let past : Int := if c.act.paceDir = 0 then level - 1024 * c.act.highKib else 1024 * c.act.lowKib - level
      if past ≥ d then 3 else if 2 * past ≥ d then 2 else if c.asserted then 1 else 0
  | .port p => fillUrgency (s.level (p / 3) (9 + p % 3)).toNat 131072
  | _ => 0

/-- A transfer that waits at its port as a request for its transmit queue (R336, R338). -/
def State.xferReq (s : State) (x : SentXfer) : Option QReq :=
  (s.portFor x.dst x.addr).map (fun p =>
    { id := x.req, res := 20 + p, lod := (s.trafficOf x.txn).1, cls := x.head.qclass, input := 0, since := x.sentAt, aged := x.aged,
      line := x.addr / 32,
      urgency := match x.txn.bind s.txn? with
        | some t => (match t.kind with | .dma g _ => s.urgencyOf (.dma g) | _ => 0)
        | none => 0 })

/-- The requests that wait at a resource: those of its queue, and at a Cytil port the transfers that wait there. -/
def State.requests (s : State) (r : Nat) : List QReq :=
  (s.qos.queue ++ s.cyl.waiting.filterMap (fun x => s.xferReq x)).filter (fun q => q.res == r)

/-- The flows with requests at a resource, each with its weight and its floor. -/
def State.floorHolders (s : State) (r : Nat) : List Holder :=
  ((s.requests r).foldl (fun (ks : List (Nat × Nat)) q => insertNew ks (q.lod, q.cls)) []).map (fun x =>
    { lod := flowKey r x.1 x.2, weight := s.weightOf x.1, held := s.floorBytes r x.1 x.2 })

/-- Floor bytes of a flow that are granted at level 4: where the floors that are asked for exceed what the resource can carry, they lose by
weight (R342). -/
def State.floorNow (s : State) (r l k : Nat) : Nat :=
  let hs := s.floorHolders r
  s.floorBytes r l k - lossOf ((hs.map (·.held)).sum - s.qos.share (s.capacityNow r) 1) hs (flowKey r l k)

/-- Effective level of a request (R338, R344). -/
def State.levelOf (s : State) (q : QReq) : Nat :=
  let f := s.qos.flow q.res q.lod q.cls
  let base := s.qos.baseOf q.cls - f.demotion
  let floor := if f.granted < s.floorNow q.res q.lod q.cls then 4 else 0
  let urg := if q.urgency = 0 then 0 else 4 + q.urgency
  let legacy := if bit s.qos.legacy q.cls then 6 else 0
  if q.aged then 7 else max base (max floor (max urg legacy))

/-- The next of some numbers after the last one served, in a round. -/
def nextAfter (last : Nat) (xs : List Nat) : Option Nat :=
  let least := fun (ys : List Nat) => ys.foldl (fun (m : Option Nat) y => match m with | some a => some (min a y) | none => some y) none
  (least (xs.filter (fun y => decide (y > last)))).or (least xs)

/-- The request of a list that a resource grants next: the highest level, aged ones oldest first, then round robin by class, and within a
class round robin over inputs (R338). -/
def State.grantOf (s : State) (res : Nat) (qs : List QReq) : Option QReq :=
  match qs.filter (·.aged) with
  | a :: r => some (r.foldl (fun x y => if elapsed y.since s.now > elapsed x.since s.now then y else x) a)
  | [] =>
    let top := qs.foldl (fun m q => max m (s.levelOf q)) 0
    let qs := qs.filter (fun q => s.levelOf q == top)
    match nextRound 8 (s.qos.lastClass.get res 7) (fun k => qs.any (fun q => q.cls == k)) with
    | none => none
    | some k =>
      let qs := qs.filter (fun q => q.cls == k)
      match nextAfter (s.qos.lastInput.get (8 * res + k) 0) (qs.map (·.input)) with
      | none => none
      | some i => qs.find? (fun q => q.input == i)

/-- The request of its queue that a resource grants next. -/
def State.nextGrant (s : State) (res : Nat) : Option QReq := s.grantOf res (s.qos.queue.filter (fun q => q.res == res))

/-- A request granted: the turns of its class and its input, and its level where a counter asks (R338; 19, R424). -/
def State.grantReq (s : State) (q : QReq) : State :=
  let stack := if q.res < 8 then q.res / 2 else if q.res < 12 then q.res - 8 else if q.res < 20 then (q.res - 12) / 2 else (q.res - 20) / 3
  let lv := s.levelOf q
  let s := if q.aged then s.count stack 0x060 (some q.lod) (0, 0) 1 else s
  let s := if lv = 4 then s.count stack 0x061 (some q.lod) (0, 0) 1 else s
  { s with qos := { s.qos with queue := s.qos.queue.filter (fun x => x.id != q.id), lastClass := s.qos.lastClass.set q.res q.cls,
                               lastInput := s.qos.lastInput.set (8 * q.res + q.cls) q.input } }

/-- `REQUEST_AGE_RAISE`: a request that has waited 4 µs (R338). -/
def execRequestAgeRaise (req : Nat) (s : State) : Host.Outcome State Fault Refusal :=
  let raised : State := { s with
    qos := { s.qos with
      queue := s.qos.queue.map (fun (q : QReq) => if q.id = req then { q with aged := true } else q),
      ageRaises := wrap32 (s.qos.ageRaises + 1) },
    cyl := { s.cyl with waiting := s.cyl.waiting.map (fun (x : SentXfer) => if x.req = req then { x with aged := true } else x) } }
  if s.qos.queue.any (fun q => q.id == req && !q.aged && decide (s.since q.since ≥ 4000)) ||
      s.cyl.waiting.any (fun x => x.req == req && !x.aged && decide (s.since x.sentAt ≥ 4000)) then
    .next raised
  else .next s

/-- One flow at the end of a window: its demotion, and its run of floors missed or met (R333, R340, R341). -/
def State.endFlow (s : State) (r l k : Nat) (f : Flow) : Flow :=
  let classFlows := (List.range 257).filter (fun j => (s.qos.flow r j k).granted != 0)
  let w := (classFlows.map (fun j => s.weightOf j)).sum
  let floor := s.floorBytes r l k
  let budget := max floor (s.qos.share (s.qos.capOf k * nominal r * (if w = 0 then 1 else s.weightOf l)) (1024 * (if w = 0 then 1 else w)))
  let waiting := (s.requests r).any (fun q => q.lod == l && q.cls == k)
  let missed := decide (f.granted < floor) && waiting
  { granted := 0, last := f.granted, demotion := if f.granted > budget then min (f.demotion + 1) 3 else f.demotion - 1,
    missedWindows := if missed then f.missedWindows + 1 else 0, metWindows := if missed then 0 else f.metWindows + 1 }

/-- The flows that a window knows: those granted bytes, and those that only wait. -/
def State.allFlows (s : State) : Tab Flow :=
  (s.qos.queue ++ s.cyl.waiting.filterMap (fun x => s.xferReq x)).foldl (fun (t : Tab Flow) x =>
    let k := flowKey x.res x.lod x.cls
    if t.any (fun e => e.1 == k) then t else t ++ [(k, Flow.reset)]) s.qos.flows

/-- `QOS_WINDOW_BOUNDARY`: class totals published, demotions stepped, settings written since taken (R336, R337, R341, R345). -/
def execQosWindowBoundary (s : State) : Host.Outcome State Fault Refusal :=
  if !s.atTick || s.now == s.qos.windowStart then .next s
  else
    let totals := s.qos.flows.foldl (fun (t : Tab Nat) e =>
      let res := e.1 / 8 / 257
      let k := 8 * res + e.1 % 8
      t.set k ((t.get k 0 + e.2.granted) % 2 ^ 32)) []
    let flows := s.allFlows.map (fun (e : Nat × Flow) => (e.1, s.endFlow (e.1 / 8 / 257) (e.1 / 8 % 257) (e.1 % 8) e.2))
    .next { s with qos := { s.qos with
      bw := totals, flows := flows, windowStart := s.now, cap := s.qos.nextCap, base := s.qos.nextBase, legacy := s.qos.nextLegacy } }

/-- `FLOOR_BREACH`: 1,000 windows in a row with a flow's floor missed, or met (R333). -/
def execFloorBreach (lod res cls : Nat) (s : State) : Host.Outcome State Fault Refusal :=
  let f := s.qos.flow res lod cls
  let floor := s.floorBytes res lod cls
  let share := if floor = 0 then 1024 else min 1024 (1024 * f.last / floor)
  if f.missedWindows ≥ 1000 then .next (s.setBreach lod 5 (8 * res + cls) share true)
  else if f.metWindows ≥ 1000 then .next (s.setBreach lod 5 (8 * res + cls) 1024 false)
  else .next s

/-- A write to `QOS_CLASS_CFG`k, or to `QOS_LEGACY_HIGH` as register 8 (R345). -/
def execQosClassCfgWrite (reg value : Nat) (s : State) : Host.Outcome State Fault Refusal :=
  if reg = 8 then .next { s with qos := { s.qos with nextLegacy := bits value 0 8 } }
  else if reg > 8 ∨ bits value 8 11 > 1024 then .next s
  else .next { s with qos := { s.qos with nextCap := s.qos.nextCap.set reg (bits value 8 11), nextBase := s.qos.nextBase.set reg (bits value 0 2) } }

/-- `LATENCY_BREACH_CLOSE`: 1 ms without a completion that carries 0x0102 (R333). -/
def execLatencyBreachClose (lod : Nat) (s : State) : Host.Outcome State Fault Refusal :=
  if (s.lod lod).breaches.contains (6, 6) && decide (s.since (s.lod lod).lastLate ≥ 1000000) then .next (s.setBreach lod 6 6 0 false)
  else .next s

end Sys2Proof.Machine
end

