-- ==== Sys2Proof/Machine/Records.lean ====
section
/-! DEFINITION. Tensor digests, trace marks and headers, programmable counters and the ledger copy (19). -/

namespace Sys2Proof.Machine

/-! ### Digest records (19, R427 to R430; 05, R129) -/

/-- FP64, in which a digest gives its extremes and sums. -/
def fmtDouble : Fmt := { mb := 52, eb := 11, bias := 1023, sp := .ieee }

/-- The FP64 code of an exact value, rounded once to nearest even. -/
def roundDouble (d : Dy) : Nat := fmtDouble.pack (decide (d.m < 0)) (fmtDouble.rneCode d.m.natAbs d.e)

/-- The FP64 code of an element's value that is no NaN. -/
def Val.toDouble : Val → Nat
  | .nan => fmtDouble.nanCode
  | .inf neg => fmtDouble.pack neg fmtDouble.infCode
  | .fin neg m e => fmtDouble.pack neg (fmtDouble.rneCode m e)

/-- The order of FP64 codes that are no NaN, −0 below +0. -/
def doubleKey (c : Nat) : Nat := if c ≥ 2 ^ 63 then 2 ^ 64 - 1 - c else 2 ^ 63 + c

/-- The least and the greatest of FP64 codes. -/
def minDouble (cs : List Nat) : Nat := cs.foldl (fun a c => if doubleKey c < doubleKey a then c else a) (fmtDouble.pack false fmtDouble.infCode)
/-- The greatest. -/
def maxDouble (cs : List Nat) : Nat := cs.foldl (fun a c => if doubleKey a < doubleKey c then c else a) (fmtDouble.pack true fmtDouble.infCode)

/-- h(i) of R428. -/
def digestHash (i b : Nat) : Nat := mix ((mix (i % 2 ^ 64) + b) % 2 ^ 64)

/-- Whether a value is infinite. -/
def Val.isInf : Val → Bool
  | .inf _ => true
  | _ => false

/-- Whether a value is finite. -/
def Val.isFin : Val → Bool
  | .fin _ _ _ => true
  | _ => false

/-- Whether a value is zero of either sign. -/
def Val.isZero : Val → Bool
  | .fin _ m _ => m == 0
  | _ => false

/-- A digest record of a command's elements (R428); `fmt` is the format code of R98. -/
def digestRecord (c : Cmd) (fmt : Nat) (elems : Tab (Nat × Bool)) : List Byte :=
  let f := if fmt = 13 then Fmt.fp32 else fmtOf fmt
  let clean := (elems.filter (fun e => !e.2.2)).map (fun e => decodeFmt f e.2.1)
  let nums := (clean.filter (fun v => v != .nan)).map Val.toDouble
  let fins := (clean.filter Val.isFin).map Val.dy
  let sum := fins.foldl (fun a d => a.add d) Dy.zero
  let sq := fins.foldl (fun a d => a.add (d.mul d)) Dy.zero
  let dig := elems.foldl (fun a e => (a + digestHash e.1 (if e.2.2 then 2 ^ 63 else e.2.1)) % 2 ^ 64) 0
  leBytes 4 c.seq ++ leBytes 2 c.g ++ leBytes 2 c.layer ++ leBytes 2 c.oper ++ leBytes 1 fmt ++ leBytes 5 0 ++
    leBytes 8 elems.length ++ leBytes 8 (clean.countP (fun v => v == .nan)) ++ leBytes 8 (clean.countP Val.isInf) ++
    leBytes 8 (clean.countP Val.isZero) ++ leBytes 8 (elems.countP (fun e => e.2.2)) ++
    leBytes 8 (minDouble nums) ++ leBytes 8 (maxDouble nums) ++ leBytes 8 (roundDouble sum) ++ leBytes 8 (roundDouble sq) ++
    leBytes 8 dig ++ leBytes 32 0

/-- The elements of a command's tensor and their format code. -/
def State.digestOf (s : State) (c : Cmd) : Option (Nat × Tab (Nat × Bool)) :=
  match s.mat? c.id with
  | some m => some (m.par.dFmt, m.elems)
  | none =>
    match s.attn? c.id with
    | some m => some (if m.par.opcode = 0x0202 then 13 else if m.par.oFmt = 2 then 13 else m.par.oFmt, m.elems)
    | none => none

/-- A digest record stored in the lodging's ring of 64 (R429). -/
def State.storeDigest (s : State) (c : Cmd) : State :=
  if flagDigest c.flags && statusOk c.status then
    match s.digestOf c with
    | none => s
    | some d =>
      s.modLod c.lod (fun x => { x with digests := (x.digests ++ [digestRecord c d.1 d.2]).drop (x.digests.length + 1 - 64) })
  else s

/-- Parameters of `DIGEST_READ`. -/
def digestReadFields : List (Nat × Nat) := [(16, 64), (24, 10), (28, 32)]

/-- The check of `DIGEST_READ` at step 8. -/
def digestReadBad (c : Cmd) : Option Status := if c.f 16 8 % 32 ≠ 0 then some (0x0202, 16) else none

/-- What `DIGEST_READ` does (R430). -/
def State.startDigestRead (s : State) (c : Cmd) : State :=
  let hit := (s.lod c.lod).digests.reverse.find? (fun r => field r 4 2 == c.f 24 2 % 1024 && field r 0 4 == c.f 28 4)
  match hit with
  | none => s.finish c.id 0
  | some r =>
    match s.vwrite c.lod (c.f 16 8) 0 r false (some c.id) c.ids with
    | .fail st d => s.endWith c.id st d
    | .wait => s.modCmd c.id (fun x => { x with issued := false })
    | .ok s k => ((s.modCmd c.id (fun x => { x with acks := x.acks + k, issued := true })).finish c.id 1)

/-! ### Trace (19, R416 to R421, R426) -/

/-- A counter sample for a lodging's trace (R426). -/
def State.sampleRecord (s : State) (i : Nat) : List Byte :=
  let c := s.dbg.pmcCfg.get i PmcCfg.reset
  traceBytes s.now 4 (i / 512) (if c.layerEn then c.layer else 0) (if c.operEn then c.oper else 0) 0 i 0 0 (s.dbg.pmcValue.get i 0)

/-- The counters of a stack assigned to a lodging (R425). -/
def State.assignedCounters (s : State) (l k : Nat) : List Nat :=
  (List.range 512).map (· + 512 * k) |>.filter (fun i =>
    s.dbg.pmcCfg.any (fun e => e.1 == i) &&
      (let c := s.dbg.pmcCfg.get i PmcCfg.reset
       c.lodgingEn && c.lodging == l))

/-- Parameters of `TRACE_MARK`. -/
def traceMarkFields : List (Nat × Nat) := [(16, 64), (24, 1)]

/-- What `TRACE_MARK` does; a record that its writer drops is not counted (R419, R421). -/
def State.startTraceMark (s : State) (c : Cmd) : State :=
  let full := ((s.lod c.lod).writer c.stack).full
  let s := s.trace c.lod c.stack (traceBytes s.now 3 c.stack c.layer c.oper c.seq c.g 0 0 (c.f 16 8))
  let is := if bit (c.f 24 1) 0 then s.assignedCounters c.lod c.stack else []
  (is.foldl (fun s i => s.trace c.lod c.stack (s.sampleRecord i)) s).finish c.id (if full then 0 else 1 + is.length)

/-- The lodging's trace region, where it has one. -/
def State.traceRegion (s : State) (l : Nat) : Option Contract :=
  match s.contract? l with
  | some c => if c.traceMib = 0 then none else some c
  | none => none

/-- `TRACE_HEADER_UPDATE`: the header of one quarter as the writer counts it (R416). -/
def execTraceHeaderUpdate (lod stack : Nat) (s : State) : Host.Outcome State Fault Refusal :=
  match s.traceRegion lod with
  | none => .next s
  | some c =>
    let w := (s.lod lod).writer stack
    let s := s.writeRange lod (c.traceBase + stack * c.quarterBytes) (leBytes 8 w.written ++ leBytes 8 w.dropped) false (0, 0)
    .next (s.modLod lod (fun x => { x with trace := x.trace.set stack { w with shown := w.written } }))

/-- `TRACE_DROP_RECORD`: a writer's buffer has no room for the records that follow, or room returns to it: after drops it then writes one
type 5 record (R419). -/
def execTraceDropRecord (lod stack : Nat) (room : Bool) (s : State) : Host.Outcome State Fault Refusal :=
  match s.traceRegion lod with
  | none => .next s
  | some _ =>
    let n := ((s.lod lod).writer stack).sinceDrop
    let s := if room && decide (n ≠ 0) then s.putTrace lod stack (traceBytes s.now 5 stack 0 0 0 0 0 0 n) else s
    .next (s.modLod lod (fun x => { x with trace := x.trace.mod stack TraceWriter.reset (fun (w : TraceWriter) =>
      { w with full := !room, sinceDrop := if room then 0 else w.sinceDrop }) }))

/-- `PMC_SAMPLE`: an enabled, assigned counter at a whole multiple of the period (R426). -/
def execPmcSample (i : Nat) (s : State) : Host.Outcome State Fault Refusal :=
  let c := s.dbg.pmcCfg.get i PmcCfg.reset
  let p := 1000 * s.dbg.pmcPeriod
  if p = 0 ∨ s.now % p ≠ 0 ∨ !c.en ∨ !c.lodgingEn ∨ s.dbg.pmcSampled.any (fun e => e.1 == i && e.2 == s.now) then .next s
  else
    let s := { s with dbg := { s.dbg with pmcSampled := s.dbg.pmcSampled.set i s.now } }
    match s.traceRegion c.lodging with
    | none => .next s
    | some _ => .next (s.trace c.lodging (i / 512) (s.sampleRecord i))

/-- A write of `INK_PMC_CFG`i sets the counter to zero (R424, R425). -/
def execInkPmcCfgWrite (i value : Nat) (s : State) : Host.Outcome State Fault Refusal :=
  let c : PmcCfg := { en := bit value 63, lodgingEn := bit value 62, layerEn := bit value 61, operEn := bit value 60,
                      lodging := bits value 52 8, event := bits value 42 10, layer := bits value 16 16, oper := bits value 0 16 }
  .next { s with dbg := { s.dbg with pmcCfg := s.dbg.pmcCfg.set i c, pmcValue := s.dbg.pmcValue.set i 0 } }

/-- A write of `DBG_LEDGER_SEL` copies a unit's ledger, oldest entry first; units from 928 on copy nothing; ignored at unlock level 0
(R415, R423). -/
def execDbgLedgerSel (value : Nat) (s : State) : Host.Outcome State Fault Refusal :=
  let u := bits value 0 12
  if s.unlock.granted = 0 ∨ u ≥ 928 then .next s
  else
    let l := s.ledger u
    .next { s with dbg := { s.dbg with copyCount := l.entries.length, copyBase := l.base, copyData := l.entries.reverse } }

end Sys2Proof.Machine
end

