-- ==== Sys2Proof/Machine/Checks.lean ====
section
/-! DEFINITION. The nine checks that a porter makes before it dispatches a command (02, R36, R37). -/

namespace Sys2Proof.Machine

/-! ### The checks at fetch (R36, R37) -/

/-- The opcodes that galleys accept (R36). -/
def galleyOpcodes : List Nat :=
  [0x0000, 0x0101, 0x0102, 0x0103, 0x0104, 0x0120, 0x0201, 0x0202, 0x0203, 0x0204, 0x0301, 0x0401, 0x0402, 0x0403, 0x0501,
   0x0502, 0x0503, 0x0601, 0x0602, 0x0701, 0x0702, 0x0801, 0x0E01]

/-- Whether an opcode is an admin operation's. -/
def adminOpcode (op : Nat) : Bool := decide (0x0F01 ≤ op ∧ op ≤ 0x0F09)

/-- Step 1. -/
def opcodeBad (op : Nat) : Option Status :=
  if galleyOpcodes.contains op then none else if adminOpcode op then some (0x0203, op % 256) else some (0x0200, 0)

/-- Step 2: reserved bits of the header (R32). -/
def headerBad (c : Cmd) : Option Status :=
  if strayBits (byteAt c.packet 2) 0x5F then some (0x0201, 2) else if strayBits (byteAt c.packet 3) 0x07 then some (0x0201, 3) else none

/-- Step 3: the completion field (R33). -/
def doneBad (c : Cmd) : Option Status :=
  if !flagSignal c.flags then none
  else if byteAt c.packet 59 ≠ 0 then some (0x0201, 59)
  else if c.f 56 2 ≥ 4096 then some (0x0208, c.f 56 2)
  else if c.f 58 1 ≥ 2 then some (0x0202, 58)
  else none

/-- Step 4: `DIGEST` (R427). -/
def digestBad (c : Cmd) : Option Status :=
  let ok := [0x0101, 0x0102, 0x0103, 0x0104, 0x0120, 0x0202].contains c.opcode ||
    ((c.opcode == 0x0201 || c.opcode == 0x0203) && (bits (c.f 35 1) 4 2 == 0 || bits (c.f 35 1) 4 2 == 2))
  if flagDigest c.flags && !ok then some (0x0202, 2) else none

/-- Continuation packets of a chain. -/
def Cmd.conts (c : Cmd) : Nat := c.packet.length / 64 - 1

/-- Step 5: the chain; `bad` is the first continuation packet against R34. -/
def chainBad (c : Cmd) (bad : Option Nat) : Option Status :=
  match bad with
  | some k => some (0x0204, k)
  | none =>
    let n := c.conts
    let k := match c.opcode with
      | 0x0101 => gemmConts c n
      | 0x0102 => gemmConts c n
      | 0x0103 => gemmConts c n
      | 0x0104 => gemmConts c n
      | 0x0120 => gemmConts c n
      | 0x0201 => attnConts c n
      | 0x0202 => attnConts c n
      | 0x0203 => attnConts c n
      | 0x0204 => attnConts c n
      | _ => if n = 0 then none else some 1
    k.map (fun i => (0x0204, i))

/-- Step 6: `SEQ`. -/
def seqBad (c : Cmd) (x : Galley) : Option Status :=
  match x.expectSeq with
  | some e => if x.desc.seqCheck ∧ c.seq ≠ e then some (0x0205, e % 2 ^ 16) else none
  | none => none

/-- The parameter fields of a command, and the allowed bits of bytes that several fields share. -/
def paramFields (c : Cmd) : List (Nat × Nat) × List (Nat × Nat) :=
  match c.opcode with
  | 0x0000 => ([], []) -- every parameter byte of `NOP` is reserved (LOG 132)
  | 0x0201 => attnFields c.conts
  | 0x0202 => attnFields c.conts
  | 0x0203 => attnFields c.conts
  | 0x0204 => attnFields c.conts
  | 0x0301 => launchFields
  | 0x0401 => copyFields 0x0401
  | 0x0402 => copyFields 0x0402
  | 0x0403 => copyFields 0x0403
  | 0x0501 => ([(16, 57), (24, 57), (32, 40), (40, 1), (44, 32)], [])
  | 0x0502 => ([(16, 57), (24, 48), (32, 10), (34, 2)], [])
  | 0x0503 => ([(16, 57), (24, 48), (32, 10), (34, 2)], [])
  | 0x0601 => ([(16, 16), (18, 2), (19, 1), (20, 10), (24, 64)], [])
  | 0x0602 => ([(16, 16), (18, 1), (24, 64), (32, 32)], [])
  | 0x0701 => ([(16, 57), (24, 62), (32, 40), (40, 2), (41, 3), (42, 1), (48, 57)], [])
  | 0x0702 => ([(16, 57), (32, 40)], [])
  | 0x0801 => (digestReadFields, [])
  | 0x0E01 => (traceMarkFields, [])
  | op => gemmFields op c.conts

/-- Step 7: reserved bits of the parameters. -/
def paramBad (c : Cmd) : Option Status :=
  let f := paramFields c
  (reservedAt c.packet f.1 f.2).map (fun off => (0x0201, off))

/-- A check that the packet and the state decide without reading memory. -/
def CheckRes.ofBad (s : State) : Option Status → CheckRes
  | none => .ok s [] []
  | some f => .bad s f.1 f.2

/-- Step 8: the parameter fields that the operator's chapter lists as checked, reads included. -/
def State.fieldCheck (s : State) (c : Cmd) (ans : HostAns) : CheckRes :=
  match c.opcode with
  | 0x0101 => s.gemmCheck c ans
  | 0x0102 => s.gemmCheck c ans
  | 0x0103 => s.gemmCheck c ans
  | 0x0104 => s.gemmCheck c ans
  | 0x0120 => s.gemmCheck c ans
  | 0x0201 => s.attnCheck c ans
  | 0x0202 => s.attnCheck c ans
  | 0x0203 => s.attnCheck c ans
  | 0x0204 => s.attnCheck c ans
  | 0x0301 => s.launchCheck c ans
  | 0x0401 => .ofBad s (copyBad c)
  | 0x0402 => .ofBad s (copyBad c)
  | 0x0403 => .ofBad s (copyBad c)
  | 0x0501 => .ofBad s (s.pushCheck c)
  | 0x0502 => .ofBad s (epochBad c)
  | 0x0503 => .ofBad s (epochBad c)
  | 0x0601 =>
    .ofBad s (if c.f 16 2 ≥ 4096 then some (0x0208, c.f 16 2) else if c.f 18 1 % 4 = 3 then some (0x0202, 18) else none)
  | 0x0602 => .ofBad s (if c.f 16 2 ≥ 4096 then some (0x0208, c.f 16 2) else none)
  | 0x0701 => s.mapCheck c.lod (mapParams c) ans
  | 0x0702 => .ofBad s (s.unmapCheck c)
  | 0x0801 => .ofBad s (digestReadBad c)
  | _ => .ok s [] []

/-- Whether a command needs cores (13, R326). -/
def needsCores (op : Nat) : Bool :=
  [0x0101, 0x0102, 0x0103, 0x0104, 0x0120, 0x0201, 0x0202, 0x0203, 0x0301].contains op

/-- Step 9: the lodging's resources for the command (R326, R420). -/
def State.resourceBad (s : State) (c : Cmd) : Option Status :=
  match s.contract? c.lod with
  | none => none
  | some k =>
    if needsCores c.opcode ∧ k.dedicated = 0 ∧ k.shared = 0 then some (0x0207, 0)
    else if (c.opcode = 0x0401 ∨ c.opcode = 0x0402 ∨ c.opcode = 0x0403) ∧ k.dmaCh.getD c.stack 0 = 0 then some (0x0207, 1)
    else if (flagTrace c.flags || c.opcode == 0x0E01) && k.traceMib == 0 then some (0x0306, 2)
    else none

/-- The first of a list of outcomes that is one. -/
def firstBad : List (Option Status) → Option Status
  | [] => none
  | some f :: _ => some f
  | none :: r => firstBad r

/-- Steps 1 to 7, which the packet and the galley decide. -/
def State.packetBad (s : State) (c : Cmd) (bad : Option Nat) : Option Status :=
  firstBad [opcodeBad c.opcode, headerBad c, doneBad c, digestBad c, chainBad c bad, seqBad c (s.galley c.lod c.g), paramBad c]

/-- Steps 8 and 9, which read the state. -/
def State.dispatchCheck (s : State) (c : Cmd) (ans : HostAns) : CheckRes :=
  match s.fieldCheck c ans with
  | .ok w b ps =>
    match w.resourceBad c with
    | some f => .bad w f.1 f.2
    | none => .ok w b ps
  | r => r

/-- A command that ends at fetch: `START` equals `END` (R37, R43). -/
def Cmd.endedAt (c : Cmd) (st d : Nat) : Cmd := { c with phase := .ended, status := st, detail := d, failing := some (st, d) }

/-- A fetch check that failed: counted, and entered in the porter's ledger (19, R414). -/
def State.countCheck (s : State) (c : Cmd) : State :=
  (s.modPorter c.stack (fun p => { p with checkFails := wrap32 (p.checkFails + 1) })).log (unitPorter c.stack) 0x10 0 c.layer c.oper

end Sys2Proof.Machine
end

