-- ==== Sys2Proof/Machine/Start.lean ====
section
/-! DEFINITION. Starting the commands of a galley in ring order (02, R40) and what each operator does when it starts. -/

namespace Sys2Proof.Machine

/-! ### Signals (02, R50 to R52) -/

/-- A remote signal update sent for `SIGNAL_WRITE` (02, R50; 11, R283): index, operation and value (LOG 35). -/
def State.sendSignal (s : State) (c : Cmd) : State :=
  let dev := c.f 20 2
  let t := s.newTxn c.lod (2 ^ 52 * dev) (.remoteSignal c.id)
  match t.1.cylSend dev opSignal 0 (t.2 % 2 ^ 16) (leBytes 2 (c.f 16 2) ++ leBytes 1 (c.f 18 1) ++ leBytes 5 0 ++ leBytes 8 (c.f 24 8))
      (some t.2) with
  | .sent s' => s'.modCmd c.id (fun c => { c with acks := c.acks + 1, issued := true })
  | .held => s.modCmd c.id (fun c => { c with issued := false })
  | .unreachable => s.endWith c.id 0x0305 dev

/-- What `SIGNAL_WRITE` does (R49, R50). -/
def State.startSignalWrite (s : State) (c : Cmd) : State :=
  if bit (c.f 19 1) 0 then s.sendSignal c
  else (s.updateSignal c.lod (c.f 16 2) (signalOp (c.f 18 1) (c.f 24 8))).finish c.id 0

/-- What `SIGNAL_WAIT` does when it starts: it is evaluated, and with `TIMEOUT_US` 0 decided (R51, R52). -/
def State.startSignalWait (s : State) (c : Cmd) : State :=
  let v := s.signal c.lod (c.f 16 2)
  if c.satisfied v then s.finish c.id v
  else if c.f 32 4 = 0 then (s.modCmd c.id (fun x => { x with work := v })).endWith c.id 0x0400 0
  else s

/-! ### Starting (02, R40) -/

/-- What a command does when it starts, by opcode. `ans` is the host's answer to the reads of host memory this makes. -/
def State.startEffect (s : State) (c : Cmd) (ans : HostAns) : State :=
  match c.opcode with
  | 0x0101 => s.startMat c
  | 0x0102 => s.startMat c
  | 0x0103 => s.startMat c
  | 0x0104 => s.startMat c
  | 0x0120 => s.startMat c
  | 0x0201 => s.startAttn c
  | 0x0202 => s.startAttn c
  | 0x0203 => s.startAttn c
  | 0x0204 => s.startAppend c ans
  | 0x0301 => s.startLaunch c
  | 0x0401 => s.startCopy c
  | 0x0402 => s.startCopy c
  | 0x0403 => s.startCopy c
  | 0x0501 => s.startPush c ans
  | 0x0502 => s.startFlush c
  | 0x0503 => s.startInvalidate c
  | 0x0601 => s.startSignalWrite c
  | 0x0602 => s.startSignalWait c
  | 0x0701 => s.startMap c
  | 0x0702 => s.startUnmap c
  | 0x0801 => s.startDigestRead c
  | 0x0E01 => s.startTraceMark c
  | _ => s.finish c.id 0

/-- A command started: `START` is now, its start record is written, and its operator begins. -/
def State.startCmd (s : State) (c : Cmd) (ans : HostAns) : State :=
  let c := { (c.rated (s.rateBits c.lod)) with phase := .running, start := s.now }
  let s := s.modCmd c.id (fun _ => c)
  (s.traceStart c).startEffect c ans

/-- The checks of R37 that a command met at fetch but did not yet pass are made before its dispatch: the last two, which read the state
(LOG 27). A command that fails one ends without having started. -/
def State.dispatch (s : State) (k : Nat) (p : Porter) (c : Cmd) (ans : HostAns) : State :=
  match s.dispatchCheck c ans with
  | .wait w => w
  | .bad w st d => ((w.usePorter k p).countCheck c).modCmd c.id (fun x => { x.endedAt st d with start := s.now, endT := s.now })
  | .ok w b ps => ((w.usePorter k p).modCmd c.id (fun x => { x with read := b, readPoison := ps })).startCmd { c with read := b, readPoison := ps } ans

/-- The selections of a porter as long as each meets a command that is fetched already (R42): it is dispatched. -/
def State.dispatchLoop (s : State) (k : Nat) (ans : HostAns) : Nat → State
  | 0 => s
  | fuel + 1 =>
    match s.select k with
    | none => s
    | some (l, g, p) =>
      match s.firstFetched l g with
      | none => s
      | some c => (s.dispatch k p c ans).dispatchLoop k ans fuel

/-- Every porter goes on dispatching the commands it has fetched, porter 0 first (LOG 25). -/
def State.startAll (s : State) (ans : HostAns := .data) : State :=
  (List.range 4).foldl (fun s k => s.dispatchLoop k ans (s.cmds.countP (fun c => c.phase == .fetched))) s

end Sys2Proof.Machine
end

