-- ==== Sys2Proof/Machine/Deliver.lean ====
section
/-! DEFINITION. Requests performed at a home, their responses on their way, and what a response does where it arrives
(07, R174, R185; 09, R221, R224, R227, R240; 10, R260, R262; 11, R266, R267; 12, R302, R309, R310). -/

namespace Sys2Proof.Machine

/-! ### Responses on the fabric (11, R266, R267) -/

/-- Layer, operator and class that a flit carries. -/
def flitIds (f : Flit) : Nat × Nat := (f.layer, f.oper + 2 ^ 16 * f.qclass)

/-- The lodging a flit acts for: 256 for device-owned traffic, which ignores `LODGING`. -/
def flitOwner (f : Flit) : Nat := if f.own then 256 else f.lodging

/-- The number of a requester's endpoint, in the order of R186 (LOG 147). -/
def endpointNumber : Endpoint → Nat
  | .core c => c
  | .feeder c => 256 + c
  | .operator c => 512 + c
  | .dma ch => 768 + ch
  | .port p => 896 + p
  | .porter k => 908 + k

/-- The response to a request: the requester's endpoint in header bits 75:64, which are address bits 61:50, its tag and its stamp. -/
def flitAnswer (f : Flit) (op sect half : Nat) (poison : Bool) (payload : List Byte) : Flit :=
  { f with op := op, sect := sect, addr := 2 ^ 50 * endpointNumber f.src, half := half, poison := poison, payload := slice payload 0 64, credCount := 0,
           credClass := 0, credNet := 0 }

/-- A response put on its way. -/
def State.respond (s : State) (f : Flit) : State := { s with fab := { s.fab with resp := s.fab.resp ++ [f] } }

/-- An acknowledgement. -/
def State.ackFlit (s : State) (f : Flit) : State := s.respond (flitAnswer f opAck 0 0 false [])

/-- A refusal with the status that the requester reports. -/
def State.faultFlit (s : State) (f : Flit) (st : Nat) : State := s.respond (flitAnswer f opFault 0 0 false (leBytes 2 st))

/-- The data of one half line: one flit, or two where its sectors differ in poison (R267). `get i` is sector i of the line. -/
def State.dataHalf (s : State) (f : Flit) (wanted half : Nat) (get : Nat → Sector) : State :=
  let a := get (2 * half)
  let b := get (2 * half + 1)
  let za : List Byte := if bit wanted (2 * half) then a.bytes else List.replicate 32 0
  let zb : List Byte := if bit wanted (2 * half + 1) then b.bytes else List.replicate 32 0
  match bit wanted (2 * half), bit wanted (2 * half + 1) with
  | false, false => s
  | true, false => s.respond (flitAnswer f opData 1 half a.poison za)
  | false, true => s.respond (flitAnswer f opData 2 half b.poison (List.replicate 32 0 ++ zb))
  | true, true =>
    if a.poison = b.poison then s.respond (flitAnswer f opData 3 half a.poison (za ++ zb))
    else (s.respond (flitAnswer f opData 1 half a.poison za)).respond (flitAnswer f opData 2 half b.poison (List.replicate 32 0 ++ zb))

/-- The data of a read. -/
def State.sendData (s : State) (f : Flit) (get : Nat → Sector) : State :=
  let w := bits (byteAt f.payload 0) 0 4
  (s.dataHalf f w 0 get).dataHalf f w 1 get

/-- The sectors of bytes of a line with a poison mask. -/
def sectorOf (b : List Byte) (poison i : Nat) : Sector := { bytes := slice b (32 * i) 32, poison := bit poison i }

/-! ### Reads that wait for HBM4 or a remote home -/

/-- The lodging that a read is held for and its line. -/
def HeldRead.line (h : HeldRead) : Nat := h.flit.addr / 128

/-- Whether a held read has every sector it wants. -/
def HeldRead.full (h : HeldRead) : Bool :=
  (setBits (byteAt h.flit.payload 0) 4).all (fun i => h.got.any (fun e => e.1 == i))

/-- The sector a held read has got. -/
def HeldRead.sector (h : HeldRead) (i : Nat) : Sector :=
  let e := h.got.get i (List.replicate 32 0, false)
  { bytes := e.1, poison := e.2 }

/-- Held reads of remote lines asked again: those whose line has come are answered (09, R224). -/
def State.retryRemote (s : State) : List HeldRead → State
  | [] => s
  | h :: r =>
    if placeOf h.flit.addr = .remote then
      let out := fun (s : State) => ({ s with fab := { s.fab with held := s.fab.held.filter (fun x => x != h) } } : State)
      match s.remoteLine (flitOwner h.flit) h.line with
      | .bytes s b p => ((out s).sendData h.flit (sectorOf b p)).retryRemote r
      | .wait s' => s'.retryRemote r
      | .fault s st _ => ((out s).faultFlit h.flit st).retryRemote r
      | .unreachable s => ((out s).faultFlit h.flit 0x0305).retryRemote r
    else s.retryRemote r

/-! ### A response to core code where it arrives -/

/-- One acknowledgement fewer for a command that awaits its effects (02, R44). -/
def State.ackOne (s : State) (id : Nat) : State := s.modCmd id (fun c => { c with acks := c.acks - 1 })

/-- One acknowledgement fewer for a command that ends with its last (02, R50; 09, R235). -/
def State.ackCmd (s : State) (id : Nat) : State := (s.ackOne id).settle id

/-- An access of a block performed: its threads are woken, or the command that awaits it after the block's end has one less to await. -/
def State.performed (s : State) (t : Txn) (blk : Nat) : State :=
  match t.cmd with
  | some id => (s.dropTxn t.id).ackOne id
  | none => (s.dropTxn t.id).wakeBlock blk

/-- An access of core code refused: its group halts; after its block's end its command fails (03, R67, R68; 09, R221). -/
def State.haltAccess (s : State) (t : Txn) (st d : Nat) : State :=
  let s := s.dropTxn t.id
  match t.cmd with
  | some id => (s.failCmd id st d).ackOne id
  | none =>
    match t.kind.thread? with
    | none => s
    | some (b, g, _) =>
      match s.block? b with
      | some blk => s.haltGroup blk g st d
      | none => s

/-- A feeder's write refused: the group that issued the transfer halts (03, R75). -/
def State.haltFeed (s : State) (t : Txn) (blk idx st d : Nat) : State :=
  let s := s.dropTxn t.id
  match t.cmd with
  | some id => (s.failCmd id st d).ackOne id
  | none =>
    match s.block? blk with
    | none => s
    | some b =>
      match b.feeds.find? (fun f => f.idx == idx) with
      | some f => s.haltGroup b f.grp st d
      | none => s

/-- A feeder's write acknowledged (03, R74). -/
def State.fedOne (s : State) (t : Txn) (blk idx : Nat) : State :=
  let s := s.dropTxn t.id
  match t.cmd with
  | some id => s.ackOne id
  | none =>
    (s.modBlock blk (fun b => { b with feeds := b.feeds.map (fun f => if f.idx == idx then { f with acks := f.acks - 1 } else f) })).settleFeed
      blk idx

/-- The data of a load: its registers written, and threads that await it ready again (03, R61, R66; 07, R193). -/
def State.loadArrives (s : State) (t : Txn) (b : List Byte) (p : Bool) : State :=
  match t.kind with
  | .load blk grp thr dst size => ((s.putLoad blk grp thr dst size b p).dropTxn t.id).wakeBlock blk
  | _ => s

/-- The value an atomic returns, to its thread or to the fabric request it was passed on for (07, R185, R189). An operand that was poisoned
makes it poisoned (R194). -/
def State.atomicArrives (s : State) (t : Txn) (old : Nat) (p : Bool) : State :=
  match t.kind with
  | .atomic blk grp thr a => (s.putAtomic blk grp thr a.dst a.size old (p || a.bad)).performed t blk
  | .hostAtomic blk grp thr a => (s.putAtomic blk grp thr a.dst a.size old (p || a.bad)).performed t blk
  | .homeAtomic dst tag addr a => (s.dropTxn t.id).cylReply dst opResult addr tag (leBytes 16 old) (p || a.bad)
  | .flit f => (s.dropTxn t.id).respond (flitAnswer f opResult 0 0 (p || f.poison) (leBytes 16 old))
  | .flagOr => s.dropTxn t.id
  | _ => s

/-! ### A refusal where it arrives -/

/-- A line written home refused: unreachable, it is kept or lost (R240); refused by its home, its contributions are lost. -/
def State.homeRefused (s : State) (t : Txn) (cmds : List Nat) (l : CacheLine) (st d : Nat) : State :=
  let s := s.dropTxn t.id
  let s := if st = 0x0305 ∨ st = 0x0502 then s.homeUnreached cmds l else s.discardReduce l
  cmds.foldl (fun s id => (s.failCmd id st (failDetail st d 0 t.addr)).ackCmd id) s

/-- What a refusal, or a transfer that was lost, does to what awaited it (09, R221, R240; 11, R287; 12, R309). -/
def State.faultNoted (s : State) (t : Txn) (st d : Nat) : State :=
  match t.kind with
  | .load _ _ _ _ _ => s.haltAccess t st (failDetail st d 0xFFFE t.addr)
  | .store _ _ _ _ _ _ => s.haltAccess t st (failDetail st d 0xFFFE t.addr)
  | .atomic _ _ _ _ => s.haltAccess t st (failDetail st d 0xFFFE t.addr)
  | .hostAtomic _ _ _ _ => s.haltAccess t st (failDetail st d 0xFFFE t.addr)
  | .feed blk idx => s.haltFeed t blk idx st (failDetail st d 0xFFFE t.addr)
  | .dma ch isRead =>
    let s := s.dropTxn t.id
    if st = 0x0305 ∨ st = 0x0502 then s.burstFail ch else s.channelError ch st (if isRead then 0 else s.dstOperand ch)
  | .dmaLate ch => (s.dropTxn t.id).dmaLateArrival ch
  | .fetch lod line _ => ((s.dropTxn t.id).newTxn lod t.addr (.fetchFault lod line st d)).1
  | .fetchFault _ _ _ _ => s
  | .remoteWrite (some id) operand => ((s.dropTxn t.id).failCmd id st (failDetail st d operand t.addr)).ackOne id
  | .remoteWrite none _ => s.dropTxn t.id
  | .remoteSignal id => ((s.dropTxn t.id).failCmd id st (failDetail st d 0 t.addr)).ackCmd id
  | .writeHome cmds l => s.homeRefused t cmds l st d
  | .flagOr => s.dropTxn t.id
  | .homeAtomic dst tag addr _ => (s.dropTxn t.id).cylReply dst opFault addr tag (leBytes 2 st) false
  | .flit f => (s.dropTxn t.id).faultFlit f st

/-! ### Commands that were held, carried on -/

/-- What would become of waiting transfer `i` now, behind those for its line that came before it. -/
def State.trySend (s : State) (i : Nat) : Sent :=
  match s.cyl.waiting.drop i with
  | [] => .held
  | x :: _ =>
    ({ s with cyl := { s.cyl with waiting := s.cyl.waiting.take i } } : State).cylSend x.dst x.op x.addr x.tag x.bytes x.txn x.poison (some x.head)

/-- The waiting transfer that goes next among some: one that can be sent nowhere, else the one that its port's regulator grants (14, R338).
-/
def State.nextWaiting (s : State) (can : List Nat) : Option Nat :=
  let xs := can.filterMap (fun i => (s.cyl.waiting[i]?).map (fun x => (i, s.xferReq x)))
  match xs.find? (fun x => x.2.isNone) with
  | some x => some x.1
  | none =>
    ((List.range 12).findSome? (fun p => s.grantOf (20 + p) ((xs.filterMap (·.2)).filter (fun q => q.res == 20 + p)))).bind (fun q =>
      (xs.find? (fun x => x.2 == some q)).map (·.1))

/-- The transfers that wait put on their way while credit and replay room allow, each port's in the order of their levels; one whose device
can no longer be reached is refused with 0x0305 to what awaits it. -/
def State.sendWaiting (s : State) : Nat → State
  | 0 => s
  | fuel + 1 =>
    match s.nextWaiting ((List.range s.cyl.waiting.length).filter (fun i => match s.trySend i with | .held => false | _ => true)) with
    | none => s
    | some i =>
      let rest := fun (t : State) => ({ t with cyl := { t.cyl with waiting := s.cyl.waiting.eraseIdx i } } : State)
      match s.trySend i, s.cyl.waiting[i]? with
      | .sent t, some x =>
        let t := rest t
        (match s.xferReq x with | some q => t.grantReq q | none => t).sendWaiting fuel
      | .unreachable, some x =>
        match (match x.txn with | some id => s.txn? id | none => none) with
        | some t => ((rest s).faultNoted t 0x0305 x.dst).sendWaiting fuel
        | none => (rest s).sendWaiting fuel
      | _, _ => s

/-- Loads of core code whose remote line was awaited, asked again (09, R224). -/
def State.retryLoads (s : State) : List Txn → State
  | [] => s
  | t :: r =>
    match t.kind with
    | .load _ _ _ _ size =>
      if placeOf t.addr = .remote then
        match s.remoteLine t.lod (t.addr / 128) with
        | .bytes s b p =>
          (s.loadArrives t (slice b (t.addr % 128) size) (bit p (t.addr % 128 / 32))).retryLoads r
        | .wait s' => s'.retryLoads r
        | .fault s st d => (s.haltAccess t st (failDetail st d 0xFFFE t.addr)).retryLoads r
        | .unreachable s => (s.haltAccess t 0x0305 (deviceOf t.addr)).retryLoads r
      else s.retryLoads r
    | _ => s.retryLoads r

/-- One running command that was held for credit or for a remote line, carried on. -/
def State.resume (s : State) (c : Cmd) : State := if c.phase == .running && !c.issued then s.startEffect c .data else s

/-- The remote lines that fabric reads and loads of core code wait for. -/
def State.awaitedLines (s : State) : List (Nat × Nat) :=
  s.fab.held.map (fun h => (flitOwner h.flit, h.line)) ++
    s.fab.txns.filterMap (fun t => match t.kind with | .load _ _ _ _ _ => some (t.lod, t.addr / 128) | _ => none)

/-- What a credit, an acknowledgement or an arrived line sets going: waiting transfers, held reads, loads of core code, held commands, and
commands whose checks wait for a line. -/
def State.pump (s : State) : State :=
  let s := s.sendWaiting s.cyl.waiting.length
  let lines := s.awaitedLines
  let s := s.retryRemote s.fab.held
  let s := s.retryLoads s.fab.txns
  let s := lines.foldl (fun s x => s.useUp x.1 x.2) s
  ((s.cmds.map (·.id)).foldl (fun s id => match s.cmd? id with | some c => s.resume c | none => s) s).startAll

/-! ### A response where it arrives -/

/-- A remote line that a fetch brought: held in Shared state, or in a line buffer where no frame can hold it (08, R208; 09, R224). Where the
fetch is not to be kept (R237), or a contribution has opened a Reduce line of it meanwhile, the copy answers the reads that wait and goes.
-/
def State.holdShared (s : State) (lod line : Nat) (keep : Bool) (b : List Byte) (p : Nat) : State :=
  let home := homeColumn (128 * line % 2 ^ 39)
  if (s.shared? lod line).isSome then s
  else if !keep || !(s.reduceOf lod line).isEmpty then s.addLine { lod := lod, line := line, col := 512 + home, kind := .shared b p }
  else
    match s.allocate lod (128 * line) line (.shared b p) (0, 0) with
    | some (s', _) => s'
    | none => s.addLine { lod := lod, line := line, col := 256 + home, kind := .shared b p }

/-- A whole remote line delivered to what asked for it (09, R224, R237; 12, R310). -/
def State.lineArrives (s : State) (t : Txn) (b : List Byte) (p : Nat) : State :=
  let s := s.dropTxn t.id
  match t.kind with
  | .fetch lod line keep => (s.holdShared lod line keep b p).pump
  | .dma ch true => s.dmaLine ch (t.addr / 128) b p
  | .dmaLate ch => s.dmaLateArrival ch
  | .flit f => s.sendData f (sectorOf b p)
  | _ => s

/-- Sectors of a line that come for a transaction; the line is delivered when the last of the four has come. -/
def State.sectorsArrive (s : State) (t : Txn) (xs : Tab (List Byte × Bool)) : State :=
  let got := xs.foldl (fun (g : Tab (List Byte × Bool)) x => g.set x.1 x.2) t.got
  if (List.range 4).all (fun i => got.any (fun e => e.1 == i)) then
    let sec := fun i => got.get i (List.replicate 32 0, false)
    s.lineArrives t (((List.range 4).map (fun i => (sec i).1)).flatten)
      ((List.range 4).foldl (fun n i => if (sec i).2 then n + 2 ^ i else n) 0)
  else
    { s with fab := { s.fab with txns := s.fab.txns.map (fun (x : Txn) => if x.id = t.id then { x with got := got } else x) } }

/-- An acknowledgement where it arrives; `flag` says that a written-home line set `OUT_OF_WINDOW` at its home, which a flush that awaits it
reports (09, R227, R233, R235). -/
def State.ackArrives (s : State) (t : Txn) (flag : Bool) : State :=
  match t.kind with
  | .store blk _ _ _ _ _ => s.performed t blk
  | .feed blk idx => s.fedOne t blk idx
  | .dma ch false => (s.dropTxn t.id).burstDone ch
  | .dmaLate ch => (s.dropTxn t.id).dmaLateArrival ch
  | .remoteWrite (some id) _ => (s.dropTxn t.id).ackOne id
  | .remoteSignal id => (s.dropTxn t.id).ackCmd id
  | .writeHome cmds _ => cmds.foldl (fun s id => (if flag then s.noticeCmd id 0x0104 0 else s).ackCmd id) (s.dropTxn t.id)
  | .flit f => (s.dropTxn t.id).ackFlit f
  | _ => s.dropTxn t.id

/-- A refusal, or a transfer that was lost, where it arrives; what waited for the line goes on. -/
def State.faultArrives (s : State) (t : Txn) (st d : Nat) : State :=
  match t.kind with
  | .fetch _ _ _ => (s.faultNoted t st d).pump
  | _ => s.faultNoted t st d

end Sys2Proof.Machine
end

