-- ==== Sys2Proof/Machine/Window.lean ====
section
/-! DEFINITION. Writes to the VF window and the ends they bring about (02, R24 to R31, R41, R49, R52 to R55, R262, R453, R455). -/

namespace Sys2Proof.Machine

/-- A host write with EP set is ignored and logged as an Advisory Non-Fatal Error (10, R262). -/
def State.advisory (s : State) (k : Nat) : State := s.emit (.aer k 1)

/-- Whether the window of a lodging takes doorbells and `GALLEY_CTRL`: ACTIVE, and not in rescue mode (R315, R390). -/
def State.windowOpen (s : State) (l : Nat) : Bool := (s.lod l).state == .active && s.rel.mode != 2

/-- `DB_DROPS` increments; an ABSENT lodging counts nothing (R315). -/
def State.dropBell (s : State) (l : Nat) : State :=
  if (s.lod l).state = .absent then s else s.modLod l (fun x => { x with dbDrops := sat16 (x.dbDrops + 1) })

/-- `CTRL_DROPS` increments; an ABSENT lodging counts nothing (R315). -/
def State.dropCtrl (s : State) (l : Nat) : State :=
  if (s.lod l).state = .absent then s else s.modLod l (fun x => { x with ctrlDrops := sat16 (x.ctrlDrops + 1) })

/-- A doorbell value evaluated by the porter (R29). -/
def State.ring (s : State) (l g tail : Nat) : State :=
  let x := s.galley l g
  let d := (tail + 2 ^ 32 - x.head) % 2 ^ 32
  let d0 := (x.tail + 2 ^ 32 - x.head) % 2 ^ 32
  if d = d0 then s
  else if d0 < d ∧ d ≤ 2 ^ x.desc.log2Size then
    s.modGalley l g (fun x => { x with tail := tail, bells := (tail, s.now) :: x.bells })
  else s.stopGalley l g 0x0207 0 none

/-- `GALLEY_DOORBELL` (R29, R262, R315, R390). -/
def execGalleyDoorbell (vf off width value : Nat) (ep : Bool) (s : State) : Host.Outcome State Fault Refusal :=
  if ep then .next (s.advisory vf)
  else if !s.windowOpen vf || width != 8 || off % 8 != 0 || decide (value ≥ 2 ^ 32) || (s.galley vf (off / 8)).state != .active then
    .next (s.dropBell vf)
  else .next (s.ring vf (off / 8) value)

/-- A descriptor's bytes 0 to 19 (R26). -/
def descOf (b : List Byte) : GalleyDesc :=
  { base := field b 0 8, cplBase := field b 8 8, log2Size := bits (byteAt b 16) 0 5, cls := bits (byteAt b 17) 0 3,
    priority := bits (byteAt b 17) 4 2, msixEn := bit (byteAt b 18) 7, msixVector := bits (byteAt b 18) 0 6,
    homeEn := bit (byteAt b 19) 4, home := bits (byteAt b 19) 2 2, stopOnError := bit (byteAt b 19) 1,
    seqCheck := bit (byteAt b 19) 0 }

/-- A reserved bit of bytes 0 to 19 is set (R26, R27). -/
def descReserved (b : List Byte) : Bool :=
  decide (field b 0 8 ≥ 2 ^ 57) || decide (field b 8 8 ≥ 2 ^ 57) || strayBits (byteAt b 16) 0x1F || strayBits (byteAt b 17) 0x37
    || strayBits (byteAt b 18) 0xBF || strayBits (byteAt b 19) 0x1F

/-- A field of bytes 0 to 19 is invalid, or `HEAD` differs from `TAIL` (R26, R27). -/
def descInvalid (b : List Byte) : Bool :=
  let d := descOf b
  decide (d.log2Size < 4 ∨ d.log2Size > 16) || d.base % min (64 * 2 ^ d.log2Size) 4096 != 0
    || d.cplBase % min (32 * 2 ^ d.log2Size) 4096 != 0 || field b 24 4 != field b 28 4

/-- A stop of Enable (R27, R453). -/
def State.enableStopped (s : State) (l g st : Nat) : State :=
  s.modGalley l g (fun x => { x with state := .stopped, errStatus := st, errSeq := 0, enableStop := true })

/-- The read of a whole descriptor at Enable: its bytes, or the status and detail of R453. -/
def State.readDesc (s : State) (l g : Nat) (ans : HostAns) : State × Except Status (List Byte) :=
  match s.porterTrans l (s.descVa l g) 64 permRead with
  | .error e => (s, .error (e, 0xFFFD))
  | .ok ps =>
    let host := ps.any (fun p => placeOf p.1 == .host)
    let s := if host then s.logHost l ans else s
    if host && ans == .unsupported then (s, .error (0x0301, 0xFFFD))
    else
      let r := s.readAt l ps
      if r.2.2 || (host && hostPoisons ans) then (r.1, .error (0x0303, 2)) else (r.1, .ok r.2.1)

/-- Enable of a DISABLED galley (R27, R28, R453). -/
def State.enable (s : State) (l g : Nat) (ans : HostAns) : State :=
  match s.readDesc l g ans with
  | (s, .error (st, d)) => ((s.enableStopped l g st).noteFault l g st d).writeBackDesc l g
  | (s, .ok b) =>
    let s := s.modGalley l g (fun x =>
      { x with desc := descOf b, head := field b 24 4, tail := field b 28 4, expectSeq := none, bells := [], enableStop := false })
    if descReserved b then ((s.enableStopped l g 0x0201).writeBackDesc l g).raiseGalley l g
    else if descInvalid b then ((s.enableStopped l g 0x0202).writeBackDesc l g).raiseGalley l g
    else (s.modGalley l g (fun x => { x with state := .active })).writeBackDesc l g

/-- `GALLEY_CTRL` action enable (R27). -/
def execGalleyEnable (vf g : Nat) (ans : HostAns) (ep : Bool) (s : State) : Host.Outcome State Fault Refusal :=
  if ep then .next (s.advisory vf)
  else if !s.windowOpen vf || (s.galley vf g).state != .disabled then .next (s.dropCtrl vf)
  else .next (s.enable vf g ans)

/-- The pending `SIGNAL_WAIT`s of a galley end with 0x0401 (R27, R316). -/
def State.abortWaits (s : State) (l g d : Nat) : State :=
  { s with cmds := s.cmds.map (fun c =>
      if c.lod = l ∧ c.g = g ∧ c.phase = .running ∧ c.opcode = 0x0602 then
        { c with phase := .ended, status := 0x0401, detail := d, endT := s.now, work := s.signal l (c.f 16 2) }
      else c) }

/-- `GALLEY_CTRL` action disable (R27). -/
def execGalleyDisable (vf g : Nat) (ep : Bool) (s : State) : Host.Outcome State Fault Refusal :=
  if ep then .next (s.advisory vf)
  else if !s.windowOpen vf || ((s.galley vf g).state != .active && (s.galley vf g).state != .stopped) then .next (s.dropCtrl vf)
  else
    let s := s.modGalley vf g (fun x => { x with state := .draining })
    .next (((s.abortFetched vf g 0 none).abortWaits vf g 0).writeBackDesc vf g)

/-- `GALLEY_CTRL` action resume (R27). -/
def execGalleyResume (vf g : Nat) (ep : Bool) (s : State) : Host.Outcome State Fault Refusal :=
  if ep then .next (s.advisory vf)
  else if !s.windowOpen vf || (s.galley vf g).state != .stopped || (s.galley vf g).enableStop then .next (s.dropCtrl vf)
  else
    .next ((s.modGalley vf g (fun x =>
      { x with tail := x.head, errStatus := 0, state := .active, expectSeq := none, bells := [] })).writeBackDesc vf g)

/-- A DRAINING galley with no command left is DISABLED (R27). -/
def execDrainComplete (vf g : Nat) (s : State) : Host.Outcome State Fault Refusal :=
  if (s.galley vf g).state = .draining ∧ (s.galleyCmds vf g).isEmpty then
    .next ((s.modGalley vf g (fun x => { x with state := .disabled, enableStop := false })).writeBackDesc vf g)
  else .next s

/-- A write of `GDT_BASE` (R25). -/
def execGdtBaseWrite (vf value : Nat) (ep : Bool) (s : State) : Host.Outcome State Fault Refusal :=
  if ep then .next (s.advisory vf)
  else if (s.lod vf).galleys.any (fun e => e.2.state != .disabled) then .next (s.dropCtrl vf)
  else .next (s.modLod vf (fun x => { x with gdtBase := bits value 16 41 * 2 ^ 16 }))

/-- A write to the signal area (R49, R262, R315, R455). -/
def execSignalAreaWrite (vf off width value : Nat) (ep : Bool) (s : State) : Host.Outcome State Fault Refusal :=
  if ep then .next (s.advisory vf)
  else if (s.lod vf).state != .active || width != 8 || off % 8 != 0 then .next (s.dropBell vf)
  else .next ((s.updateSignal vf ((off - 0x8000) / 8) (fun _ => value)).startAll)

/-- The expiry tick of a pending `SIGNAL_WAIT` (R51 to R53). -/
def execSignalWaitTimeout (cmd : Nat) (s : State) : Host.Outcome State Fault Refusal :=
  match s.cmd? cmd with
  | none => .next s
  | some c =>
    let us := c.f 32 4
    if c.opcode = 0x0602 ∧ c.phase = .running ∧ us ≠ 0xFFFFFFFF ∧ s.expired c.start (us * 1000) then
      let s := s.modCmd cmd (fun c =>
        { c with phase := .ended, status := 0x0400, detail := 0, endT := lastTick s.now, work := s.signal c.lod (c.f 16 2) })
      .next (s.startAll)
    else .next s

/-- Whether a mailbox is `BUSY`: an operation in it, or its lodging RESETTING or DESTROYING (R54, R315). -/
def State.mbxBusy (s : State) (fn : Fn) : Bool :=
  (s.mbx fn).busy ||
    (match fn with
     | .pf => false
     | .vf n => (s.lod n).state == .resetting || (s.lod n).state == .destroying)

/-- A write ignored while `BUSY` (R54). -/
def State.reject (s : State) (fn : Fn) : State := s.modMbx fn (fun m => { m with rejects := sat16 (m.rejects + 1) })

/-- A write to `MBX_CMD` (R54, R262). -/
def execMbxCmdWrite (fn : Fn) (off : Nat) (bytes : List Byte) (ep : Bool) (s : State) : Host.Outcome State Fault Refusal :=
  if ep then .next (s.advisory (fnKey fn))
  else if s.mbxBusy fn then .next (s.reject fn)
  else if off < 0x2100 ∨ off + bytes.length > 0x2140 then .next s
  else .next (s.modMbx fn (fun m => { m with cmd := patch m.cmd (off - 0x2100) bytes }))

end Sys2Proof.Machine
end

