-- ==== Sys2Proof/Machine/Resets.lean ====
section
/-! DEFINITION. Lodging reset and destruction in their steps (13, R315 to R317; 08, R215; 10, R254, R264), and the Function Level
Reset that starts one (18, R402). A reset takes one step for R316 step 1, waits for the commands that run on, and then makes
steps 2 to 5. -/

namespace Sys2Proof.Machine

/-! ### Holders (18, R401) -/

/-- The lodging that an admin packet names: a VF mailbox acts on its own (R397). -/
def adminLodging (key : Nat) (packet : List Byte) : Nat := if key < 256 then key else byteAt packet 16

/-- A resource of R401 that operations hold. -/
inductive AdminRes where
  | lodging (l : Nat)
  | flash
  deriving DecidableEq, Repr

/-- What an admin operation holds: the lodging it names, or the flash. -/
def AdminOp.holds (o : AdminOp) (key : Nat) : Option AdminRes :=
  match o.opcode with
  | 0x0F01 => some (.lodging (adminLodging key o.packet))
  | 0x0F02 => some (.lodging (adminLodging key o.packet))
  | 0x0F03 => some (.lodging (adminLodging key o.packet))
  | 0x0F04 => some .flash
  | 0x0F07 => some (.lodging (adminLodging key o.packet))
  | 0x0F08 => if bits (byteAt o.packet 36) 0 2 = 0 then some (.lodging (adminLodging key o.packet)) else none
  | _ => none

/-- Admin operations not yet ended, by mailbox: those the standby pair carries first (R460). -/
def State.adminOps (s : State) : List (Nat × AdminOp) :=
  s.ink.carried ++ s.mail.filterMap (fun e => match e.2.op with | some o => some (e.1, o) | none => none)

/-- Whether an operation has been served: it waits for commands, or its outcome is decided. -/
def AdminOp.begun (o : AdminOp) : Bool := o.waiting || o.decided

/-- The lodging reset or destruction, as an admin operation, that a lodging undergoes. -/
def State.resetOp? (s : State) (l : Nat) : Option (Nat × AdminOp) :=
  s.adminOps.find? (fun e => (e.2.opcode == 0x0F02 || e.2.opcode == 0x0F03) && e.2.waiting && !e.2.decided
    && adminLodging e.1 e.2.packet == l)

/-- The function that holds a resource: an operation in progress (the PF's as 0xFFFF), or a Function Level Reset that
runs. -/
def State.holder (s : State) (r : AdminRes) : Option Nat :=
  match s.adminOps.find? (fun e => e.2.begun && e.2.holds e.1 == some r) with
  | some e => some (if e.1 = 256 then 0xFFFF else e.1)
  | none =>
    match r with
    | .flash => none
    | .lodging l => if (s.lod l).state = .resetting ∧ (s.resetOp? l).isNone then some l else none

/-! ### Step 1 of R316 -/

/-- The command that a column's core runs a unit of. -/
def State.unitCmd (s : State) (col : Nat) : Option Nat :=
  match (s.core col).run with
  | .idle => none
  | .mat u => some u.key.cmd
  | .attn u => some u.key.cmd

/-- Whether a running command is one that R316 stops. -/
def stoppedByReset (opcode : Nat) : Bool :=
  opcode / 256 == 0x01 || opcode == 0x0201 || opcode == 0x0202 || opcode == 0x0203 || opcode == 0x0301 || opcode / 256 == 0x04
    || opcode == 0x0501 || opcode == 0x0602

/-- A command channel whose command is stopped: the burst in progress is its last, and one with none ends now. -/
def State.lastBurst (s : State) (gch : Nat) : State :=
  let c := s.chan gch
  match c.burst with
  | some b => s.modChan gch (fun c => { c with act := { c.act with count := c.position + b.bytes }, remain := b.bytes })
  | none => s.segmentEnded gch none

/-- Commands not yet started and pending `SIGNAL_WAIT`s end with 0x0401, detail 2; the others that R316 stops fail with it. -/
def State.abortLodging (s : State) (l : Nat) : State :=
  let ids := (s.cmds.filter (fun (c : Cmd) => c.lod == l && c.phase == .running && stoppedByReset c.opcode)).map (·.id)
  let s : State := { s with cmds := s.cmds.map (fun (c : Cmd) =>
    if c.lod = l ∧ c.phase = .fetched then
      { c with phase := .ended, status := 0x0401, detail := 2, start := s.now, endT := s.now, failing := some (0x0401, 2) }
    else c) }
  let s := (s.cmds.filter (fun (c : Cmd) => ids.contains c.id && c.opcode == 0x0602)).foldl
    (fun s c => s.abortWaits l c.g 2) s
  let s := ids.foldl (fun s id => s.failCmd id 0x0401 2) s
  let s := s.discardUnits ((List.range 256).filter (fun c => match s.unitCmd c with | some id => ids.contains id | none => false))
  let s := s.sweepFailed
  let s := (s.blocks.filter (fun (b : Block) => ids.contains b.cmd)).foldl (fun s b => s.dropBlock b) s
  let s := ids.foldl (fun s id => s.settleLaunch id) s
  let chans := (s.dma.chans.filter (fun e => match e.2.cmd with | some id => ids.contains id | none => false)).map (·.1)
  let s := chans.foldl (fun s g => s.lastBurst g) s
  let s := ids.foldl (fun s id => s.settleCopy id) s
  (s.cmds.filter (fun (c : Cmd) => ids.contains c.id && c.opcode == 0x0501)).foldl (fun s c => s.endCmd c.id) s

/-- Commands of a lodging that are to end with 0x0401, detail 2. -/
def State.aborted (s : State) (l : Nat) : Nat :=
  s.cmds.countP (fun (c : Cmd) => c.lod == l &&
    (c.failing == some (0x0401, 2) || (c.phase == .ended && c.status == 0x0401 && c.detail == 2)))

/-- Step 1 of R316: the lodging's state, its commands, and the `WORK` of `LODGING_RESET` (R398). -/
def State.beginReset (s : State) (l : Nat) (st : LState) : State × Nat :=
  let before := s.aborted l
  let s := (s.modLod l (fun x => { x with state := st })).abortLodging l
  (s, s.aborted l - before)

/-! ### Steps 2 to 5 of R316 -/

/-- Step 2 for the Reduce lines: each is written home; one whose home cannot be reached stays, or is discarded at a destruction
(R240, R317). -/
def State.resetReduce (s : State) (destroy : Bool) : List CacheLine → State
  | [] => s
  | y :: r => ((s.sendHome y []).getD (if destroy then s.discardReduce y else s)).resetReduce destroy r

/-- Step 2: Reduce lines written home, Shared lines dropped; whether every home has acknowledged. -/
def State.resetLines (s : State) (l : Nat) (destroy : Bool) : State × Bool :=
  let s := s.resetReduce destroy (s.stn.lines.filter (fun y => y.lod == l && y.isReduce))
  let s := { s with stn := { s.stn with lines := s.stn.lines.filter (fun y =>
    !(y.lod == l && (match y.kind with | .shared _ _ => true | _ => false))) } }
  let s := s.unkeep l (fun _ => true)
  (s, !s.fab.txns.any (fun t => t.lod == l && (match t.kind with | .writeHome _ _ => true | _ => false)))

/-- Both header fields of every quarter of a lodging's trace region set to zero (19, R416). -/
def State.clearTrace (s : State) (l : Nat) : State :=
  let s := s.modLod l (fun x => { x with trace := [] })
  match s.contract? l with
  | none => s
  | some c =>
    if c.traceMib = 0 then s
    else (List.range 4).foldl (fun s k => s.writeRange l (c.traceBase + k * c.quarterBytes) (List.replicate 16 0) false (0, 0)) s

/-- Steps 3 and 4: instruction-cache lines invalidated; galleys, window registers, signals and event log at their reset values. -/
def State.clearLodging (s : State) (l : Nat) : State :=
  let s := { s with
    cores := s.cores.map (fun (e : Nat × ColCore) => (e.1, { e.2 with icache := e.2.icache.filter (fun x => x.lod != l) })),
    mail := s.mail.map (fun (e : Nat × Mailbox) => if e.1 = l then (e.1, { e.2 with done := false, rejects := 0 }) else e),
    msix := s.msix.map (fun (e : Nat × MsixFn) =>
      if e.1 = l then (e.1, { e.2 with vectors := e.2.vectors.map (fun (v : Nat × MsixVec) => (v.1, { MsixVec.reset with pending := v.2.pending })) }) else e) }
  let s := s.modLod l (fun x => { x with
    galleys := [], gdtBase := 0, dbDrops := 0, ctrlDrops := 0, gfault := { valid := false, galley := 0, status := 0, detail := 0 },
    signals := [], events := [], nextEvent := 0, digests := [] })
  s.clearTrace l

/-- Steps 2 to 4, once no command of the lodging is left: the state, and whether they are done. -/
def State.resetSteps (s : State) (l : Nat) (destroy : Bool) : State × Bool :=
  if s.cmds.any (fun (c : Cmd) => c.lod == l) then (s, false)
  else
    match s.resetLines l destroy with
    | (s, true) => (s.clearLodging l, true)
    | (s, false) => (s, false)

/-- A reset carried on to its end where it can be: ACTIVE, with event 0x03. -/
def State.finishReset (s : State) (l : Nat) : State × Bool :=
  match s.resetSteps l false with
  | (s, true) => ((s.modLod l (fun x => { x with state := .active })).event l 0x03 0 0, true)
  | (s, false) => (s, false)

/-! ### Frames and pages returned (08, R215; 10, R254) -/

/-- The pages of a mapping that a range of physical addresses touches, as a virtual range. -/
def Mapping.touching (m : Mapping) (lo n : Nat) : Option (Nat × Nat) :=
  let fin := m.pa + m.size * m.count
  if overlaps m.pa (m.size * m.count) lo n then
    let a := (max lo m.pa - m.pa) / m.size
    let b := (min (lo + n) fin - 1 - m.pa) / m.size
    some (m.va + a * m.size, (b + 1 - a) * m.size)
  else none

/-- A lodging's translations of a range of physical addresses removed. -/
def State.unmapTarget (s : State) (l lo n : Nat) : State :=
  ((s.lod l).maps.filterMap (fun m => m.touching lo n)).foldl (fun s r => s.removePages l r.1 r.2) s

/-- Scratch frames in a range read as zero for their next owner: every sector valid bit is cleared. -/
def State.clearScratch (s : State) (lo n : Nat) : State :=
  let inside := fun a => decide (lo ≤ a ∧ a < lo + n)
  let keys := (s.stn.wordErrs.filter (fun e => decide (e.1 < 2 ^ 40))).map (·.1)
  let gone := fun k => inside (2 ^ 40 + (k / 2 ^ 22 / 64) * 2 ^ 31 + (k % 2 ^ 22 / 16 / 512) * 2 ^ 22 + (k / 2 ^ 22 % 64) * 2 ^ 16)
  { s with
    mem := { cells := s.mem.cells.filter (fun c => !inside c.1), poison := s.mem.poison.filter (fun p => !inside (32 * p)) },
    stn := { s.stn with valid := s.stn.valid.filter (fun k => !inside (32 * k)), wordErrs := s.stn.wordErrs.filter (fun e => !(keys.contains e.1 && gone e.1)) } }

/-- HBM4 pages of a range returned: their lines invalidated without write-back, their valid bits cleared (R254). -/
def State.returnPages (s : State) (lo n : Nat) : State :=
  let inside := fun a => decide (lo ≤ a ∧ a < lo + n)
  { s with
    stn := { s.stn with lines := s.stn.lines.filter (fun y =>
      !((match y.kind with | .localLine _ _ => true | .pinned _ _ _ _ => true | _ => false) && inside (128 * y.line))) },
    hbm := { s.hbm with
      valid := s.hbm.valid.filter (fun p => !inside (4096 * p)), wbBuf := s.hbm.wbBuf.filter (fun y => !inside (128 * y.line)),
      under := s.hbm.under.filter (fun e => !inside (32 * e.1)) } }

/-- The scratch ranges of a contract: hashed rows, then affine frames; the flag says hashed. -/
def Contract.scratchRanges (c : Contract) : List (Bool × Nat × Nat) :=
  ((List.range 4).map (fun k =>
    ((List.range (c.hashRows.getD k 0)).map (fun i => (true, 2 ^ 40 + k * 2 ^ 31 + (c.hashFirst.getD k 0 + i) * 2 ^ 22, 2 ^ 22))) ++
    ((List.range (c.affRows.getD k 0)).map (fun i =>
      (setBits (c.affSlices.getD k 0) 64).map (fun n =>
        (false, 2 ^ 40 + k * 2 ^ 31 + (c.affFirst.getD k 0 + i) * 2 ^ 22 + n * 2 ^ 16, 2 ^ 16)))).flatten)).flatten

/-- The GiB of HBM4 that a contract's extents name. -/
def Contract.gibs (c : Contract) : List Nat := (c.extents.map (fun e => (List.range e.2).map (· + e.1))).flatten

/-- Every cluster's turn that a lodging has ends. -/
def State.dropTurns (s : State) (l mask : Nat) : State :=
  { s with turns := s.turns.map (fun (e : Nat × Turn) =>
      if e.2.lod = some l ∧ bit mask e.1 then (e.1, { e.2 with lod := none, switchUntil := none, restoreUntil := none }) else e) }

/-- `LODGING_DESTROY` carried on to its end where it can be: mappings, frames, pages, key and contract are gone, and the lodging is
ABSENT (R317). -/
def State.finishDestroy (s : State) (l : Nat) : State × Bool :=
  match s.resetSteps l true with
  | (s, false) => (s, false)
  | (s, true) =>
    let s := ((s.lod l).maps).foldl (fun s m => s.removePages l m.va (m.size * m.count)) s
    let s := match s.contract? l with
      | none => s
      | some c =>
        let s : State := c.scratchRanges.foldl (fun (s : State) (r : Bool × Nat × Nat) => s.clearScratch r.2.1 r.2.2) s
        let s : State := c.gibs.foldl (fun (s : State) g => s.returnPages (g * 2 ^ 30) (2 ^ 30)) s
        s.dropTurns l (c.shared ||| c.dedicated)
    let s := { s with stn := { s.stn with lines := s.stn.lines.filter (fun y => y.lod != l) } }
    let s := s.modLod l (fun x => { Lodging.reset with flrPending := x.flrPending })
    (s.recomputeShares, true)

/-! ### Function Level Reset (18, R402) -/

/-- A reset or destruction that no admin operation carries, taken to its end where it can be: those that a Function Level Reset or
`PERST_N` started (20, R439). -/
def State.carryFlr (s : State) (l : Nat) : State :=
  if (s.lod l).state = .resetting ∧ (s.resetOp? l).isNone then (s.finishReset l).1
  else if (s.lod l).state = .destroying ∧ (s.resetOp? l).isNone then (s.finishDestroy l).1
  else s

/-- The reset of lodging n by a Function Level Reset of VF n begins. -/
def State.startFlr (s : State) (l : Nat) : State := ((s.beginReset l .resetting).1).carryFlr l

/-- A Function Level Reset that waited for an operation on its lodging starts when that operation ends. -/
def State.releaseFlr (s : State) (l : Nat) : State :=
  if (s.lod l).flrPending && (s.holder (.lodging l)).isNone then
    let s := s.modLod l (fun x => { x with flrPending := false })
    if (s.lod l).state = .active then s.startFlr l else s
  else s

/-- `FUNCTION_LEVEL_RESET` of a VF: its PCIe state, and the reset of its lodging; while one runs it is carried on, and no second one
follows (R402; 02, R456). -/
def execFunctionLevelReset (vf : Nat) (s : State) : Host.Outcome State Fault Refusal :=
  let s := { s with msix := s.msix.set vf MsixFn.reset }
  match (s.lod vf).state with
  | .absent => .next s
  | .active =>
    if (s.holder (.lodging vf)).isSome then .next (s.modLod vf (fun x => { x with flrPending := true })) else .next (s.startFlr vf)
  | .resetting => .next (s.carryFlr vf)
  | .destroying => .next (s.carryFlr vf)

end Sys2Proof.Machine
end

