-- ==== Sys2Proof/Machine/Contracts.lean ====
section
/-! DEFINITION. Contracts: their layout (13, R323), their checks (R324), and the grants and withdrawals that a new one makes (R325, R327). -/

namespace Sys2Proof.Machine

/-- A contract from its 256 bytes (R323). -/
def contractOf (b : List Byte) : Contract :=
  { dedicated := field b 0 4, shared := field b 4 4, weight := field b 8 2, domainTag := field b 10 2, tableMib := field b 12 4,
    extents := (List.range 8).map (fun i => (bits (field b (16 + 4 * i) 4) 0 9, bits (field b (16 + 4 * i) 4) 16 9)),
    affSlices := (List.range 4).map (fun k => field b (48 + 20 * k) 8),
    affFirst := (List.range 4).map (fun k => field b (56 + 20 * k) 2),
    affRows := (List.range 4).map (fun k => field b (58 + 20 * k) 2),
    hashFirst := (List.range 4).map (fun k => field b (60 + 20 * k) 2),
    hashRows := (List.range 4).map (fun k => field b (62 + 20 * k) 2),
    cacheFrames := (List.range 4).map (fun k => field b (64 + 20 * k) 2),
    floor := (List.range 8).map (fun k => field b (128 + 2 * k) 2),
    latencyUs := field b 144 4, latClasses := byteAt b 148,
    portShare := (List.range 12).map (fun p => byteAt b (152 + p)),
    dmaCh := (List.range 4).map (fun k => field b (164 + 3 * k) 3), traceMib := field b 176 4 }

/-- The bits of a contract byte that R323 lists. -/
def contractMask (off : Nat) : Nat :=
  if off < 16 then 255
  else if off < 48 then (if off % 2 = 0 then 255 else 1)
  else if off < 128 then (if (off - 48) % 20 < 18 then 255 else 0)
  else if off < 149 then 255
  else if off < 152 then 0
  else if off < 180 then 255 else 0

/-- The first contract byte with a reserved bit set. -/
def contractReserved (b : List Byte) : Option Nat := (List.range 256).find? (fun off => strayBits (byteAt b off) (contractMask off))

/-- The other lodgings that have a contract, ascending. -/
def State.otherContracts (s : State) (l : Nat) : List (Nat × Contract) :=
  allLods.filterMap (fun k => if k = l then none else match s.contract? k with | some c => some (k, c) | none => none)

/-- Two runs of numbers meet. -/
def runsMeet (a n b m : Nat) : Bool := decide (0 < n ∧ 0 < m) && overlaps a n b m

/-- Whether two contracts name a frame in common in a stack: affine frames by slice and row, hashed rows by row. -/
def Contract.framesMeet (c d : Contract) (k : Nat) : Bool :=
  let aff := fun (x : Contract) => (x.affFirst.getD k 0, if x.affSlices.getD k 0 = 0 then 0 else x.affRows.getD k 0)
  let hash := fun (x : Contract) => (x.hashFirst.getD k 0, x.hashRows.getD k 0)
  (runsMeet (aff c).1 (aff c).2 (aff d).1 (aff d).2 && decide (c.affSlices.getD k 0 &&& d.affSlices.getD k 0 ≠ 0))
    || runsMeet (aff c).1 (aff c).2 (hash d).1 (hash d).2 || runsMeet (hash c).1 (hash c).2 (aff d).1 (aff d).2
    || runsMeet (hash c).1 (hash c).2 (hash d).1 (hash d).2

/-- Whether a contract asks for a cluster, frame or GiB that another holds, or for a cluster in a use that the other excludes. -/
def Contract.conflicts (c d : Contract) : Bool :=
  decide (c.dedicated &&& (d.dedicated ||| d.shared) ≠ 0) || decide (c.shared &&& d.dedicated ≠ 0)
    || (List.range 4).any (fun k => c.framesMeet d k)
    || c.extents.any (fun e => d.extents.any (fun f => runsMeet e.1 e.2 f.1 f.2))

/-- The extent that holds the reserves: the one that ends highest (R327). -/
def Contract.reserveExtent (c : Contract) : Nat :=
  ((List.range 8).find? (fun i => (c.extents.getD i (0, 0)).2 != 0
    && (((c.extents.getD i (0, 0)).1 + (c.extents.getD i (0, 0)).2) * 2 ^ 30) == c.top)).getD 0

/-- Bytes of the three reserves. -/
def Contract.reserveBytes (c : Contract) : Nat := (c.tableMib + c.traceMib) * 2 ^ 20 + popcount c.shared 32 * (13 * 2 ^ 19)

/-- The rows of R324 in order, for a lodging that is created (`old` none) or whose contract is changed. -/
def State.contractCheck (s : State) (l : Nat) (b : List Byte) : Option Status :=
  let c := contractOf b
  let x := s.lod l
  let others := s.otherContracts l
  let all := c :: others.map (·.2)
  let fits := decide (c.reserveBytes ≤ (c.extents.getD c.reserveExtent (0, 0)).2 * 2 ^ 30)
  let lo := c.top - c.reserveBytes
  if c.dedicated &&& c.shared ≠ 0 then some (0x0202, 0x1004)
  else if c.weight = 0 then some (0x0202, 0x1008)
  else if c.tableMib = 0 then some (0x0202, 0x100C)
  else
    match contractReserved b with
    | some off => some (0x0202, 0x1000 + off)
    | none =>
      if x.contract.isSome && x.maps.any (fun m => decide (m.pa < 2 ^ 39) && overlaps m.pa (m.size * m.count) lo (c.top - lo)) then
        some (0x0202, 0x1010 + 4 * c.reserveExtent)
      else
        match (List.range 8).find? (fun i => (c.extents.getD i (0, 0)).2 != 0
            && decide ((c.extents.getD i (0, 0)).1 + (c.extents.getD i (0, 0)).2 > 511)) with
        | some i => some (0x0207, 0x1010 + 4 * i)
        | none =>
          match (List.range 8).find? (fun j =>
              if j % 2 = 0 then c.affRows.getD (j / 2) 0 != 0 && decide (c.affFirst.getD (j / 2) 0 + c.affRows.getD (j / 2) 0 > 512)
              else c.hashRows.getD (j / 2) 0 != 0 && decide (c.hashFirst.getD (j / 2) 0 + c.hashRows.getD (j / 2) 0 > 512)) with
          | some j => some (0x0207, 0x1000 + 48 + 20 * (j / 2) + (if j % 2 = 0 then 8 else 12))
          | none =>
            match (List.range 4).find? (fun k => (List.range 64).any (fun n => decide ((all.map (fun d => d.framesIn k n)).sum > 512))) with
            | some k => some (0x0207, 0x1040 + 0x14 * k)
            | none =>
              match (List.range 8).find? (fun k => decide ((all.map (fun d => d.floor.getD k 0)).sum > 921)) with
              | some k => some (0x0207, 0x1080 + 2 * k)
              | none =>
                match (List.range 12).find? (fun p => decide ((all.map (fun d => d.portShare.getD p 0)).sum > 256)) with
                | some p => some (0x0207, 0x1098 + p)
                | none =>
                  if c.tableMib > 65536 then some (0x0207, 0x100C)
                  else if !fits || decide (16 * x.pages > c.tableMib * 2 ^ 20) then some (0x0207, 0x100C)
                  else if c.traceMib > 4096 then some (0x0207, 0x10B0)
                  else
                    match others.find? (fun d => c.conflicts d.2) with
                    | some d => some (0x0600, d.1)
                    | none => none

/-! ### Grants (18, R399) -/

/-- `LODGING_CREATE`: the key generated, the contract granted, the lodging ACTIVE, event 0x04 (18, R399, R407; 02, R49; 19, R416). -/
def State.createLodging (s : State) (l : Nat) (c : Contract) : State :=
  let s := s.modLod l (fun x => { Lodging.reset with
    state := .active, contract := some c, key := some s.ink.nextKey, flrPending := x.flrPending })
  let s : State := { s with ink := { s.ink with nextKey := s.ink.nextKey + 1 } }
  ((s.clearTrace l).recomputeShares).event l 0x04 0 0

/-! ### A contract change (R325) -/

/-- Units of the lodging on withdrawn clusters are run again elsewhere; its blocks there are saved. -/
def State.withdrawClusters (s : State) (l mask : Nat) : State :=
  let ds := setBits mask 32
  let cols := ((ds.map columnsOf).flatten).filter (fun c =>
    match s.unitCmd c with
    | some id => (match s.cmd? id with | some k => k.lod == l | none => false)
    | none => false)
  let s := (s.discardUnits cols).dropTurns l mask
  ds.foldl (fun s d => s.saveBlocks l d true) s

/-- The lines of a lodging in a stack leave its cache frames, whose number changes: dirty sectors are written back, Reduce lines written home
(08, R215; LOG 149). -/
def State.emptyFrames (s : State) (l k : Nat) : State :=
  (s.stn.lines.filter (fun y => y.lod == l && stackOf y.col == k && !y.isPinned && !y.buffered)).foldl
    (fun s y => ((s.ackedLine y.line).replace y (0, 0)).getD s) s

/-- The pinned lines of a lodging in a stack put in the sets that its cache frames now form, 12 ways of each at most (09, R230); those that
find no place are held in line buffers (LOG 149). -/
def State.settlePins (s : State) (l k : Nat) : State :=
  let mine := s.stn.lines.filter (fun y => y.lod == l && y.isPinned && stackOf (y.col % 256) == k)
  let c := s.cacheFrames l k
  mine.foldl (fun s y =>
    let col := s.lineColumn y.addr
    let there := s.stn.lines.countP (fun z => z.lod == l && z.isPinned && z.col == col && setOf z.addr c == setOf y.addr c)
    s.useLine { y with col := 256 + y.col % 256 } { y with col := if c = 0 ∨ there ≥ 3 then 256 + col else col })
    (mine.foldl (fun s y => s.swapLine y { y with col := 256 + y.col % 256 }) s)

/-- `CONTRACT_SET`: withdrawals, the reserves moved, then the new contract in force, its command channels dealt to at once, and event 0x04
(R325). -/
def State.changeContract (s : State) (l : Nat) (c : Contract) : State :=
  match s.contract? l with
  | none => s
  | some old =>
    let s := s.withdrawClusters l ((old.dedicated ||| old.shared) &&& (2 ^ 32 - 1 - ((c.dedicated ||| c.shared) % 2 ^ 32)))
    let kept := c.scratchRanges
    let frames := old.scratchRanges.filter (fun r => !kept.contains r)
    let gibs := old.gibs.filter (fun g => !c.gibs.contains g)
    let s : State := frames.foldl (fun (s : State) (r : Bool × Nat × Nat) => (s.unmapTarget l r.2.1 r.2.2).clearScratch r.2.1 r.2.2) s
    let s : State := gibs.foldl (fun (s : State) g => (s.unmapTarget l (g * 2 ^ 30) (2 ^ 30)).returnPages (g * 2 ^ 30) (2 ^ 30)) s
    let changed := (List.range 4).filter (fun k => c.cacheFrames.getD k 0 != old.cacheFrames.getD k 0)
    let s : State := changed.foldl (fun (s : State) k => s.emptyFrames l k) s
    let s := s.modLod l (fun x => { x with contract := some c })
    let s : State := changed.foldl (fun (s : State) k => s.settlePins l k) s
    let s := if c.traceBase = old.traceBase ∧ c.traceMib = old.traceMib then s else s.clearTrace l
    let s := (List.range 4).foldl (fun s k => s.dealAll k) s
    s.recomputeShares.event l 0x04 0 0

end Sys2Proof.Machine
end

