-- ==== Sys2Proof/Machine/Porter.lean ====
section
/-! DEFINITION. The porters (02): fetching a command, the checks of R37, and writing its completion (R44). -/

namespace Sys2Proof.Machine

/-! ### Fetching (R31, R34, R35, R40, R42, R43) -/

/-- The time of the doorbell that first covered `used` packets from `HEAD` on. -/
def Galley.bellTime (x : Galley) (used now : Nat) : Nat :=
  match (x.bells.filter (fun b => decide (used ≤ (b.1 + 2 ^ 32 - x.head) % 2 ^ 32 ∧ (b.1 + 2 ^ 32 - x.head) % 2 ^ 32 ≤ 2 ^ 16))).getLast? with
  | some b => b.2
  | none => now

/-- A command as fetched from the ring (R32, R35). -/
def State.newCmd (s : State) (l g : Nat) (b : List Byte) (used : Nat) : Cmd :=
  let x := s.galley l g
  { id := s.nextCmd, lod := l, g := g, slot := x.head, opcode := field b 0 2, flags := byteAt b 2, qclass := byteAt b 3 % 8,
    layer := field b 4 2, oper := field b 6 2, seq := field b 8 4, tag := field b 12 4, packet := b, stack := s.homePorter l g,
    bellTime := x.bellTime used s.now, phase := .fetched, start := s.now, endT := s.now, status := 0, detail := 0, work := 0,
    notices := [], failing := none, acks := 0, issued := true, read := [], readPoison := [], upTo := 0 }

/-- The ring after a fetch: `HEAD` past every consumed slot, and `SEQ` of the next command (R34, R37). -/
def State.advance (s : State) (c : Cmd) (used : Nat) : State :=
  s.modGalley c.lod c.g (fun x =>
    let h := (x.head + used) % 2 ^ 32
    { x with head := h, expectSeq := some ((c.seq + 1) % 2 ^ 32),
             bells := x.bells.filter (fun b => decide (1 ≤ (b.1 + 2 ^ 32 - h) % 2 ^ 32 ∧ (b.1 + 2 ^ 32 - h) % 2 ^ 32 ≤ 2 ^ 16)) })

/-- `HEAD` written back after every 16 packets and when nothing is left to fetch (R31). -/
def State.headBack (s : State) (l g used : Nat) : State :=
  let x := s.galley l g
  if x.head = x.tail ∨ x.head % 16 < used then s.writeBackDesc l g else s

/-- A fetched command recorded in flight. -/
def State.addCmd (s : State) (c : Cmd) : State := { s with cmds := s.cmds ++ [c], nextCmd := s.nextCmd + 1 }

/-- A command that ends at fetch: its porter counts it, and it is in flight with its outcome decided (R37; 19, R414). -/
def State.refusedAtFetch (s : State) (p : Porter) (c : Cmd) (st d used : Nat) : State :=
  ((((s.usePorter c.stack p).countCheck c).addCmd (c.endedAt st d)).advance c used).headBack c.lod c.g used

/-- The next command of a galley fetched, checked and, where R40 allows, dispatched; one that R40 holds back uses no turn and waits for its
last two checks (LOG 27). A row is for the opcodes that `want` accepts; where the galley's next command is another, or nothing may be
fetched, the command changes nothing. -/
def State.fetchRow (s : State) (l g : Nat) (want : Nat → Bool) (ans : HostAns) : State :=
  match s.grantFetch l g with
  | none => s
  | some p =>
    match s.chain l g with
    | (t, .packets b used bad) =>
      let c := t.newCmd l g b used
      if !want c.opcode then s
      else
        match t.packetBad c bad with
        | some f => t.refusedAtFetch p c f.1 f.2 used
        | none =>
          if t.mayStart c then
            match t.dispatchCheck c ans with
            | .wait w => w
            | .bad w st d => w.refusedAtFetch p c st d used
            | .ok w rd ps =>
              let c := { c with read := rd, readPoison := ps }
              (((((w.usePorter c.stack p).addCmd c).advance c used).headBack l g used).startCmd c ans).startAll ans
          else (((t.addCmd c).advance c used).headBack l g used).startAll ans
    | _ => s

/-- `NOP` (R36, R37). -/
def execNop (lod g : Nat) (s : State) : Host.Outcome State Fault Refusal := .next (s.fetchRow lod g (· == 0x0000) .data)
/-- `GEMM` (04, R98 to R106). -/
def execGemm (lod g : Nat) (s : State) : Host.Outcome State Fault Refusal := .next (s.fetchRow lod g (· == 0x0101) .data)
/-- `GEMM_GROUPED` (04, R107, R108). -/
def execGemmGrouped (lod g : Nat) (ans : HostAns) (s : State) : Host.Outcome State Fault Refusal :=
  .next (s.fetchRow lod g (· == 0x0102) ans)
/-- `GEMM_MULTIWORD` (04, R109). -/
def execGemmMultiword (lod g : Nat) (s : State) : Host.Outcome State Fault Refusal := .next (s.fetchRow lod g (· == 0x0103) .data)
/-- `GEMM_COMPLEX` (04, R110). -/
def execGemmComplex (lod g : Nat) (s : State) : Host.Outcome State Fault Refusal := .next (s.fetchRow lod g (· == 0x0104) .data)
/-- `ELEMENTWISE_ARRAY` (04, R111). -/
def execElementwiseArray (lod g : Nat) (s : State) : Host.Outcome State Fault Refusal := .next (s.fetchRow lod g (· == 0x0120) .data)
/-- `ATTENTION_FWD` (06, R156 to R161). -/
def execAttentionFwd (lod g : Nat) (ans : HostAns) (s : State) : Host.Outcome State Fault Refusal :=
  .next (s.fetchRow lod g (· == 0x0201) ans)
/-- `ATTENTION_BWD` (06, R163). -/
def execAttentionBwd (lod g : Nat) (ans : HostAns) (s : State) : Host.Outcome State Fault Refusal :=
  .next (s.fetchRow lod g (· == 0x0202) ans)
/-- `ATTENTION_DECODE` (06, R162). -/
def execAttentionDecode (lod g : Nat) (ans : HostAns) (s : State) : Host.Outcome State Fault Refusal :=
  .next (s.fetchRow lod g (· == 0x0203) ans)
/-- `KV_APPEND` (06, R165). -/
def execKvAppend (lod g : Nat) (ans : HostAns) (s : State) : Host.Outcome State Fault Refusal :=
  .next (s.fetchRow lod g (· == 0x0204) ans)
/-- `KERNEL_LAUNCH` (03, R76 to R80). -/
def execKernelLaunch (lod g : Nat) (ans : HostAns) (s : State) : Host.Outcome State Fault Refusal :=
  .next (s.fetchRow lod g (· == 0x0301) ans)
/-- `COPY` (12, R298, R300). -/
def execCopy (lod g : Nat) (s : State) : Host.Outcome State Fault Refusal := .next (s.fetchRow lod g (· == 0x0401) .data)
/-- `FILL` (12, R299, R300). -/
def execFill (lod g : Nat) (s : State) : Host.Outcome State Fault Refusal := .next (s.fetchRow lod g (· == 0x0402) .data)
/-- `COPY_REMOTE` (12, R300, R302). -/
def execCopyRemote (lod g : Nat) (s : State) : Host.Outcome State Fault Refusal := .next (s.fetchRow lod g (· == 0x0403) .data)
/-- `REDUCE_PUSH` (09, R239). -/
def execReducePush (lod g : Nat) (ans : HostAns) (s : State) : Host.Outcome State Fault Refusal :=
  .next (s.fetchRow lod g (· == 0x0501) ans)
/-- `EPOCH_FLUSH` (09, R234 to R236). -/
def execEpochFlush (lod g : Nat) (s : State) : Host.Outcome State Fault Refusal := .next (s.fetchRow lod g (· == 0x0502) .data)
/-- `EPOCH_INVALIDATE` (09, R234, R237). -/
def execEpochInvalidate (lod g : Nat) (s : State) : Host.Outcome State Fault Refusal := .next (s.fetchRow lod g (· == 0x0503) .data)
/-- `SIGNAL_WRITE` (R50). -/
def execSignalWrite (lod g : Nat) (s : State) : Host.Outcome State Fault Refusal := .next (s.fetchRow lod g (· == 0x0601) .data)
/-- `SIGNAL_WAIT` (R51). -/
def execSignalWait (lod g : Nat) (s : State) : Host.Outcome State Fault Refusal := .next (s.fetchRow lod g (· == 0x0602) .data)
/-- `MAP` (13, R319 to R321). -/
def execMap (lod g : Nat) (ans : HostAns) (s : State) : Host.Outcome State Fault Refusal := .next (s.fetchRow lod g (· == 0x0701) ans)
/-- `UNMAP` (13, R320, R322). -/
def execUnmap (lod g : Nat) (s : State) : Host.Outcome State Fault Refusal := .next (s.fetchRow lod g (· == 0x0702) .data)
/-- `DIGEST_READ` (19, R430). -/
def execDigestRead (lod g : Nat) (s : State) : Host.Outcome State Fault Refusal := .next (s.fetchRow lod g (· == 0x0801) .data)
/-- `TRACE_MARK` (19, R421). -/
def execTraceMark (lod g : Nat) (s : State) : Host.Outcome State Fault Refusal := .next (s.fetchRow lod g (· == 0x0E01) .data)
/-- `BAD_OPCODE`: an opcode of no galley command and no admin operation (R36). -/
def execBadOpcode (lod g : Nat) (s : State) : Host.Outcome State Fault Refusal :=
  .next (s.fetchRow lod g (fun op => !galleyOpcodes.contains op && !adminOpcode op) .data)
/-- `ADMIN_IN_GALLEY`: an admin opcode in a galley (R36). -/
def execAdminInGalley (lod g : Nat) (s : State) : Host.Outcome State Fault Refusal := .next (s.fetchRow lod g adminOpcode .data)

/-! ### Slots that cannot be read (R39, R453, R462) -/

/-- Whether slot `k` of a galley's next command lies in host memory. -/
def State.slotOnHost (s : State) (l g k : Nat) : Bool :=
  let d := (s.galley l g).desc
  match s.porterTrans l (d.base + 64 * (((s.galley l g).head + k) % 2 ^ d.log2Size)) 64 permRead with
  | .ok ps => ps.any (fun p => placeOf p.1 == .host)
  | .error _ => false

/-- Whether the examination of a chain reaches slot `k`, and the host answers its read. -/
def State.hostSlot (s : State) (l g k : Nat) : Bool :=
  decide (64 * (k + 1) ≤ (s.chain l g).2.bytes.length) && s.slotOnHost l g k

/-- A poisoned packet: its command ends with 0x0303, and the galley stops (R39). The command consumes the slots up to the poisoned one, whose
own `EXT` claims nothing (LOG 53). -/
def State.poisonStop (s : State) (l g : Nat) (p : Porter) (b : List Byte) (used : Nat) : State :=
  let c := s.newCmd l g b used
  let s := (s.usePorter c.stack p).addCmd (c.endedAt 0x0303 1)
  (s.advance c used).stopGalley l g 0x0303 c.seq (some c.id)

/-- `POISONED_PACKET`: a slot of a command, `k` counted from its first packet, whose read returns poison, or is answered by the host with EP
set, a Completer Abort or not at all (R39; 10, R262, R462). -/
def execPoisonedPacket (lod g k : Nat) (ans : HostAns) (s : State) : Host.Outcome State Fault Refusal :=
  match s.grantFetch lod g with
  | none => .next s
  | some p =>
    let r := s.chain lod g
    if hostPoisons ans && s.hostSlot lod g k then
      .next ((r.1.logHost lod ans).poisonStop lod g p (r.2.bytes.take (64 * (k + 1))) (k + 1))
    else
      match r with
      | (t, .poisoned b used) => .next (t.poisonStop lod g p b used)
      | _ => .next s

/-- `RING_SLOT_READ_FAULT`: the read of slot `k` of a command fails translation or permission, or the host answers it with Unsupported
Request: the galley stops, `HEAD` stays, and no record is written (R453). -/
def execRingSlotReadFault (lod g k : Nat) (unsupported : Bool) (s : State) : Host.Outcome State Fault Refusal :=
  match s.grantFetch lod g with
  | none => .next s
  | some p =>
    let stop := fun (t : State) (st : Nat) =>
      ((t.usePorter (s.homePorter lod g) p).stopGalley lod g st 0 none).noteFault lod g st 0xFFFC
    let r := s.chain lod g
    if unsupported && s.hostSlot lod g k then .next (stop (r.1.logHost lod .unsupported) 0x0301)
    else
      match r with
      | (t, .fault st _) => .next (stop t st)
      | _ => .next s

/-! ### Completion (R41, R43 to R47) -/

/-- Lateness of a command in ns against its lodging's latency target, where it is late (13, R323). -/
def State.lateness (s : State) (c : Cmd) : Option Nat :=
  match s.contract? c.lod with
  | none => none
  | some k =>
    let target := 1000 * k.latencyUs
    let lat := elapsed c.bellTime c.endT
    if k.latencyUs ≠ 0 ∧ bit k.latClasses (s.galley c.lod c.g).desc.cls ∧ lat > target then some (lat - target) else none

/-- The command with its last notices and the status of its record (R47). -/
def State.finalCmd (s : State) (c : Cmd) : Cmd :=
  let c := match s.lateness c with
    | some n => c.notice 0x0102 (sat16 ((n + 999) / 1000))
    | none => c
  let base : Status := match c.failing with | some f => worse (some (c.status, c.detail)) f |>.getD f | none => (c.status, c.detail)
  let out := if statusOk base.1 then c.notices.headD (0, 0) else base
  { c with status := out.1, detail := out.2 }

/-- A completion record (R43). -/
def recordBytes (seq tag st d start stop work : Nat) (phase : Bool) : List Byte :=
  leBytes 4 seq ++ leBytes 4 tag ++ leBytes 2 st ++ leBytes 2 d ++ leBytes 6 start ++ leBytes 6 stop ++ leBytes 7 work ++ leBytes 1 (ofBool phase)

/-- Steps 1 and 2 of R44: the digest stored, then the record written and counted, or the stop of R45. -/
def State.writeRecord (s : State) (c : Cmd) : State :=
  let d := (s.galley c.lod c.g).desc
  let s := s.storeDigest c
  let phase := c.slot / 2 ^ d.log2Size % 2 == 0
  match s.porterTrans c.lod (d.cplBase + 32 * (c.slot % 2 ^ d.log2Size)) 32 permWrite with
  | .ok ps =>
    (s.writeAt c.lod ps (recordBytes c.seq c.tag c.status c.detail c.start c.endT c.work phase)).modGalley c.lod c.g
      (fun x => { x with cplCount := (x.cplCount + 1) % 2 ^ 32 })
  | .error e =>
    (s.stopGalley c.lod c.g e c.seq (some c.id)).noteFault c.lod c.g e 0xFFFF

/-- Step 3 of R44. -/
def State.doneSignal (s : State) (c : Cmd) : State :=
  if flagSignal c.flags && statusOk c.status then
    s.updateSignal c.lod (c.f 56 2) (signalOp (c.f 58 1) (c.f 60 4))
  else s

/-- Step 4 of R44. -/
def State.doneInterrupt (s : State) (c : Cmd) : State := if flagInt c.flags then s.raiseGalley c.lod c.g else s

/-- Notices that a higher class displaced, counted (R47); the latency breach of a record with 0x0102 (13, R333). -/
def State.countNotices (s : State) (c : Cmd) : State :=
  let s := if statusOk c.status then s
    else s.modLod c.lod (fun x => { x with displaced := c.notices.foldl (fun (t : Tab Nat) n => t.set n.1 (t.get n.1 0 + 1)) x.displaced })
  if c.status = 0x0102 then (s.modLod c.lod (fun x => { x with lastLate := s.now })).setBreach c.lod 6 6 0 true else s

/-- What a command held while it ran, removed with it. -/
def State.dropCmd (s : State) (c : Cmd) : State :=
  let s := { s with
    cmds := s.cmds.filter (fun x => x.id != c.id), mats := s.mats.filter (fun x => x.cmd != c.id),
    attns := s.attns.filter (fun x => x.cmd != c.id), launches := s.launches.filter (fun x => x.cmd != c.id),
    dma := { s.dma with copies := s.dma.copies.filter (fun x => x.cmd != c.id) },
    fab := { s.fab with txns := s.fab.txns.filter (fun (t : Txn) => match t.kind with | .fetchFault l _ _ _ => l != c.lod | _ => true) } }
  s.purgeBuffers c.lod

/-- Whether a transaction is an access that used a translation of its lodging. -/
def TxnKind.translated : TxnKind → Bool
  | .fetchFault _ _ _ _ => false
  | .flagOr => false
  | .writeHome _ _ => false
  | .remoteSignal _ => false
  | .homeAtomic _ _ _ _ => false
  | _ => true

/-- Whether an `UNMAP` awaits accesses that used a translation before it and are not yet performed (13, R322). -/
def State.awaitsAccesses (s : State) (c : Cmd) : Bool :=
  c.opcode == 0x0702 && s.fab.txns.any (fun (t : Txn) => t.lod == c.lod && decide (t.id < c.upTo) && t.kind.translated)

/-- `COMMAND_COMPLETION`: a command whose outcome is decided and whose effects are visible (R41, R44 to R47); with a lodging's last command a
Function Level Reset of it goes on (18, R402). -/
def execCommandCompletion (cmd : Nat) (s : State) : Host.Outcome State Fault Refusal :=
  match s.cmd? cmd with
  | none => .next s
  | some c =>
    if c.phase ≠ .ended ∨ c.acks ≠ 0 ∨ s.awaitsAccesses c then .next s
    else
      let c := s.finalCmd c
      let s := s.modCmd cmd (fun _ => c)
      let s := ((s.writeRecord c).traceEnd c).countNotices c
      let s := (s.doneSignal c).doneInterrupt c
      let s := s.dropCmd c
      let s : State := { s with brd := { s.brd with lastDone := some s.now } }
      let s := if (s.galley c.lod c.g).desc.stopOnError && decide (statusClass c.status ≥ 2)
        then s.stopGalley c.lod c.g c.status c.seq none else s
      let s := if (s.galleyCmds c.lod c.g).isEmpty then s.writeBackDesc c.lod c.g else s
      .next (s.startAll.carryFlr c.lod)

end Sys2Proof.Machine
end

