-- ==== Sys2Proof/Machine/Fabric.lean ====
section
/-! DEFINITION. The flits of the on-package fabric (11, R266 to R272) at the slices, porters and requesters they reach (07, R174,
R185, R186; 08; 09, R225 to R228; 10, R249 to R252; 14, R337 to R339). -/

namespace Sys2Proof.Machine

/-! ### Credits (R268) -/

/-- The number of a buffer: router input, network (0 requests, 1 responses), class. -/
def bufKey (input net cls : Nat) : Nat := (2 * input + net) * 8 + cls

/-- Flits that a buffer holds. -/
def bufCap (net : Nat) : Nat := if net = 0 then 4 else 8

/-- The network that an operation travels on. -/
def netOf (op : Nat) : Nat := if op ≥ 0x10 then 1 else 0

/-- Whether the sender of a flit holds a credit for the buffer it enters. -/
def State.hasCredit (s : State) (f : Flit) : Bool :=
  decide (s.fab.spent.get (bufKey f.input (netOf f.op) f.qclass) 0 < bufCap (netOf f.op))

/-- Credits a flit carries returned to the buffer it names. -/
def State.takeCredits (s : State) (f : Flit) : State :=
  let k := bufKey f.input f.credNet f.credClass
  let n := min f.credCount (min (s.fab.owed.get k 0) (s.fab.spent.get k 0))
  if n = 0 then s
  else { s with fab := { s.fab with
    spent := s.fab.spent.set k (s.fab.spent.get k 0 - n), owed := s.fab.owed.set k (s.fab.owed.get k 0 - n),
    reverse := s.fab.reverse.set f.input s.now } }

/-- A flit taken from its buffer: its sender has spent a credit, and the receiver holds one to return. -/
def State.takeFlit (s : State) (f : Flit) : State :=
  let s := s.takeCredits f
  let k := bufKey f.input (netOf f.op) f.qclass
  { s with fab := { s.fab with spent := s.fab.spent.set k (s.fab.spent.get k 0 + 1), owed := s.fab.owed.set k (s.fab.owed.get k 0 + 1) } }

/-! ### Routes (R270 to R272) -/

/-- The stack of a requester. -/
def endStack : Endpoint → Nat
  | .core c => c / 64
  | .feeder c => c / 64
  | .operator c => c / 64
  | .dma ch => ch / 32
  | .port p => p / 3
  | .porter k => k

/-- Whether a die-to-die link direction carries flits. -/
def State.linkUp (s : State) (i : Nat) : Bool := (s.d2d.get i D2d.reset).up

/-- The link directions a flit takes from one stack to another: the direct link, through s + 1 to the opposite stack, and the other
way round the ring where that way is broken (R270, R272). -/
def State.linksOf (s : State) (a b : Nat) : List Nat :=
  let up := fun (n : Nat) => (List.range n).map (fun i => 2 * ((a + i) % 4))
  let down := fun (n : Nat) => (List.range n).map (fun i => 2 * ((a + 4 - i) % 4) + 1)
  let d := (b + 4 - a) % 4
  let first := if d = 3 then down 1 else up d
  if first.all s.linkUp then first
  else if d = 3 then up 3 else down (4 - d)

/-- One flit on a link direction: kept in its replay buffer of 256 flits, its payload counted and granted (R271; 14, R336; 19, R422). -/
def State.crossLink (s : State) (lod cls i : Nat) : State :=
  let d := s.d2d.get i D2d.reset
  let n := (d.replay.getLast?.getD 0 + 1) % 2 ^ 32
  let s := { s with d2d := s.d2d.set i { d with replay := (d.replay ++ [n]).drop (d.replay.length + 1 - 256) } }
  (s.addBytes (fixedOf (i / 2) (0x20 + 8 * (i % 2))) 64).grant (12 + i) lod cls 64

/-- A flit's way from one stack to another: the links between them and the mesh of its destination. -/
def State.travel (s : State) (f : Flit) (a k : Nat) : State :=
  let lod := flitOwner f
  let s := (s.linksOf a k).foldl (fun s i => s.crossLink lod f.qclass i) s
  s.grant (8 + k) lod f.qclass 64

/-! ### Order at a slice (07, R186) -/

/-- The column whose slice an address belongs to. -/
def State.sliceColumn (s : State) (pa : Nat) : Nat :=
  if placeOf pa = .scratch then s.scratchColumn pa else homeColumn (localOf pa % 2 ^ 39)

/-- The sectors that a write or an atomic changes: those of a `WRITE`, else the one it addresses. -/
def flitSectors (f : Flit) : List Nat :=
  if f.op = opWrite then (setBits f.sect 2).map (fun i => alignDown f.addr 64 / 32 + i) else [f.addr / 32]

/-- Whether a write or atomic may be performed after what its slice has performed in the same cycle: none of its sectors after a source of
higher place (R186). A step that carries no flit reaches its slice in a cycle of its own (LOG 148). -/
def State.inOrder (s : State) (f : Flit) : Bool :=
  !(s.stn.lastCycle.any (fun e => e.1 == s.sliceColumn f.addr && e.2.1 == f.cycle && (flitSectors f).contains e.2.2.1
      && decide (endpointNumber f.src < e.2.2.2)))

/-- A write or atomic noted as performed by its slice in its cycle; what the slice performed in another cycle is forgotten. -/
def State.noteOrder (s : State) (f : Flit) : State :=
  let col := s.sliceColumn f.addr
  let old := s.stn.lastCycle.filter (fun e => e.1 != col || e.2.1 == f.cycle)
  { s with stn := { s.stn with lastCycle := old ++ (flitSectors f).map (fun x => (col, f.cycle, x, endpointNumber f.src)) } }

/-! ### Requests -/

/-- The open access of core code whose request or response a flit is, by its tag: an access of the core to this device's memory (R266). -/
def State.coreTxn? (s : State) (f : Flit) : Option Txn :=
  match f.src with
  | .core col => s.fab.txns.find? (fun t =>
      t.id % 2 ^ 10 == f.tag && t.lod == flitOwner f && (placeOf t.addr == .hbm || placeOf t.addr == .scratch) &&
        (match t.kind.thread? with
         | some (b, _, _) => (match s.block? b with | some x => x.col == col | none => t.cmd.isSome)
         | none => false))
  | _ => none

/-- A request as it is: one that an open access of core code sends carries what that access reads or writes, and the poison of its registers
(07, R193, R194). -/
def State.carried (s : State) (f : Flit) : Flit :=
  match s.coreTxn? f with
  | none => f
  | some t =>
    let off := t.addr % 128
    match t.kind with
    | .store _ _ _ size value p =>
      if f.op = opWritePartial then
        { f with addr := alignDown t.addr 32, poison := p,
                 payload := patch (List.replicate 32 0) (off % 32) (leBytes size value) ++ leBytes 4 ((2 ^ size - 1) * 2 ^ (off % 32)) ++
                   List.replicate 28 0 }
      else if f.op = opWrite then
        { f with addr := alignDown t.addr 64, poison := p, sect := f.sect ||| 2 ^ (off % 64 / 32),
                 payload := patch f.payload (off % 64) (leBytes size value) }
      else f
    | .atomic _ _ _ a =>
      if f.op = opAtomic then
        { f with addr := alignDown t.addr 32, poison := a.bad, payload := atomBytes a.op a.size a.order off a.src a.cmp ++ List.replicate 28 0 }
      else f
    | .load _ _ _ _ _ =>
      if f.op = opRead then { f with addr := alignDown t.addr 128, payload := leBytes 1 (2 ^ (off / 32)) ++ List.replicate 63 0 } else f
    | _ => f

/-- The status that meets a request at its slice: its frame is withdrawn with a retired slice (17, R386), or from the lodging (08, R215). -/
def State.refusedAt (s : State) (lod pa : Nat) : Option Nat :=
  match s.withdrawn pa with
  | some _ => some 0x0501
  | none =>
    match s.contract? lod with
    | some c => if placeOf pa = .scratch ∧ !c.ownsScratch pa 1 then some 0x0300 else none
    | none => none

/-- A request that reaches its slice or footing die: the outcome where it may not be carried out, and the state in which it is. -/
def State.arrive (s : State) (f : Flit) (perform : State → Host.Outcome State Fault Refusal) : Host.Outcome State Fault Refusal :=
  if !s.hasCredit f then .next s
  else
    match placeOf f.addr with
    | .hole => .fault .addressHole
    | .registers => .fault .addressHole
    | _ =>
      let t := (s.takeFlit f).travel f (endStack f.src) (stackOf (s.sliceColumn f.addr))
      match s.refusedAt (flitOwner f) f.addr with
      | some st => .next (t.faultFlit f st)
      | none => perform t

/-- Whether a slice can answer a sector without its HBM4 channel: it is cached, in a write-back buffer, or its page is invalid
(08, R206, R210; 10, R251). -/
def State.atSlice (s : State) (lod sector : Nat) : Bool :=
  !s.pageValid (32 * sector) || (s.pinned? (sector / 4)).isSome || s.inWriteBack sector ||
    (match s.localLine? lod (sector / 4) with
     | some l => (match l.kind with | .localLine p _ => bit p (sector % 4) | _ => false)
     | none => false)

/-- A sector asked of its HBM4 channel: the request queues at its site (14, R336, R338). -/
def State.askSector (s : State) (f : Flit) (sector : Nat) : State :=
  let q : QReq := { id := s.qos.nextReq, res := siteOf (homeColumn (32 * sector)), lod := flitOwner f, cls := f.qclass, input := f.input,
                    since := s.now, aged := false, line := sector, urgency := s.urgencyOf f.src }
  { s with qos := { s.qos with queue := s.qos.queue ++ [q], nextReq := s.qos.nextReq + 1 } }

/-- The wanted sectors of a local line read at its slice: those it can answer at once, and those that HBM4 must deliver. -/
def State.readLocal (s : State) (f : Flit) : State :=
  let line := f.addr / 128
  let lod := flitOwner f
  let r := (setBits (byteAt f.payload 0) 4).foldl (fun (acc : State × Tab (List Byte × Bool)) i =>
    let sec := 4 * line + i
    if placeOf f.addr = .hbm ∧ !acc.1.atSlice lod sec then (acc.1.askSector f sec, acc.2)
    else
      let x := acc.1.readSector lod sec (flitIds f)
      (x.1, acc.2 ++ [(i, (x.2.bytes, x.2.poison))])) (s, [])
  let h : HeldRead := { flit := f, got := r.2 }
  if h.full then r.1.sendData f h.sector
  else { r.1 with fab := { r.1.fab with held := r.1.fab.held ++ [h] } }

/-- `READ` (08; 09, R224; 10, R251; 14, R338). -/
def execRead (f : Flit) (s : State) : Host.Outcome State Fault Refusal :=
  let f := s.carried f
  s.arrive f (fun s =>
    if placeOf f.addr = .remote then
      let h : HeldRead := { flit := f, got := [] }
      .next ({ s with fab := { s.fab with held := s.fab.held ++ [h] } }.retryRemote [h])
    else .next (s.readLocal f))

/-- The bytes of a `WRITE`: address and data of each run of valid sectors. -/
def writeParts (f : Flit) : List (Nat × List Byte) :=
  let a := alignDown f.addr 64
  if f.sect = 3 then [(a, slice f.payload 0 64)]
  else (setBits f.sect 2).map (fun i => (a + 32 * i, slice f.payload (32 * i) 32))

/-- A request passed on to a remote home, a Reduce line of its line before it; `none` where it must wait. -/
def State.passOn (s : State) (f : Flit) (op addr : Nat) (b : List Byte) : Option State :=
  let h := s.sendHomes (s.reduceOf (flitOwner f) (f.addr / 128))
  if !h.2.isEmpty then some (h.1.faultFlit f 0x0305)
  else
    let t := h.1.newTxn (flitOwner f) addr (.flit f)
    match t.1.cylSend (deviceOf addr) op (localOf addr) (t.2 % 2 ^ 16) b (some t.2) f.poison with
    | .sent s' => some s'
    | .held => none
    | .unreachable => some (h.1.faultFlit f 0x0305)

/-- Bytes of one write request stored at their home, its requester acknowledged; none where a remote home's credit must be awaited. -/
def State.storeFlit (s : State) (f : Flit) (pa : Nat) (b : List Byte) : Option State :=
  if placeOf f.addr = .remote then
    match s.remoteStore (flitOwner f) pa b (.flit f) f.poison with
    | .sent s' => some s'
    | .held => none
    | .unreachable => some (s.faultFlit f 0x0305)
  else some (((s.writeRange (flitOwner f) pa b f.poison (flitIds f)).noteOrder f).ackFlit f)

/-- `WRITE`: whole sectors at the home slice, with write allocation (08, R207; 10, R250, R252). -/
def execWrite (f : Flit) (s : State) : Host.Outcome State Fault Refusal :=
  let f := s.carried f
  if !s.inOrder f then .next s
  else
    s.arrive f (fun t =>
      match writeParts f with
      | [] => .next (t.ackFlit f)
      | p :: _ =>
        match t.storeFlit f p.1 p.2 with
        | some t' => .next t'
        | none => .next s)

/-- The runs of enabled bytes of a `WRITE_PARTIAL`: offset and length. -/
def enabledRuns (en : Nat) : List (Nat × Nat) :=
  (List.range 32).foldr (fun i acc =>
    if bit en i then
      match acc with
      | (j, n) :: r => if j = i + 1 then (i, n + 1) :: r else (i, 1) :: acc
      | [] => [(i, 1)]
    else acc) []

/-- `WRITE_PARTIAL`: bytes merged into one sector, which stays poisoned unless all 32 are written (10, R250). -/
def execWritePartial (f : Flit) (s : State) : Host.Outcome State Fault Refusal :=
  let f := s.carried f
  if !s.inOrder f then .next s
  else
    s.arrive f (fun t =>
      let en := field f.payload 32 4
      if placeOf f.addr = .remote then
        let off := f.addr % 128 / 32 * 32
        let image := patch (List.replicate 128 0) off (slice f.payload 0 32) ++ leBytes 16 (en * 2 ^ off)
        .next ((t.passOn f opWritePartial (alignDown f.addr 128) image).getD s)
      else
        .next ((((enabledRuns en).foldl (fun t x =>
          t.storeSector (flitOwner f) (f.addr / 32) x.1 (slice f.payload x.1 x.2) f.poison (flitIds f)) t).noteOrder f).ackFlit f))

/-- An atomic's operands as a flit carries them (LOG 35). -/
structure AtomReq where
  op : AtomOp
  size : Nat
  pa : Nat
  src : Nat
  cmp : Nat

/-- The operands of an `ATOMIC`; none where the operation, its width or its alignment is none of R185's. -/
def atomReq? (b : List Byte) (line : Nat) : Option AtomReq :=
  match atomOfCode (byteAt b 0) with
  | none => none
  | some op =>
    let n := byteAt b 1
    let off := byteAt b 3 % 128
    if !(atomWidths op).contains n || off % n != 0 then none
    else some { op := op, size := n, pa := line + off, src := field b 4 16 % 2 ^ (8 * n), cmp := field b 20 16 % 2 ^ (8 * n) }

/-- An atomic that a flit carries, as one of core code would be. -/
def AtomReq.txn (a : AtomReq) (bad : Bool) : AtomTxn :=
  { dst := 0, size := a.size, op := a.op, order := .relaxed, src := a.src, cmp := a.cmp, bad := bad }

/-- `ATOMIC`: one entry of the address's coherence order, performed by the owning slice; on host memory a PCIe AtomicOp; in a reduction
region, local or remote, a permission fault (07, R185, R186, R188, R189, R194). -/
def execAtomic (f : Flit) (s : State) : Host.Outcome State Fault Refusal :=
  let f := s.carried f
  if !s.inOrder f then .next s
  else
    s.arrive f (fun t =>
      match atomReq? f.payload (alignDown f.addr 128) with
      | none => .next (t.faultFlit f 0x0301)
      | some a =>
        if t.inRegion (flitOwner f) a.pa then .next (t.faultFlit f 0x0301)
        else
          match placeOf f.addr with
          | .remote => .next ((t.passOn f opAtomic f.addr (packAtom f.payload)).getD s)
          | .host =>
            if hostAtom a.op then .next (t.hostAtomicOp (flitOwner f) a.pa (a.txn f.poison) (.flit f))
            else .next (t.faultFlit f 0x0301)
          | _ =>
            let y := t.atomicHome (flitOwner f) a.pa a.size a.op a.src a.cmp f.poison (flitIds f)
            .next ((y.s.noteOrder f).respond (flitAnswer f opResult 0 0 y.poison (leBytes 16 y.old))))

/-- `ADD_TO_LINE`: a contribution to a Reduce line of the lodging, or directly to a local home element; the command whose contribution
leaves the window carries 0x0104 (09, R225, R228, R233, R241). -/
def execAddToLine (f : Flit) (s : State) : Host.Outcome State Fault Refusal :=
  s.arrive f (fun t =>
    let lod := flitOwner f
    let pa := alignDown f.addr 128 + byteAt f.payload 1 % 128
    match t.regionMap? lod pa with
    | none => .next (t.faultFlit f 0x0301)
    | some m =>
      match m.region, m.reduction with
      | some d, some r =>
        if r.op.code ≠ byteAt f.payload 0 ∨ pa % r.op.size ≠ 0 then .next (t.faultFlit f 0x0301)
        else
          let x := t.contribute lod pa r d (field f.payload 8 8) f.poison (flitIds f)
          .next ((if x.2 then x.1.noticeIds lod (flitIds f) 0x0104 0 else x.1).ackFlit f)
      | _, _ => .next (t.faultFlit f 0x0301))

/-- The elements of half a Reduce line: 16, or 8 of 64 bits (09, R225). -/
def RedOp.halfElems (op : RedOp) : Nat := op.lineElems / 2

/-- The home sectors, by place in their 128-byte line, of the payload sectors that a `WRITE_HOME` flit has (R266, R267); a half of a BF16
line is one home sector (R225). -/
def homeSectors (f : Flit) (op : RedOp) : List Nat :=
  (setBits f.sect 2).map (fun i => if op = .addBf16 then 2 * (f.addr % 128 / 64) + f.half else 2 * f.half + i)

/-- The elements that a `WRITE_HOME` flit brings: place in the line, and value as `reduceBytes` holds it. Its payload begins with the
contribution bits of the half's elements and the line's flags; the elements that are set follow (LOG 35). -/
def homeElems (f : Flit) (r : Region) : List (Nat × List Byte) :=
  let n := r.op.halfElems
  let w := if r.exact then 17 else if r.op.size = 8 then 8 else 4
  (setBits (field f.payload 0 2) n).zipIdx.map (fun x =>
    (n * f.half + x.1, let b := slice f.payload (3 + w * x.2) w; if r.exact then b else b ++ List.replicate (8 - w) 0))

/-- A Reduce line from its flits, in the form of a write-home transfer (`reduceBytes`). -/
def homeImage (fs : List Flit) (r : Region) : List Byte :=
  let es := (fs.map (fun f => homeElems f r)).flatten
  let set := (List.range 32).foldl (fun m i => if es.any (fun e => e.1 == i) then m + 2 ^ i else m) 0
  let bad := ((fs.filter (·.poison)).map (fun f => homeSectors f r.op)).flatten
  leBytes 4 set ++ leBytes 1 (bad.foldl poisonBit 0) ++ leBytes 1 (ofBool (fs.any (fun f => bit (byteAt f.payload 2) 0))) ++
    ((List.range 32).map (fun i =>
      match es.find? (fun e => e.1 == i) with
      | some e => e.2
      | none => List.replicate (if r.exact then 17 else 8) 0)).flatten

/-- Whether two `WRITE_HOME` flits bring parts of one line: the requester, its tag, the lodging and the line are the same. -/
def sameHome (f g : Flit) : Bool :=
  g.src == f.src && g.tag == f.tag && flitOwner g == flitOwner f && g.addr / 64 == f.addr / 64

/-- A line written home with its last flit: combined at its home slice in one step, or passed on to a remote home (09, R227). -/
def State.writtenHome (s : State) (f : Flit) (fs : List Flit) : Option State :=
  let lod := flitOwner f
  match s.regionMap? lod f.addr with
  | none => some (s.faultFlit f 0x0301)
  | some m =>
    match m.reduction with
    | none => some (s.faultFlit f 0x0301)
    | some r =>
      if placeOf f.addr = .remote then s.passOn f opWriteHome f.addr (homeImage fs r)
      else some ((s.performHome lod f.addr m r (homeImage fs r)).1.ackFlit f)

/-- `WRITE_HOME`: a flit of half a Reduce line; with the last of them, the whole line is combined and acknowledged (09, R225, R227, R231,
R241). -/
def execWriteHome (f : Flit) (s : State) : Host.Outcome State Fault Refusal :=
  s.arrive f (fun t =>
    if bit (byteAt f.payload 2) 1 then
      let u := { t with fab := { t.fab with parts := t.fab.parts.filter (fun g => !sameHome f g) } }
      .next ((u.writtenHome f (t.fab.parts.filter (sameHome f) ++ [f])).getD s)
    else .next { t with fab := { t.fab with parts := t.fab.parts ++ [f] } })

/-- `SIGNAL`: an update at the holding porter (02, R49, R52, R53); device-owned traffic has no lodging and so no signal (R266). -/
def execSignal (f : Flit) (s : State) : Host.Outcome State Fault Refusal :=
  if !s.hasCredit f then .next s
  else
    let t := (s.takeFlit f).travel f (endStack f.src) (f.lodging % 4)
    if !f.own ∧ (t.lod f.lodging).state = .active then
      let t := t.updateSignal f.lodging (field f.payload 0 2 % 4096) (signalOp (byteAt f.payload 2) (field f.payload 8 8))
      .next ((t.startAll).ackFlit f)
    else .next (t.ackFlit f)

/-! ### Responses -/

/-- The response on its way that a flit is. -/
def State.matchResp (s : State) (f : Flit) : Option Flit :=
  s.fab.resp.find? (fun r => r.op == f.op && r.tag == f.tag && r.src == f.src && r.half == f.half && r.sect == f.sect
    && r.payload == f.payload && r.poison == f.poison)

/-- The first of a list's equal entries removed. -/
def dropFirst (l : List Flit) (x : Flit) : List Flit :=
  match l with
  | [] => []
  | y :: r => if y = x then r else y :: dropFirst r x

/-- Whether a response may be delivered: it is on its way, and its buffer has room. -/
def State.mayDeliver (s : State) (f : Flit) : Bool := (s.matchResp f).isSome && s.hasCredit f

/-- A response taken from its way and its buffer at its requester, after the links between. -/
def State.takeResp (s : State) (f : Flit) : State :=
  let resp := match s.matchResp f with | some r => dropFirst s.fab.resp r | none => s.fab.resp
  let home := match s.coreTxn? f with | some t => stackOf (s.sliceColumn t.addr) | none => endStack f.src
  (({ s with fab := { s.fab with resp := resp } } : State).takeFlit f).travel f home (endStack f.src)

/-- A response delivered to the access of core code that it answers; one that answers none is only taken from its buffer. -/
def State.deliver (s : State) (f : Flit) (take : State → Txn → State) : Host.Outcome State Fault Refusal :=
  if !s.mayDeliver f then .next s
  else
    match s.coreTxn? f with
    | none => .next (s.takeResp f)
    | some t => .next (take (s.takeResp f) t)

/-- `DATA`: a read response (03, R66; 11, R266, R267). -/
def execData (f : Flit) (s : State) : Host.Outcome State Fault Refusal :=
  s.deliver f (fun s t =>
    match t.kind with
    | .load _ _ _ _ size =>
      if t.addr % 128 / 64 = f.half ∧ bit f.sect (t.addr % 64 / 32) then s.loadArrives t (slice f.payload (t.addr % 64) size) f.poison else s
    | _ => s)

/-- `ACK` (09, R227; 07, R190). -/
def execAck (f : Flit) (s : State) : Host.Outcome State Fault Refusal :=
  s.deliver f (fun s t => match t.kind with | .store _ _ _ _ _ _ => s.ackArrives t false | _ => s)

/-- `RESULT`: the old value of an atomic (07, R185). -/
def execResult (f : Flit) (s : State) : Host.Outcome State Fault Refusal :=
  s.deliver f (fun s t => match t.kind with | .atomic _ _ _ _ => s.atomicArrives t (field f.payload 0 16) f.poison | _ => s)

/-- `FAULT`: the status that the requester must report (09, R221). -/
def execFault (f : Flit) (s : State) : Host.Outcome State Fault Refusal :=
  s.deliver f (fun s t => s.faultArrives t (field f.payload 0 2) 0)

/-! ### Credits, unused operations, links -/

/-- `CREDIT`: credits returned by a flit that carries nothing else (R268). -/
def execCredit (f : Flit) (s : State) : Host.Outcome State Fault Refusal :=
  let k := bufKey f.input f.credNet f.credClass
  let n := min f.credCount (s.fab.spent.get k 0 - s.fab.owed.get k 0)
  .next { s with fab := { s.fab with spent := s.fab.spent.set k (s.fab.spent.get k 0 - n) } }

/-- `CREDIT` flits sent for `n` credits, 7 in each: the first, and further ones while more than 7 remain; the credits that are left. -/
def State.emitCredits (s : State) (input net cls : Nat) : Nat → Nat → State × Nat
  | n, 0 => (s, n)
  | n, fuel + 1 =>
    let s := s.emit (.fabricCredit input net cls (min n 7))
    if n - 7 > 7 then s.emitCredits input net cls (n - 7) fuel else (s, n - 7)

/-- 16 cycles of a mesh segment's clock at 2 GHz, in ns (R268; LOG 148). -/
def creditWait : Nat := 8

/-- `CREDIT_RETURN_TIMER`: a receiver that holds credits has sent no reverse flit for 16 cycles (R268). -/
def execCreditReturnTimer (input net cls : Nat) (s : State) : Host.Outcome State Fault Refusal :=
  let k := bufKey input net cls
  let n := s.fab.owed.get k 0
  if n = 0 ∨ s.since (s.fab.reverse.get input 0) < creditWait then .next s
  else
    let r := s.emitCredits input net cls n n
    .next { r.1 with fab := { s.fab with owed := s.fab.owed.set k r.2, reverse := s.fab.reverse.set input s.now } }

/-- `FLIT_UNUSED_OP`: the flit is discarded, its buffer free again, and a ledger entry is recorded (R266); an operation of the table is not
one. -/
def execFlitUnusedOp (f : Flit) (s : State) : Host.Outcome State Fault Refusal :=
  if [0, 1, 2, 3, 4, 5, 6, 7, 0x10, 0x11, 0x12, 0x13, 0x20, 0x21].contains f.op ∨ !s.hasCredit f then .next s
  else
    let s := (s.takeFlit f).log (unitSlice (f.input / 8 % 256)) 0x0A 0 f.layer f.oper
    .next { s with fab := { s.fab with discarded := s.fab.discarded + 1 } }

/-- `D2D_LINK_REPLAY`: a flit that failed its CRC sent again from the replay buffer (R271). -/
def execD2dLinkReplay (link flit : Nat) (s : State) : Host.Outcome State Fault Refusal :=
  let d := s.d2d.get link D2d.reset
  if d.up && d.replay.contains flit then .next { s with d2d := s.d2d.set link { d with resent := d.resent + 1 } }
  else .next s

/-- `HBM_READ_COMPLETE`: a sector that the regulator grants comes from its array, is decoded, and answers the reads that wait for it
(10, R246 to R249, R263; 14, R337, R338). `errs`: symbols the array has lost since. -/
def execHbmReadComplete (line sector : Nat) (errs : List (Nat × Nat)) (s : State) : Host.Outcome State Fault Refusal :=
  let sec := 4 * line + sector
  let col := homeColumn (32 * sec)
  match s.nextGrant (siteOf col) with
  | none => .next s
  | some q =>
    if q.line ≠ sec ∨ (s.channel col).repairing ∨ (s.vch.bundles.get col Bundle.reset).quiescedAt.isSome then .next s
    else
      let s := s.grantReq q
      let s := { s with qos := { s.qos with queue := s.qos.queue.filter (fun (x : QReq) => !(x.line == sec && x.lod == q.lod && x.res == q.res)) } }
      let s := if errs.isEmpty || s.atSlice q.lod sec then s
        else { s with hbm := { s.hbm with errs := s.hbm.errs.set sec (gather (s.hbm.errs.get sec [] ++ errs)) } }
      let wants := fun (h : HeldRead) =>
        flitOwner h.flit == q.lod && h.line == line && bit (byteAt h.flit.payload 0) sector && placeOf h.flit.addr == .hbm
      let ids := match s.fab.held.find? wants with | some h => flitIds h.flit | none => (0, 2 ^ 16 * q.cls)
      let r := s.readSector q.lod sec ids
      let held := r.1.fab.held.map (fun (h : HeldRead) =>
        if wants h then { h with got := h.got.set sector (r.2.bytes, r.2.poison) } else h)
      let out := held.filter (·.full)
      let s := { r.1 with fab := { r.1.fab with held := held.filter (fun h => !h.full) } }
      .next (out.foldl (fun s h => s.sendData h.flit h.sector) s)

end Sys2Proof.Machine
end

