-- ==== Sys2Proof/Machine/Spares.lean ====
section
/-! DEFINITION. Spares, takeovers, losses with no spare left, and rescue mode (17). -/

namespace Sys2Proof.Machine

/-! ### The order of takeovers (R380) -/

/-- Whether a domain is a safety domain (15, R346). -/
def safetyDomain (d : Nat) : Bool := decide ((32 ≤ d ∧ d < 36) ∨ 44 ≤ d)

/-- The place of a waiting takeover in the order of R380. -/
def Takeover.rank (t : Takeover) : Nat :=
  match t.kind with
  | .phase => if safetyDomain t.place then 0 else 1
  | .bank => 2
  | .row => 2
  | .core => 3
  | .via => 4
  | .hbmLane => 5

/-- The argument of ledger codes 0x0D and 0x0E (19, R414). -/
def TakeKind.arg : TakeKind → Nat
  | .core => 0
  | .row => 1
  | .bank => 2
  | .via => 3
  | .hbmLane => 4
  | .phase => 5

/-- The takeover that runs in a stack. -/
def State.running (s : State) (k : Nat) : Option Takeover := s.rel.queue.find? (fun t => t.stack == k && t.started.isSome)

/-- The takeover that a stack performs next: the first of the lowest rank. -/
def State.nextTakeover (s : State) (k : Nat) : Option Takeover :=
  let ws := s.rel.queue.filter (fun t => t.stack == k && t.started.isNone)
  let lo := ws.foldl (fun m t => min m t.rank) 6
  ws.find? (fun t => t.rank == lo)

/-- Whether a policy round is due: the Innkeeper's duties 3 to 6 wait for it (18, R393). -/
def State.roundWaits (s : State) : Bool := s.ink.firmwareRuns && s.ink.failoverAt.isNone && s.passed (some s.ink.roundDue)

/-- Whether the Innkeeper begins takeovers: not while a round is due, during a failover, or once a rescue trigger has arisen (R384, R385,
R390; 18, R393). -/
def State.takeoversOpen (s : State) : Bool :=
  s.ink.failoverAt.isNone && s.rel.rescueDue.isNone && s.rel.mode != 2 && !s.roundWaits

/-- The takeover of a kind and place, where it is the next of its stack and may start. -/
def State.startable (s : State) (kind : TakeKind) (place bank row : Nat) : Option Takeover :=
  match s.rel.queue.find? (fun t => t.kind == kind && t.place == place && t.bank == bank && t.row == row && t.started.isNone) with
  | none => none
  | some t => if s.takeoversOpen && (s.running t.stack).isNone && s.nextTakeover t.stack == some t then some t else none

/-- Whether a takeover waits that the Innkeeper could start: duties 4 to 6 wait for it (18, R393). -/
def State.takeoverWaits (s : State) : Bool :=
  s.ink.firmwareRuns && s.takeoversOpen && (List.range 4).any (fun k => (s.running k).isNone && (s.nextTakeover k).isSome)

/-- Whether a duty above the admin mailboxes and the management requests has work that is due (18, R393; LOG 150). -/
def State.higherDuty (s : State) : Bool := s.roundWaits || s.takeoverWaits

/-- A takeover removed from the queue. -/
def State.dropTakeover (s : State) (t : Takeover) : State :=
  { s with rel := { s.rel with queue := s.rel.queue.filter (fun x => x != t) } }

/-- A takeover started: ledger entry, and the notice to commands that run (R380, R387). -/
def State.beginTakeover (s : State) (t : Takeover) : State :=
  let s := { s with rel := { s.rel with queue := s.rel.queue.map (fun (x : Takeover) => if x = t then { x with started := some s.now } else x) } }
  (s.log unitInnkeeper 0x0D t.kind.arg 0 0).noteRates

/-- A spare consumed in the field, for the repair log; its flash write waits for the temperature window (R379; 11, R280; 16, R377). Kinds 0
to 5 are those of `TakeKind.arg`, 8 a spare core and 9 a spare bank that are spent without serving. -/
def State.logRepair (s : State) (kind place : Nat) : State :=
  { s with ink := { s.ink with repairWaiting := s.ink.repairWaiting ++ [(kind, place)] } }

/-- The place of a takeover as the repair log holds it. -/
def Takeover.logPlace (t : Takeover) : Nat :=
  match t.kind with
  | .row => t.place + 256 * (t.bank * 4096 + t.row)
  | .bank => t.place + 256 * t.bank
  | _ => t.place

/-- A takeover completed: ledger entry, `REL_TAKEOVERS`, PF vector 1 (R380, R387). -/
def State.endTakeover (s : State) (t : Takeover) : State :=
  let s := (s.noteRates.dropTakeover t).log unitInnkeeper 0x0E t.kind.arg 0 0
  let s := if t.kind = .via then s else s.logRepair t.kind.arg t.logPlace
  let s := { s with rel := { s.rel with takeovers := wrap32 (s.rel.takeovers + 1) } }
  s.raise 256 1

/-! ### Losses with no spare left (R386, R387, R388) -/

/-- A loss stands: mode 1, shares recomputed, PF vector 1. -/
def State.noteLoss (s : State) : State :=
  let s := { s with rel := { s.rel with mode := max s.rel.mode 1 } }
  s.recomputeShares.raise 256 1

/-- A rescue trigger: takeovers that run are abandoned, and rescue entry is due (R385, R388). -/
def State.triggerRescue (s : State) (cause lost unreached : Nat) : State :=
  { s with rel := { s.rel with
      rescueDue := (if s.rel.mode = 2 then none else match s.rel.rescueDue with | some c => some c | none => some cause),
      stackLost := s.rel.stackLost ||| lost, stackUnreached := s.rel.stackUnreached ||| unreached,
      queue := s.rel.queue.filter (fun t => t.started.isNone) } }

/-- Blocks that were on lost cores: their launches end with 0x0501, detail the stack (02, R48). -/
def State.failBlocks (s : State) (cols : List Nat) : State :=
  let bs := s.blocks.filter (fun b => cols.contains b.col)
  bs.foldl (fun s b => ((s.dropBlock b).failCmd b.cmd 0x0501 (stackOf b.col)).settleLaunch b.cmd) s

/-- A core that fails with its cluster's spare spent: the column has no core. -/
def State.loseCore (s : State) (col : Nat) : State :=
  let p := s.physCore col
  let s := ((s.discardUnits [col]).sweepFailed).failBlocks [col]
  let s := s.modCore col (fun c => { c with served := .noCore })
  let s := { s with rel := { s.rel with coresOff := insertNew s.rel.coresOff p } }
  s.noteLoss

/-- A cluster that takes no more work. -/
def State.loseCluster (s : State) (d : Nat) : State :=
  let s := { s with rel := { s.rel with lostClusters := insertNew s.rel.lostClusters d } }
  ((s.discardUnits (columnsOf d)).sweepFailed.failBlocks (columnsOf d)).noteLoss

/-- A channel retired: its reads are poisoned and its writes discarded; held requests go on. -/
def State.retireChannel (s : State) (col : Nat) : State :=
  (s.modChannel col (fun c => { c with retired := true, repairing := false })).noteLoss

/-- The words of a local line read out of their slice, corrected or poisoned (R382, R386). -/
def State.takeOut (s : State) (l : CacheLine) : State :=
  l.words.foldl (fun s w =>
    let s := s.checkWord (4 * l.line + w / 4) (w % 4) (0, 0)
    { s with stn := { s.stn with wordErrs := s.stn.wordErrs.drop (l.wordKey w) } }) s

/-- A line of a slice moved to the slice where its channel's lines are allocated now, its words written there. One that finds no room is
written back or home; a pinned line is then held in a line buffer, and a Reduce line whose home cannot be reached stays (LOG 149). -/
def State.moveLine (s : State) (l : CacheLine) : State :=
  if placeOf l.addr = .scratch then s.removeLine l
  else
    match l.kind with
    | .shared _ _ => s.removeLine l
    | .localLine _ _ =>
      let s := s.takeOut l
      match (s.removeLine l).allocate l.lod l.addr l.line l.kind (0, 0) with
      | some (t, x) => x.words.foldl (fun t w => t.writeWord x.col (x.wordKey w)) t
      | none => ((s.ackedLine l.line).writeBack l (0, 0)).removeLine l
    | .pinned _ _ _ _ =>
      let r := s.checkCopy l l.words (0, 0)
      match (r.1.removeLine r.2).allocate l.lod l.addr l.line r.2.kind (0, 0) with
      | some (t, _) => t
      | none => r.1.swapLine r.2 { r.2 with col := 256 + s.lineColumn l.addr }
    | .reduce _ _ _ _ _ _ _ =>
      let r := s.checkCopy l l.words (0, 0)
      match (r.1.removeLine r.2).allocate l.lod l.addr l.line r.2.kind (0, 0) with
      | some (t, _) => t
      | none => (s.sendHome l []).getD s

/-- A slice retired: its channel's lines move to the relief partner for good, and its scratch is withdrawn. -/
def State.retireSlice (s : State) (col : Nat) : State :=
  let p := partnerOf col
  let s := (s.modSlice col (fun x => { x with retired := true, relief := .relieved })).modSlice p (fun x => { x with relief := .off })
  let s := (s.stn.lines.filter (fun l => l.col == col)).foldl (fun s l => s.moveLine l) s
  let s := s.noteLoss
  if (s.sliceAt p).retired then s.triggerRescue 3 0 0 else s

/-! ### Cores (R381) -/

/-- `CORE_TAKEOVER`: the spare core begins its self-test; with the spare spent the column is lost (R381, R386). -/
def execCoreTakeover (col : Nat) (s : State) : Host.Outcome State Fault Refusal :=
  match s.startable .core col 0 0 with
  | none => .next s
  | some t =>
    if s.rel.spareSpent.contains (clusterOf col) then .next ((s.dropTakeover t).loseCore col) else .next (s.beginTakeover t)

/-- Steps 2 to 5 of R381: the unit in progress is discarded, the blocks go on on the spare core, the failing core is off. -/
def State.takeColumn (s : State) (col : Nat) : State :=
  let p := s.physCore col
  let s := (s.discardUnits [col]).sweepFailed
  let s := s.modCore col (fun c => { c with served := .spare, suspect := 0, icache := [], itlb := [], lastGroup := [] })
  { s with rel := { s.rel with spareSpent := insertNew s.rel.spareSpent (clusterOf col), coresOff := insertNew s.rel.coresOff p } }

/-! ### Rows and banks (R382) -/

/-- Spare rows of a bank in use (R379: 32 per bank). -/
def Slice.rowsUsed (x : Slice) (bank : Nat) : Nat := x.rowMap.countP (fun r => r.1 == bank)

/-- `ROW_TAKEOVER`: the copy of a row into a spare row begins; a bank with none left needs its slice's spare bank (R379, R382). -/
def execRowTakeover (col bank row : Nat) (s : State) : Host.Outcome State Fault Refusal :=
  match s.startable .row col bank row with
  | none => .next s
  | some t =>
    if (s.sliceAt col).rowsUsed bank ≥ 32 then .next ((s.dropTakeover t).askBank col bank) else .next (s.beginTakeover t)

/-- `BANK_TAKEOVER`: the copy of a bank into the spare bank begins; with it spent the slice is retired (R382, R386). -/
def execBankTakeover (col bank : Nat) (s : State) : Host.Outcome State Fault Refusal :=
  match s.startable .bank col bank 0 with
  | none => .next s
  | some t => if (s.sliceAt col).spareBank then .next ((s.dropTakeover t).retireSlice col) else .next (s.beginTakeover t)

/-- The scratch sectors of a bank, or of one row of it, whose words hold flipped bits. -/
def State.flippedSectors (s : State) (col bank : Nat) (row : Option Nat) : List (Nat × Nat) :=
  (s.stn.wordErrs.filter (fun e =>
    let l := e.1 % 2 ^ 22 / 16
    decide (e.1 < 2 ^ 40) && e.1 / 2 ^ 22 == col && (bits l 0 4 ^^^ bits l 8 4) == bank
      && (match row with | none => true | some r => l / 128 == r))).map (fun e => (e.1, e.1 % 2 ^ 22))

/-- The first line of a slice that lies in a row of a bank (08, R197, R202). -/
def firstLine (bank row : Nat) : Nat :=
  128 * row + ((List.range 128).find? (fun i => (bits (128 * row + i) 0 4 ^^^ bits (128 * row + i) 8 4) == bank)).getD 0

/-- Words copied into a spare row or bank: corrected, or carried as poisoned sectors (R382); the first word written in the slice is the
first of the copy (08, R219). `pa` is a scratch word's address in the form of its frame row. -/
def State.copyWords (s : State) (col bank : Nat) (row : Option Nat) : State :=
  let s := (s.flippedSectors col bank row).foldl (fun s e =>
    let line := e.2 / 16
    let frame := line / 512
    let i := line % 512
    let field := (col % 64) ^^^ (if s.rowHashed (stackOf col) frame then i % 64 else 0)
    let pa := 2 ^ 40 + (stackOf col) * 2 ^ 31 + frame * 2 ^ 22 + field * 2 ^ 16 + i * 128 + 8 * (e.2 % 16)
    let s := s.checkWord (pa / 32) (pa % 32 / 8) (0, 0)
    { s with stn := { s.stn with wordErrs := s.stn.wordErrs.drop e.1 } }) s
  s.writeWord col (col * 2 ^ 22 + 16 * firstLine bank (row.getD 0))

/-- A row copied into a spare row of its bank. -/
def State.takeRow (s : State) (col bank row : Nat) : State :=
  (s.copyWords col bank (some row)).modSlice col (fun x =>
    { x with rowMap := x.rowMap ++ [(bank, row)], spareRows := x.spareRows + 1, badRows := x.badRows.filter (· != (bank, row)) })

/-- A bank copied into the spare bank, with the rows that its spare rows held. -/
def State.takeBank (s : State) (col bank : Nat) : State :=
  (s.copyWords col bank none).modSlice col (fun x =>
    { x with spareBank := true, bankMap := some bank, rowMap := x.rowMap.filter (fun r => r.1 != bank),
             badRows := x.badRows.filter (fun r => r.1 != bank) })

/-! ### HBM4 lanes (R383) -/

/-- `HBM_LANE_REMAP`: the channel's requests are held while the marked lane moves to the stack's spare lane; with none left the
channel is retired (R383, R386). -/
def execHbmLaneRemap (channel : Nat) (spareLeft : Bool) (s : State) : Host.Outcome State Fault Refusal :=
  match s.startable .hbmLane channel 0 0 with
  | none => .next s
  | some t =>
    if spareLeft then .next ((s.beginTakeover t).modChannel channel (fun c => { c with repairing := true }))
    else .next ((s.dropTakeover t).retireChannel channel)

/-! ### Completion -/

/-- What the end of a takeover does to its resource. A failed spare is spent, and its loss is handled under R386 (R381, R385). -/
def State.finishTakeover (s : State) (t : Takeover) (ok : Bool) : State :=
  match t.kind with
  | .core =>
    if s.since (t.started.getD 0) < 10000 then s
    else if ok then ((s.takeColumn t.place).endTakeover t)
    else
      let s := (s.dropTakeover t).logRepair 8 (clusterOf t.place)
      { s with rel := { s.rel with spareSpent := insertNew s.rel.spareSpent (clusterOf t.place) } }.loseCore t.place
  | .row =>
    if ok then (s.takeRow t.place t.bank t.row).endTakeover t
    else (((s.dropTakeover t).logRepair 1 (t.place + 256 * (t.bank * 4096 + 2048))).modSlice t.place (fun x =>
      { x with rowMap := x.rowMap ++ [(t.bank, 2048)], spareRows := x.spareRows + 1 })).askRow t.place t.bank t.row
  | .bank =>
    if s.since (t.started.getD 0) < 32768 then s
    else if ok then (s.takeBank t.place t.bank).endTakeover t
    else (((s.dropTakeover t).logRepair 9 t.place).modSlice t.place (fun x => { x with spareBank := true })).retireSlice t.place
  | .hbmLane =>
    if ok then
      let s := (s.modChannel t.place (fun c => { c with marked := false, repairing := false, remapped := true, streak := 0 })).endTakeover t
      if (s.channel t.place).failed then s.retireChannel t.place else s
    else (s.dropTakeover t).retireChannel t.place
  | _ => s

/-- `TAKEOVER_COMPLETED`: the takeover that runs in a stack finishes; a spare regulator phase, which its regulator has already put in
place (15, R357), is taken over in this one step (R380 to R383, R385 to R387). -/
def execTakeoverCompleted (stack : Nat) (ok : Bool) (s : State) : Host.Outcome State Fault Refusal :=
  match s.running stack with
  | some t => .next (s.finishTakeover t ok)
  | none =>
    match s.nextTakeover stack with
    | some t =>
      if t.kind = .phase ∧ s.takeoversOpen then
        let b := s.beginTakeover t
        .next (b.endTakeover { t with started := some s.now })
      else .next s
    | none => .next s

/-! ### Rescue entry (R389) -/

/-- The work count of a command that ends before its operator is done: a signal's value, passes, keys, blocks or bytes so far. -/
def State.workNow (s : State) (c : Cmd) : Nat :=
  if c.opcode = 0x0602 then (if c.phase = .running then s.signal c.lod (c.f 16 2) else 0)
  else
    match s.mat? c.id, s.attn? c.id, s.launch? c.id, s.copy? c.id with
    | some m, _, _, _ => s.matPasses m
    | _, some m, _, _ => s.attnWork m
    | _, _, some l, _ => l.normal
    | _, _, _, some o => o.written + ((s.dma.chans.filter (fun e => e.2.cmd == some c.id)).map (fun e => e.2.position)).sum
    | _, _, _, _ => c.work

/-- Step 1: every command not yet completed ends with 0x0500; blocks, operators and command channels stop. -/
def State.rescueCommands (s : State) : State :=
  { s with
    cmds := s.cmds.map (fun (c : Cmd) =>
      let started := if c.phase = .fetched then s.now else c.start
      let c := if c.phase = .ended then c
        else { c with phase := .ended, start := started, endT := s.now, status := 0x0500, detail := 0, work := s.workNow c, failing := some (0x0500, 0) }
      { c with acks := 0, issued := true }),
    launches := [], blocks := [], mats := [], attns := [],
    cores := s.cores.map (fun (e : Nat × ColCore) => (e.1, { e.2 with run := .idle })),
    dma := { s.dma with
      chans := s.dma.chans.map (fun (e : Nat × DmaCh) =>
        if e.1 % 32 < 24 then (e.1, { e.2 with running := false, burst := none, cmd := none, staging := [], stagingPoison := [], retryAt := none, lines := [] })
        else e),
      copies := [] },
    qos := { s.qos with queue := [] } }

/-- Step 2 for one line: written home whatever credit waits, or discarded where its home cannot be reached (R240). -/
def State.rescueReduce (s : State) (l : CacheLine) : State :=
  let r := s.checkCopy l l.words (0, 0)
  match r.2.kind with
  | .reduce _ exact _ elems poison oow _ =>
    match r.1.portFor (deviceOf l.addr) (localOf l.addr) with
    | some p =>
      if s.reachable (deviceOf l.addr) then
        let s := (r.1.putTransfer p (deviceOf l.addr) opWriteHome (localOf l.addr) 0 (reduceBytes exact elems poison oow) none false).removeLine r.2
        (s.modStnRegs (stackOf l.col) (fun r => { r with reduceWb := wrap32 (r.reduceWb + 1) })).count (stackOf l.col) 0x034 (some l.lod) (0, 0) 1
      else r.1.discardReduce r.2
    | none => r.1.discardReduce r.2
  | _ => s

/-- Step 3 for one line: pinned and dirty lines go to HBM4; a line of a stack that is lost goes with it. -/
def State.rescueLine (s : State) (l : CacheLine) : State :=
  if bit s.rel.stackLost (stackOf (l.col % 256)) then s.removeLine l
  else
    match l.kind with
    | .localLine _ _ => (s.writeBack l (0, 0)).removeLine l
    | .pinned _ _ _ _ =>
      let s := s.unpin l
      match s.localLine? l.lod l.line with
      | some x => (s.writeBack x (0, 0)).removeLine x
      | none => s
    | _ => s

/-- The channels of the stacks that are lost, retired (R389 step 3). -/
def State.retireLost (s : State) : State :=
  ((List.range 256).filter (fun c => bit s.rel.stackLost (stackOf c) && !(s.channel c).retired)).foldl
    (fun s c => s.modChannel c (fun x => { x with retired := true, repairing := false })) s

/-- Step 5: cluster domains and Cytil ports off. -/
def State.rescueOff (s : State) : State :=
  let s := (List.range 32).foldl (fun s d => s.modDomain d (fun x => if x.state = .failed then x else { x with state := .off, retryAt := none })) s
  let remote := fun (k : TxnKind) => match k with
    | .dma ch _ => decide (ch % 32 < 24)
    | .dmaLate ch => decide (ch % 32 < 24)
    | _ => true
  { s with
    pwr := { s.pwr with wakeQueue := s.pwr.wakeQueue.filter (· ≥ 32) },
    cyl := { s.cyl with
      waiting := [], forwarded := [],
      ports := s.cyl.ports.map (fun (e : Nat × CytilPort) => (e.1, { e.2 with up := false, replay := [], spent := [0, 0, 0, 0], owed := [0, 0, 0, 0], discarding := false })) },
    fab := { s.fab with txns := s.fab.txns.filter (fun (t : Txn) => !remote t.kind), held := s.fab.held.filter (fun h => placeOf h.flit.addr != .remote) } }

/-- Rescue entry in its five steps. -/
def State.enterRescue (s : State) (cause : Nat) : State :=
  let s := s.rescueCommands
  let s := (s.stn.lines.filter (·.isReduce)).foldl (fun s l => s.rescueReduce l) s
  let s := (s.stn.lines.foldl (fun s l => s.rescueLine l) s).retireLost
  let s := { s with hbm := { s.hbm with wbBuf := [] }, rel := { s.rel with bitmapCopy := s.hbm.valid.filter (fun p => !bit s.rel.stackLost (stackOf (homeColumn (4096 * p)))) } }
  let s := s.rescueOff
  let s := { s with rel := { s.rel with mode := 2, cause := cause, rescueDue := none, queue := [] } }
  let s := s.raise 256 1
  (s.lods.filter (fun e => e.2.state == .active)).foldl (fun s e => s.event e.1 0x02 0 0) s

/-- `RESCUE_ENTRY`: the entry that a trigger of R388 made due. -/
def execRescueEntry (s : State) : Host.Outcome State Fault Refusal :=
  match s.rel.rescueDue with
  | none => .next s
  | some c => .next (s.enterRescue c)

end Sys2Proof.Machine
end

