-- ==== Sys2Proof/Machine/Lanes.lean ====
section
/-! DEFINITION. Vertical channels (11, R273 to R279): the bursts of a line, their pairing, acknowledgement and replay, suspect lanes and
the quiesce of a column; and the die-to-die link that fails (11, R272). -/

namespace Sys2Proof.Machine

/-! ### The sender (R275 to R277) -/

/-- The stack of a vertical channel. -/
def laneStack (l : Lane) : Nat :=
  match l.link with
  | .footing => l.idx / 16
  | _ => l.idx / 64

/-- The unit whose ledger records a lane's events. -/
def laneUnit (l : Lane) : Nat :=
  match l.link with
  | .footing => unitPorter (l.idx / 16)
  | _ => unitSlice l.idx

/-- The lines up to `tag` that a sender has sent, entered in its 16-line replay buffer. A burst crosses in 4 Stonos cycles, and the second
half follows the first by one (R275 worked example). -/
def LaneSt.noteSent (x : LaneSt) (tag cycle : Nat) : LaneSt :=
  let d := (tag + 1024 - x.nextTag) % 1024
  if x.replay.length + d < 16 then
    { x with
      replay := x.replay ++ (List.range (d + 1)).map (fun i => { tag := (x.nextTag + i) % 1024, cycle := cycle - 3, tries := 0 }),
      nextTag := (tag + 1) % 1024 }
  else x

/-- The lines from `tag` on sent again, their second halves 2 cycles apart. -/
def replayFrom (tag cycle : Nat) (es : List SentLine) : List SentLine :=
  let keep := es.takeWhile (fun e => e.tag != tag)
  let again := es.drop keep.length
  keep ++ again.zipIdx.map (fun x => { x.1 with cycle := cycle + 2 + 2 * x.2, tries := x.1.tries + 1 })

/-- A replay counted: `VCH_REPLAYS`, and the counter event. -/
def State.countReplay (s : State) (l : Lane) : State :=
  let k := laneStack l
  let s := { s with vch := { s.vch with replays := s.vch.replays.incr k 1 } }
  s.count k 0x050 none (0, 0) 1

/-- A sender replays from a line that it still holds. -/
def State.replayLane (s : State) (l : Lane) (tag cycle : Nat) : State :=
  if (s.laneAt l).replay.any (fun e => e.tag == tag) then
    (s.modLane l (fun x => { x with replay := replayFrom tag cycle x.replay })).countReplay l
  else s

/-! ### The receiver (R275, R276) -/

/-- A half discarded as an orphan: counted, entered in the ledger, and its line asked for again; later bursts are discarded until the
replayed line comes. -/
def State.orphan (s : State) (l : Lane) (tag : Nat) (pairing : Option (Nat × Nat)) : State :=
  let k := laneStack l
  let s := { s with vch := { s.vch with orphans := s.vch.orphans.incr k 1 } }
  let s := s.log (laneUnit l) 0x07 l.lane 0 0
  (s.modLane l (fun x => { x with pairing := pairing, awaiting := some tag })).emit (.laneNak (laneKey l) tag)

/-- Whether a line has already been delivered on a lane: its sequence lies behind the next one expected. -/
def LaneSt.duplicate (x : LaneSt) (tag : Nat) : Bool :=
  decide (1 ≤ (x.delivered + 1024 - tag) % 1024 ∧ (x.delivered + 1024 - tag) % 1024 ≤ 512)

/-- A first half that comes while no replay is awaited. -/
def State.firstHalf (s : State) (l : Lane) (tag cycle : Nat) : State :=
  let x := s.laneAt l
  match x.pairing with
  | some (t, _) => if t = tag then s.modLane l (fun x => { x with pairing := some (tag, cycle) }) else s.orphan l t none
  | none =>
    if tag = x.delivered then s.modLane l (fun x => { x with pairing := some (tag, cycle) })
    else if x.duplicate tag then s
    else s.modLane l (fun x => { x with awaiting := some x.delivered })

/-- A paired line delivered and acknowledged; a column link's bytes counted (19, R422). -/
def State.paired (s : State) (l : Lane) (tag : Nat) : State :=
  let s := s.modLane l (fun x => { x with pairing := none, delivered := (tag + 1) % 1024 })
  let s := match l.link with
    | .column => s.addBytes (fixedOf (laneStack l) (if l.up then 0 else 8)) 128
    | _ => s
  s.emit (.laneAck (laneKey l) tag)

/-- A second half that comes while no replay is awaited. -/
def State.secondHalf (s : State) (l : Lane) (tag cycle : Nat) : State :=
  let x := s.laneAt l
  match x.pairing with
  | some (t, c) =>
    if t = tag then (if cycle - c ≤ 64 then s.paired l tag else s.orphan l t none)
    else if x.duplicate tag then s
    else s.orphan l tag x.pairing
  | none => if x.duplicate tag then s else s.orphan l tag none

/-- `LINE_BURST`: a half of the line of an address arrives on the lane that carries it (R274 to R277). -/
def execLineBurst (lane : Lane) (addr half tag cycle : Nat) (s : State) : Host.Outcome State Fault Refusal :=
  let x := s.laneAt lane
  if s.laneFor lane addr ≠ some lane.lane ∨ tag ≥ 1024 then .next s
  else if half = 0 then
    let s := if x.duplicate tag then s else s.modLane lane (fun x => x.noteSent tag cycle)
    match x.awaiting with
    | some w => if w = tag then .next ((s.modLane lane (fun x => { x with awaiting := none })).firstHalf lane tag cycle) else .next s
    | none => .next (s.firstHalf lane tag cycle)
  else if half = 1 then
    match x.awaiting with
    | some _ => .next s
    | none => .next (s.secondHalf lane tag cycle)
  else .next s

/-- `LANE_ACK`: the lines up to a paired one leave the replay buffer (R275, R277). -/
def execLaneAck (lane : Lane) (tag : Nat) (s : State) : Host.Outcome State Fault Refusal :=
  if (s.laneAt lane).replay.any (fun e => e.tag == tag) then
    .next (s.modLane lane (fun x => { x with replay := (x.replay.dropWhile (fun e => e.tag != tag)).drop 1 }))
  else .next s

/-- `LANE_NAK`: the sender replays a line and every later line it has sent (R276). -/
def execLaneNak (lane : Lane) (tag cycle : Nat) (s : State) : Host.Outcome State Fault Refusal := .next (s.replayLane lane tag cycle)

/-- `PAIRING_WINDOW_EXPIRY`: a first half whose second has not come within 64 Stonos cycles; one that comes in the cycle of the expiry is
still paired (R276, R277). -/
def execPairingWindowExpiry (lane : Lane) (cycle : Nat) (s : State) : Host.Outcome State Fault Refusal :=
  match (s.laneAt lane).pairing with
  | some (t, c) => if cycle > c + 64 then .next (s.orphan lane t none) else .next s
  | none => .next s

/-- `LANE_REPLAY_TIMER`: a line with no answer 128 Stonos cycles after its second half was sent (R277). -/
def execLaneReplayTimer (lane : Lane) (cycle : Nat) (s : State) : Host.Outcome State Fault Refusal :=
  match (s.laneAt lane).replay.find? (fun e => decide (cycle ≥ e.cycle + 128)) with
  | some e => .next (s.replayLane lane e.tag cycle)
  | none => .next s

/-! ### Suspect lanes (R274, R278) -/

/-- The next healthy lane of a channel after one, in ascending order, wrapping at the top. -/
def State.nextLane (s : State) (l : Lane) : Option Lane :=
  let n := lanesOf l.link
  (((List.range n).map (fun i => ({ l with lane := (l.lane + 1 + i) % n } : Lane))).find? (fun x => (s.laneAt x).healthy))

/-- Lines of one lane sent on another, under its sequence. -/
def LaneSt.takeOver (x : LaneSt) (es : List SentLine) : LaneSt :=
  { x with
    replay := x.replay ++ es.zipIdx.map (fun e => { e.1 with tag := (x.nextTag + e.2) % 1024, tries := 0 }),
    nextTag := (x.nextTag + es.length) % 1024 }

/-- The spare vias of a column asked for. -/
def State.askVia (s : State) (col : Nat) : State :=
  s.askTakeover { kind := .via, stack := stackOf col, place := col, bank := 0, row := 0, asked := s.now, started := none }

/-- What follows when a channel has no healthy lane in a direction: a column needs its spare core, a memory channel whose lanes have
both failed is retired (R274; 17, R379, R386). -/
def State.noLane (s : State) (l : Lane) : State :=
  match l.link with
  | .column => s.askCore l.idx
  | .channel =>
    if (List.range 2).all (fun i => (s.laneAt { l with lane := i }).failed) then s.retireChannel l.idx else s
  | .footing => s

/-- `LANE_SUSPECT`: a lane on which one line was replayed three times (R278). -/
def execLaneSuspect (lane : Lane) (s : State) : Host.Outcome State Fault Refusal :=
  let x := s.laneAt lane
  if !x.healthy || !x.replay.any (fun e => decide (e.tries ≥ 3)) then .next s
  else
    let s := s.modLane lane (fun x =>
      { x with suspect := true, replay := [], pairing := none, awaiting := none, delivered := x.nextTag })
    let s := s.log (laneUnit lane) 0x08 lane.lane 0 0
    let s := match s.nextLane lane with
      | some y => s.modLane y (fun z => z.takeOver x.replay)
      | none => s.noLane lane
    match lane.link with
    | .footing => .next s
    | .column => .next ((s.askVia lane.idx).noteColumns [lane.idx])
    | .channel => .next (s.askVia lane.idx)

/-! ### The quiesce of a column (R279) -/

/-- The lanes of a column's column link and channel link, both directions. -/
def columnLanes (col : Nat) : List Lane :=
  ([true, false].map (fun up =>
    (List.range 4).map (fun i => ({ link := .column, idx := col, up := up, lane := i } : Lane)) ++
      (List.range 2).map (fun i => ({ link := .channel, idx := col, up := up, lane := i } : Lane)))).flatten

/-- `COLUMN_QUIESCE`: the replay buffers of the column are empty, no other column of its cluster is quiesced, and the takeover of its
vias is the next of its stack (R279; 17, R380). -/
def execColumnQuiesce (col : Nat) (s : State) : Host.Outcome State Fault Refusal :=
  match s.startable .via col 0 0 with
  | none => .next s
  | some t =>
    let ls := columnLanes col
    if ls.any (fun l => !(s.laneAt l).replay.isEmpty) || (columnsOf (clusterOf col)).any (fun c => (s.bundle c).quiescedAt.isSome) then .next s
    else
      let s := s.beginTakeover t
      .next { s with vch := { s.vch with bundles := s.vch.bundles.mod col Bundle.reset (fun b => { b with quiescedAt := some s.now }) } }

/-- The suspect lanes of a column put back in service on spare vias, or marked failed. -/
def State.repairLanes (s : State) (col : Nat) (ok : Bool) : State :=
  ((columnLanes col).filter (fun l => (s.laneAt l).suspect)).foldl (fun s l =>
    s.modLane l (fun x => { x with suspect := false, failed := !ok })) s

/-- `QUIESCE_HOLD_EXPIRY`: the 200 µs hold ends. `viasNeeded` is what the boundary test found; a column has 4 spare vias (LOG 42). -/
def execQuiesceHoldExpiry (col viasNeeded : Nat) (s : State) : Host.Outcome State Fault Refusal :=
  match (s.bundle col).quiescedAt with
  | none => .next s
  | some q =>
    if s.since q < 200000 then .next s
    else
      let ok := decide ((s.bundle col).sparesUsed + viasNeeded ≤ 4)
      let s := s.repairLanes col ok
      let s := { s with vch := { s.vch with bundles := s.vch.bundles.mod col Bundle.reset (fun b =>
        { sparesUsed := if ok then b.sparesUsed + viasNeeded else b.sparesUsed, quiescedAt := none }) } }
      let s := if ok then s.logRepair 3 (col + 256 * viasNeeded) else s
      let s := match s.rel.queue.find? (fun t => t.kind == .via && t.place == col && t.started.isSome) with
        | some t => if ok then s.endTakeover t else s.dropTakeover t
        | none => s
      let dead := fun (up : Bool) => (List.range 2).all (fun i => (s.laneAt { link := .channel, idx := col, up := up, lane := i }).failed)
      .next (if (dead true || dead false) && !(s.channel col).retired then s.retireChannel col else s)

/-! ### Die-to-die links (R272; 17, R388) -/

/-- The other direction of a die-to-die link: link 2s is s toward s + 1, link 2s + 1 is s toward s − 1. -/
def reverseLink (i : Nat) : Nat := if i % 2 = 0 then 2 * ((i / 2 + 1) % 4) + 1 else 2 * ((i / 2 + 3) % 4)

/-- Whether both die-to-die links of a stack have failed. -/
def State.islanded (s : State) (k : Nat) : Bool := !(s.d2d.get (2 * k) D2d.reset).up && !(s.d2d.get (2 * k + 1) D2d.reset).up

/-- `D2D_LINK_FAIL`: a link fails in both directions; its replay buffers are replayed the other way round the ring, and a stack that has
lost both its links is a rescue trigger (R272; 17, R388). -/
def execD2dLinkFail (link : Nat) (s : State) : Host.Outcome State Fault Refusal :=
  if link ≥ 8 ∨ !(s.d2d.get link D2d.reset).up then .next s
  else
    let down := fun (s : State) (i : Nat) =>
      let d := s.d2d.get i D2d.reset
      { s with d2d := s.d2d.set i { up := false, replay := [], resent := d.resent + d.replay.length } }
    let s := down (down s link) (reverseLink link)
    let cut := (List.range 4).filter (fun k => s.islanded k)
    .next (if cut.isEmpty then s else s.triggerRescue 2 0 ((cut.map (fun k => 2 ^ k)).sum))

end Sys2Proof.Machine
end

