-- ==== Sys2Proof/Machine/Maintain.lean ====
section
/-! DEFINITION. Maintenance of HBM4 and of Stonos: write-back acknowledgements (08, R210), lane marks (10, R247, R248), patrol scrub
(10, R256 to R258), and column relief (08, R216 to R218). -/

namespace Sys2Proof.Machine

/-! ### HBM4 -/

/-- `WRITEBACK_ACK`: the line leaves its write-back buffer (08, R210). -/
def execWritebackAck (line : Nat) (s : State) : Host.Outcome State Fault Refusal :=
  .next (s.ackedLine line)

/-- `LANE_MARK`: 16 successive corrections in one byte lane (10, R247); a second lane of a marked channel fails the channel (R248). -/
def execLaneMark (channel : Nat) (s : State) : Host.Outcome State Fault Refusal :=
  let c := s.channel channel
  if c.streak < 16 ∨ c.failed ∨ c.retired then .next s
  else if !c.marked then
    let s := s.modChannel channel (fun c => { c with marked := true, lane := c.streakLane, streak := 0 })
    let s := s.log (unitChannel channel) 0x06 c.streakLane 0 0
    .next (s.askTakeover { kind := .hbmLane, stack := stackOf channel, place := channel, bank := 0, row := 0, asked := s.now, started := none })
  else if c.streakLane = c.lane then .next s
  else
    let s := s.modChannel channel (fun c => { c with failed := true, streak := 0 })
    -- a remap that runs goes on (17, R385); one that waits has nothing left to remap
    match s.rel.queue.find? (fun t => t.kind == .hbmLane && t.place == channel) with
    | some t => if t.started.isSome then .next s else .next ((s.dropTakeover t).retireChannel channel)
    | none => .next (s.retireChannel channel)

/-- Whether a sector is held dirty in its home slice. -/
def State.heldDirty (s : State) (sector : Nat) : Bool :=
  s.stn.lines.any (fun l => l.line == sector / 4 &&
    (match l.kind with | .localLine _ dirty => bit dirty (sector % 4) | .pinned _ _ _ _ => true | _ => false))

/-- A place of a walk taken: whether a new pass begins there. -/
def newPass (walk : Option Nat) (place : Nat) : Bool :=
  match walk with
  | none => true
  | some p => decide (place ≤ p)

/-- A scrub read of a sector, counted as every read is, with its rewrite in the array (R246, R256). -/
def State.scrubHbm (s : State) (sector : Nat) : State :=
  let col := homeColumn (32 * sector)
  let x := s.arraySector sector
  let v := decodeSector (s.hbm.errs.get sector []) x.2 (s.channel col)
  let t := s.countVerdict col v (0, 0)
  match v with
  | .corrected _ => t.rewriteArray sector x.1 false
  | .wrong counted => if counted then t.rewriteArray sector (garbledSector sector 2) false else t
  | .uncorrectable => t.poisonSector sector
  | _ => t

/-- `HBM_SCRUB_SECTOR`: pages whose bit is clear and sectors held dirty are skipped. A pass keeps the period with which its channel began it.
`errs`: symbols the array has lost since. No scrub runs in rescue mode (R256, R258, R259, R265; 17, R390). -/
def execHbmScrubSector (sector : Nat) (errs : List (Nat × Nat)) (s : State) : Host.Outcome State Fault Refusal :=
  let col := homeColumn (32 * sector)
  let place := channelAddr (32 * sector) / 32
  let c := s.channel col
  let hours := if newPass c.scrubAt place then (s.hbmRegs (stackOf col)).scrubHours else c.scrubHours
  if s.rel.mode = 2 then .next s
  else if hours = 0 ∨ c.retired then .next (s.modChannel col (fun c => { c with scrubHours := hours }))
  else
    let s := s.modChannel col (fun c => { c with scrubAt := some place, scrubHours := hours })
    if !s.pageValid (32 * sector) || s.heldDirty sector then .next s
    else
      let s := if errs.isEmpty then s
        else { s with hbm := { s.hbm with errs := s.hbm.errs.set sector (gather (s.hbm.errs.get sector [] ++ errs)) } }
      .next (s.scrubHbm sector)

/-! ### Stonos -/

/-- New flips of a stored word: `flips` masks its 64 data bits and, above them, its 8 check bits. -/
def State.flipWord (s : State) (key flips : Nat) : State :=
  let e := s.stn.wordErrs.get key (0, 0)
  let e' := (e.1 ^^^ flips % 2 ^ 64, e.2 ^^^ flips / 2 ^ 64 % 2 ^ 8)
  { s with stn := { s.stn with wordErrs := if flipCount e' = 0 then s.stn.wordErrs.drop key else s.stn.wordErrs.set key e' } }

/-- The scratch address, in the form of its frame row, of word `word` of a slice; words from 2^40 on are those of cached local lines. -/
def State.wordAddr (s : State) (col word : Nat) : Nat :=
  if word ≥ 2 ^ 40 then 8 * (word - 2 ^ 40)
  else
    let line := word / 16
    let frame := line / 512 % 512
    let i := line % 512
    let field := (col % 64) ^^^ (if s.rowHashed (stackOf col) frame then i % 64 else 0)
    2 ^ 40 + stackOf col * 2 ^ 31 + frame * 2 ^ 22 + field * 2 ^ 16 + i * 128 + 8 * (word % 16)

/-- Whether the cache of a slice holds the word at an address. -/
def State.wordHeld (s : State) (col pa : Nat) : Bool :=
  s.stn.lines.any (fun l => l.col == col && l.line == pa / 128 &&
    (match l.kind with | .localLine present _ => bit present (pa / 32 % 4) | _ => false))

/-- The copy, Reduce line or pinned line of a slice that holds a word, and the word's place in it; their words are numbered from 2^62 on. -/
def State.copyOfWord (s : State) (col word : Nat) : Option (CacheLine × Nat) :=
  (s.stn.lines.filter (fun l => l.col == col && (match l.kind with | .localLine _ _ => false | _ => true))).findSome? (fun l =>
    (l.words.find? (fun w => l.wordKey w == word)).map (fun w => (l, w)))

/-- A corrected word rewritten by the scrub: counted, and its row tested (17, R379). -/
def State.rewriteWord (s : State) (col key : Nat) : State :=
  (s.modStnRegs (stackOf col) (fun r => { r with ceCount := wrap32 (r.ceCount + 1) })).writeWord col key

/-- A scrub of one word of scratch or of a cached local line: rewritten corrected, or its sector poisoned (R257); a row with corrected words
in two of its words during a pass meets the row test (17, R379). A scratch sector whose valid bit is clear holds no error (08, R198). -/
def State.scrubWord (s : State) (col word : Nat) : State :=
  let pa := s.wordAddr col word
  let key := s.wordKey pa
  let e := s.stn.wordErrs.get key (0, 0)
  if flipCount e = 0 ∨ (placeOf pa = .scratch ∧ !s.stn.valid.contains (pa / 32)) then s
  else if wordCorrected key e then
    let s := s.rewriteWord col key
    if word ≥ 2 ^ 40 then s
    else
      let row := fun (w : Nat) => (s.wordBank (s.wordAddr col w), s.wordRow (s.wordAddr col w))
      let met := (s.sliceAt col).corrected.any (fun w => w != word && row w == row word)
      let s := s.modSlice col (fun x => { x with corrected := insertNew x.corrected word })
      if met then s.rowTest col (row word).1 (row word).2 else s
  else s.checkWord (pa / 32) (pa % 32 / 8) (0, 0)

/-- A scrub of one word of a copy, a Reduce line or a pinned line. -/
def State.scrubCopy (s : State) (col word flips : Nat) : State :=
  match s.copyOfWord col word with
  | none => s
  | some (l, w) =>
    let s := s.flipWord word flips
    let e := s.stn.wordErrs.get word (0, 0)
    if flipCount e = 0 then s
    else if wordCorrected word e then s.rewriteWord col word
    else (s.checkCopy l [w] (0, 0)).1

/-- `STN_SCRUB_WORD`: the next word of a slice's walk, or of its bitmap. A pass keeps the period with which its slice began it. `flips`:
bits the word has lost since. No scrub runs in rescue mode (R255, R257, R265; 17, R390). -/
def execStnScrubWord (col word flips : Nat) (bitmap : Bool) (s : State) : Host.Outcome State Fault Refusal :=
  let place := if bitmap then 2 ^ 60 + word else word
  let x := s.sliceAt col
  let start := newPass x.scrubAt place
  let minutes := if start then (s.stnRegs (stackOf col)).scrubMinutes else x.scrubMinutes
  if s.rel.mode = 2 then .next s
  else if minutes = 0 ∨ x.retired then .next (s.modSlice col (fun x => { x with scrubMinutes := minutes }))
  else if (bitmap ∧ word ≥ 8192) ∨ (!bitmap ∧ word ≥ 2 ^ 22 ∧ word < 2 ^ 40) then .next s
  else
    let s := s.modSlice col (fun x =>
      if start then { x with scrubAt := some place, scrubMinutes := minutes, corrected := [], badRows := [] }
      else { x with scrubAt := some place, scrubMinutes := minutes })
    if bitmap then
      let s := s.flipWord (bitmapKey col word) flips
      let was := s.stn.wordErrs.get (bitmapKey col word) (0, 0)
      let t := s.checkBitmapWord col word (0, 0)
      .next (if flipCount was ≠ 0 ∧ wordCorrected (bitmapKey col word) was then t.writeWord col (bitmapKey col word) else t)
    else if word ≥ 2 ^ 62 then .next (s.scrubCopy col word flips)
    else if word ≥ 2 ^ 40 ∧ s.wordHeld col (8 * (word - 2 ^ 40)) = false then .next s
    else .next ((s.flipWord (s.wordKey (s.wordAddr col word)) flips).scrubWord col word)

/-! ### Column relief (08, R216 to R218; 16, R375) -/

/-- Lines of channel `n` that a slice holds; pinned lines of scratch stay in it (R217). -/
def State.linesOf (s : State) (holder n : Nat) : List CacheLine :=
  s.stn.lines.filter (fun l => l.col == holder && placeOf l.addr != .scratch && homeColumn (l.addr % 2 ^ 39) == n)

/-- A line that a draining slice gives up: a local line is written back, unless a write-back of it is not acknowledged yet; a Reduce line or
a pinned line goes to the slice that allocates the channel's lines now (R210, R218; LOG 149). -/
def State.drainLine (s : State) (l : CacheLine) : State :=
  match l.kind with
  | .localLine _ _ => if s.hbm.wbBuf.any (fun x => x.line == l.line) then s else (s.writeBack l (0, 0)).removeLine l
  | _ => s.moveLine l

/-- The lines of channel `n` drained from a slice. -/
def State.drain (s : State) (holder n : Nat) : State :=
  (s.linesOf holder n).foldl (fun s l => s.drainLine l) s

/-- Whether relief of a slice is refused: its partner is in relief, or either is retired (R216). -/
def State.reliefRefused (s : State) (col : Nat) : Bool :=
  (s.sliceAt (partnerOf col)).relief != .off || (s.sliceAt (partnerOf col)).retired

/-- `RELIEF_REQUEST`: three rounds at or above the start threshold, in the round's order of requests; the drain of the slice begins (R216,
R218; 16, R375). No relief starts or ends in rescue mode (17, R390). -/
def execReliefRequest (col : Nat) (s : State) : Host.Outcome State Fault Refusal :=
  if s.thm.reliefWanted.head? ≠ some col ∨ s.rel.mode = 2 then .next s
  else
    let s := { s with thm := { s.thm with reliefWanted := s.thm.reliefWanted.filter (· != col) } }
    if (s.sliceAt col).relief ≠ .off ∨ (s.sliceAt col).retired ∨ s.reliefRefused col then .next s
    else .next (s.modSlice col (fun x => { x with relief := .drain }))

/-- `RELIEF_END_REQUEST`: 20 rounds at or below the stop threshold; relief ends through the same two phases (R218; 16, R375). -/
def execReliefEndRequest (col : Nat) (s : State) : Host.Outcome State Fault Refusal :=
  if !s.thm.endWanted.contains col ∨ s.rel.mode = 2 then .next s
  else
    let s := { s with thm := { s.thm with endWanted := s.thm.endWanted.filter (· != col) } }
    if (s.sliceAt col).relief = .relieved ∧ !(s.sliceAt col).retired then .next (s.modSlice col (fun x => { x with relief := .ending }))
    else .next s

/-- `RELIEF_DRAIN_END`: the slice that drains holds no line of the channel any more, and the other is the point of coherence (R218). -/
def execReliefDrainEnd (col : Nat) (s : State) : Host.Outcome State Fault Refusal :=
  match (s.sliceAt col).relief with
  | .drain =>
    let t := s.drain col col
    if (t.linesOf col col).isEmpty then .next (t.modSlice col (fun x => { x with relief := .relieved })) else .next t
  | .ending =>
    let t := s.drain (partnerOf col) col
    if (t.linesOf (partnerOf col) col).isEmpty then .next (t.modSlice col (fun x => { x with relief := .off })) else .next t
  | _ => .next s

end Sys2Proof.Machine
end

