-- ==== Sys2Proof/Machine/Cytil.lean ====
section
/-! DEFINITION. The Cytil ports (11, R281 to R291): transfers received, forwarded, and performed at their home (09, R221; 07, R185, R189;
02, R49), replay, lanes, bring-up, time synchronisation and the domain's registers. -/

namespace Sys2Proof.Machine

/-! ### The header flit (R282, R284) -/

/-- One bit of the reflected CRC-32 of IEEE 802.3. -/
def crcBit (c : Nat) : Nat := if c % 2 = 1 then (c / 2) ^^^ 0xEDB88320 else c / 2

/-- One byte. -/
def crcByte (c : Nat) (b : Byte) : Nat := (List.range 8).foldl (fun c _ => crcBit c) (c ^^^ b.toNat)

/-- CRC-32 of a byte string. -/
def crc32 (bs : List Byte) : Nat := (bs.foldl crcByte 0xFFFFFFFF) ^^^ 0xFFFFFFFF

/-- A transfer's header. -/
structure Header where
  type : Nat
  seq : Nat
  ack : Nat
  credits : List Nat
  dst : Nat
  src : Nat
  domainTag : Nat
  op : Nat
  poison : Bool
  qclass : Nat
  addr : Nat
  layer : Nat
  oper : Nat
  tag : Nat
  count : Nat
  last : Nat
  small : List Byte

/-- The fields of a header flit. -/
def headerOf (h : List Byte) : Header :=
  { type := field h 0 2 / 2 ^ 12, seq := field h 0 2 % 4096, ack := field h 2 2 % 4096,
    credits := [byteAt h 4, byteAt h 5, byteAt h 6, byteAt h 7], dst := field h 8 2 % 1024, src := field h 10 2 % 1024,
    domainTag := field h 12 2, op := byteAt h 14 % 64, poison := bit (byteAt h 14) 6, qclass := byteAt h 15 % 8,
    addr := field h 16 8 % 2 ^ 52, layer := field h 24 2, oper := field h 26 2, tag := field h 28 2,
    count := byteAt h 30 % 64, last := byteAt h 31, small := slice h 32 28 }

/-- The identifiers that a transfer carries. -/
def Header.ids (x : Header) : Nat × Nat := (x.layer, x.oper + 2 ^ 16 * x.qclass)

/-- The first flit of a transfer that fails a check: 0 the header, i + 1 data flit i (R284). -/
def badFlit (h : List Byte) (body : List (List Byte)) (fecOk encrypted : Bool) : Option Nat :=
  let x := headerOf h
  if !fecOk || crc32 (slice h 0 60) != field h 60 4 || decide (x.count > (if encrypted then 44 else 48)) || body.length != x.count then some 0
  else
    match body.zipIdx.find? (fun f => f.1.length != 256 || crc32 f.1 != field h (64 + 4 * f.2) 4) with
    | some f => some (f.2 + 1)
    | none => none

/-! ### Acknowledgements, credits, replay (R283, R284) -/

/-- Whether a sequence number stands at or before another, modulo 4,096. -/
def seqCovers (ack seq : Nat) : Bool := decide ((ack + 4096 - seq) % 4096 < 2048)

/-- Transfers that an acknowledgement covers leave the replay buffer, and credits return. -/
def CytilPort.acked (p : CytilPort) (ack : Nat) (credits : List Nat) : CytilPort :=
  { p with
    replay := p.replay.filter (fun e => !seqCovers ack ((e.seq + e.flits - 1) % 4096)),
    spent := (List.range 4).map (fun v => p.spent.getD v 0 - credits.getD v 0) }

/-- The transfers from the one that holds a sequence number on, sent again (R284). -/
def replayXfers (hit : SentXfer → Bool) (now : Nat) (es : List SentXfer) : List SentXfer :=
  let keep := es.takeWhile (fun e => !hit e)
  keep ++ (es.drop keep.length).map (fun e => { e with tries := e.tries + 1, sentAt := now })

/-- A transfer of a port that went down, replayed on another port, or its command ended with 0x0502 (R287). -/
def State.moveXfer (s : State) (port : Nat) (e : SentXfer) : State :=
  match s.cylSend e.dst e.op e.addr e.tag e.bytes e.txn e.poison (some e.head) with
  | .sent s' => s'
  | .held => s.enqueue e
  | .unreachable =>
    match e.txn with
    | none => s
    | some id =>
      match s.txn? id with
      | some t => s.faultArrives t 0x0502 port
      | none => s

/-- A port goes down (R287): its mask bit is set aside, and what its replay buffer holds is replayed elsewhere, before what waits. -/
def State.portDown (s : State) (port : Nat) : State :=
  let es := (s.port port).replay
  let s := s.modPort port (fun p =>
    { p with up := false, replay := [], spent := [0, 0, 0, 0], owed := [0, 0, 0, 0], txSeq := 0, rxSeq := 0, discarding := false })
  let later := s.cyl.waiting
  let s := es.foldl (fun s e => s.moveXfer port e) { s with cyl := { s.cyl with waiting := [] } }
  ({ s with cyl := { s.cyl with waiting := s.cyl.waiting ++ later } } : State).recomputeShares.pump

/-- A port goes down with its ledger entry (19, R414): 1 replays, 2 authentication. -/
def State.portFails (s : State) (port arg : Nat) : State := (s.log (unitPort port) 0x09 arg 0 0).portDown port

/-- A replay from the first transfer that `hit` names; after 16 replays of one transfer the port goes down. -/
def State.replayPort (s : State) (port : Nat) (hit : SentXfer → Bool) : State :=
  let p := s.port port
  if !p.up || !p.replay.any hit then s
  else
    let n := (p.replay.dropWhile (fun e => !hit e)).length
    let s := s.modPort port (fun p => { p with replay := replayXfers hit s.now p.replay, replays := wrap32 (p.replays + n) })
    let s := s.count (port / 3) 0x051 none (0, 0) n
    if (s.port port).replay.any (fun e => decide (e.tries ≥ 16)) then s.portFails port 1 else s

/-! ### At the home (09, R221; 07, R185, R189; 02, R49) -/

/-- The lodging that a domain tag is bound to here. -/
def State.boundLodging (s : State) (tag : Nat) : Option Nat :=
  if tag = 0 then none
  else (s.lods.find? (fun e => e.2.state == .active && (match e.2.contract with | some c => c.domainTag == tag | none => false))).map (·.1)

/-- Whether a local range is mapped in a lodging with the permission an access needs. -/
def State.homeMay (s : State) (lod pa n need : Nat) : Bool :=
  (s.lod lod).maps.any (fun m => decide (m.pa ≤ pa ∧ pa + n ≤ m.pa + m.size * m.count) && (m.perm &&& need == need))

/-- The response to a transfer, which carries its identifiers. -/
def State.answer (s : State) (x : Header) (op addr : Nat) (bytes : List Byte) (poison : Bool) : State :=
  s.cylReply x.src op addr x.tag bytes poison
    (some { src := s.cyl.device, domainTag := x.domainTag, qclass := x.qclass, layer := x.layer, oper := x.oper })

/-- A refusal returned to the source. -/
def State.cylFault (s : State) (x : Header) (st : Nat) : State := s.answer x opFault x.addr (leBytes 2 st) false

/-- The valid sectors of a transfer's data: address, bytes (R282). -/
def Header.sectors (x : Header) (body : List (List Byte)) : List (Nat × List Byte) :=
  (body.zipIdx.map (fun f =>
    ((List.range 8).filter (fun j => decide (f.2 + 1 < x.count) || bit x.last j)).map (fun j =>
      (x.addr + 256 * f.2 + 32 * j, slice f.1 (32 * j) 32)))).flatten

/-- The reads of a `READ` transfer: one `DATA` for the sectors without poison and one for those with it (R282). -/
def State.homeRead (s : State) (x : Header) (lod : Nat) : State :=
  let line := alignDown x.addr 128
  let wanted := setBits (byteAt x.small 0) 4
  if !s.homeMay lod line 128 permRead then s.cylFault x 0x0301
  else if (s.withdrawn line).isSome then s.cylFault x 0x0501
  else
    let r := wanted.foldl (fun (acc : State × Tab (List Byte × Bool)) i =>
      let y := acc.1.readSector lod (line / 32 + i) x.ids
      (y.1, acc.2 ++ [(i, (y.2.bytes, y.2.poison))])) (s, [])
    let part := fun (p : Bool) => r.2.filter (fun e => e.2.2 == p)
    let bytes := fun (p : Bool) => ((List.range 4).map (fun i => match (part p).find? (fun e => e.1 == i) with
      | some e => e.2.1
      | none => List.replicate 32 0)).flatten
    let s := if (part false).isEmpty then r.1 else r.1.answer x opData line (bytes false) false
    if (part true).isEmpty then s else s.answer x opData line (bytes true) true

/-- A `WRITE` transfer: whole sectors. -/
def State.homeWrite (s : State) (x : Header) (lod : Nat) (body : List (List Byte)) : State :=
  let xs := x.sectors body
  if xs.any (fun e => !s.homeMay lod e.1 32 permWrite) then s.cylFault x 0x0301
  else if xs.any (fun e => (s.withdrawn e.1).isSome) then s.cylFault x 0x0501
  else
    (xs.foldl (fun s e => s.writeRange lod e.1 e.2 x.poison x.ids) s).answer x opAck x.addr [] false

/-- A `WRITE_PARTIAL` transfer: enabled bytes of a line (LOG 35). -/
def State.homePartial (s : State) (x : Header) (lod : Nat) (b : List Byte) : State :=
  let line := alignDown x.addr 128
  let en := field b 128 16
  if !s.homeMay lod line 128 permWrite then s.cylFault x 0x0301
  else if (s.withdrawn line).isSome then s.cylFault x 0x0501
  else
    ((List.range 4).foldl (fun s i =>
      (enabledRuns (bits en (32 * i) 32)).foldl (fun s r =>
        s.storeSector lod (line / 32 + i) r.1 (slice b (32 * i + r.1) r.2) x.poison x.ids) s) s).answer x opAck x.addr [] false

/-- The 36 operand bytes of an `ATOMIC` transfer in the fabric's form (LOG 35). -/
def Header.atomPayload (x : Header) (body : List Byte) : List Byte :=
  if x.count = 0 then slice x.small 0 4 ++ slice x.small 4 8 ++ List.replicate 8 0 ++ slice x.small 12 8 ++ List.replicate 8 0
  else slice body 0 36

/-- An `ATOMIC` transfer (07, R185, R188, R189); one on the home's host memory goes there as an AtomicOp, and its completion answers (LOG
43). -/
def State.homeAtomic (s : State) (x : Header) (lod : Nat) (body : List Byte) : State :=
  match atomReq? (x.atomPayload body) (alignDown x.addr 128) with
  | none => s.cylFault x 0x0301
  | some a =>
    if !s.homeMay lod a.pa a.size (permRead + permWrite) || s.inRegion lod a.pa || (placeOf a.pa == .host && !hostAtom a.op) then
      s.cylFault x 0x0301
    else if (s.withdrawn a.pa).isSome then s.cylFault x 0x0501
    else if placeOf a.pa = .host then s.hostAtomicOp lod a.pa (a.txn x.poison) (.homeAtomic x.src x.tag x.addr (a.txn x.poison))
    else
      let y := s.atomicHome lod a.pa a.size a.op a.src a.cmp x.poison x.ids
      y.s.answer x opResult x.addr (leBytes 16 y.old) y.poison

/-- An `ADD_TO_LINE` transfer: a contribution performed at its home; the acknowledgement says whether it set `OUT_OF_WINDOW` (09, R228,
R233). -/
def State.homeAdd (s : State) (x : Header) (lod : Nat) : State :=
  let pa := alignDown x.addr 128 + byteAt x.small 1 % 128
  match s.regionMap? lod pa with
  | none => s.cylFault x 0x0301
  | some m =>
    match m.region, m.reduction with
    | some d, some r =>
      if r.op.code ≠ byteAt x.small 0 ∨ pa % r.op.size ≠ 0 ∨ !s.homeMay lod pa r.op.size permWrite then s.cylFault x 0x0301
      else
        let y := s.contribute lod pa r d (field x.small 8 8) x.poison x.ids
        y.1.answer x opAck x.addr (leBytes 1 (ofBool y.2)) false
    | _, _ => s.cylFault x 0x0301

/-- A written-home line combined here (09, R227); the acknowledgement says whether it set `OUT_OF_WINDOW` (R233). -/
def State.homeLine (s : State) (x : Header) (lod : Nat) (body : List Byte) : State :=
  if !s.homeMay lod x.addr 64 permWrite then s.cylFault x 0x0301
  else
    match s.regionMap? lod x.addr with
    | none => s.cylFault x 0x0301
    | some m =>
      match m.reduction with
      | none => s.cylFault x 0x0301
      | some r =>
        let y := s.performHome lod x.addr m r body
        y.1.answer x opAck x.addr (leBytes 1 (ofBool y.2)) false

/-- A remote signal update (02, R49 to R53). -/
def State.homeSignal (s : State) (x : Header) (lod : Nat) : State :=
  let s := s.updateSignal lod (field x.small 0 2 % 4096) (signalOp (byteAt x.small 2) (field x.small 8 8))
  (s.startAll).answer x opAck x.addr [] false

/-- A request performed for the bound lodging. -/
def State.homeRequest (s : State) (x : Header) (lod : Nat) (body : List (List Byte)) : State :=
  let b := body.flatten
  match x.op with
  | 0x01 => s.homeRead x lod
  | 0x02 => s.homeWrite x lod body
  | 0x03 => s.homePartial x lod b
  | 0x04 => s.homeAtomic x lod b
  | 0x05 => s.homeAdd x lod
  | 0x06 => s.homeLine x lod b
  | 0x07 => s.homeSignal x lod
  | _ => s

/-- A response to a transaction of this device. -/
def State.homeResponse (s : State) (x : Header) (body : List (List Byte)) : State :=
  match s.txnByTag? x.tag 16 with
  | none => s
  | some t =>
    match x.op with
    | 0x10 =>
      s.sectorsArrive t ((x.sectors body).filterMap (fun e =>
        if e.1 / 128 = localOf t.addr / 128 then some (e.1 % 128 / 32, (e.2, x.poison)) else none))
    | 0x11 => s.ackArrives t (bit (byteAt x.small 0) 0)
    | 0x12 => s.atomicArrives t (field x.small 0 16) x.poison
    | 0x13 => s.faultArrives t (field x.small 0 2) 0
    | _ => s

/-- A transfer for another device sent on by the route table, or refused to its source (R286, R290). -/
def State.forward (s : State) (x : Header) (body : List (List Byte)) : State :=
  let s := { s with cyl := { s.cyl with forwarded := s.cyl.forwarded ++ [(x.dst, x.op, x.addr)] } }
  let b := if x.count = 0 then x.small else body.flatten
  let head : XferHead := { src := x.src, domainTag := x.domainTag, qclass := x.qclass, layer := x.layer, oper := x.oper }
  match s.sendOrWait x.dst x.op x.addr x.tag b none x.poison (some head) with
  | some s' => s'
  | none => s.cylFault x 0x0305

/-- Whether an operation code is one of those a transfer may carry. -/
def cylOp (op : Nat) : Bool := decide (1 ≤ op ∧ op ≤ 7) || decide (0x10 ≤ op ∧ op ≤ 0x13)

/-- A transfer accepted in sequence. -/
def State.acceptXfer (s : State) (port : Nat) (x : Header) (body : List (List Byte)) : State :=
  if !s.cyl.enable then s
  else if !cylOp x.op then s.log (unitPort port) 0x0A 0 x.layer x.oper
  else if x.dst ≠ s.cyl.device then s.forward x body
  else if x.op ≥ 0x10 then s.homeResponse x body
  else
    match s.boundLodging x.domainTag with
    | none => s.cylFault x 0x0301
    | some l => s.homeRequest x l body

/-! ### The rows of the link -/

/-- `CYTIL_TRANSFER`: a header flit and its data flits, checked, acknowledged, and forwarded or performed (R282 to R288). -/
def execCytilTransfer (port : Nat) (hdr : List Byte) (body : List (List Byte)) (fecOk gcmOk : Bool) (s : State) :
    Host.Outcome State Fault Refusal :=
  let p := s.port port
  let x := headerOf hdr
  if !p.up then .next s
  else
    let s := if fecOk then s else s.modPort port (fun p => { p with fecUncorr := wrap32 (p.fecUncorr + 1) })
    match badFlit hdr body fecOk p.encrypted with
    | some i =>
      if p.discarding then .next s
      else .next ((s.modPort port (fun p => { p with discarding := true })).emit (.cytilNak port ((p.rxSeq + i) % 4096)))
    | none =>
      if x.type ≠ 0 then .next s
      else if x.seq ≠ p.rxSeq then
        -- a duplicate is discarded by its sequence; a later flit than the one awaited is discarded with it
        if seqCovers ((p.rxSeq + 4095) % 4096) x.seq then .next (s.modPort port (fun p => p.acked x.ack x.credits))
        else if p.discarding then .next s
        else .next ((s.modPort port (fun p => { p with discarding := true })).emit (.cytilNak port p.rxSeq))
      else if p.encrypted && !gcmOk then
        .next (((s.modPort port (fun p => { p with authFail := true })).setNow (.authFail port)).portFails port 2)
      else
        let s := s.modPort port (fun p =>
          { p.acked x.ack x.credits with
            rxSeq := (p.rxSeq + 1 + x.count) % 4096, discarding := false,
            owed := p.owed.set (vcOf x.op) (p.owed.getD (vcOf x.op) 0 + 1 + x.count) })
        let s := s.addBytes (fixedOf (port / 3) (0x48 + 0x10 * (port % 3))) (256 * (1 + x.count))
        .next (s.acceptXfer port x body).pump

/-- `CYTIL_NAK`: the sender replays from the first flit of the failed transfer (R284). -/
def execCytilNak (port seq : Nat) (s : State) : Host.Outcome State Fault Refusal :=
  .next (s.replayPort port (fun e => decide ((seq + 4096 - e.seq) % 4096 < e.flits)))

/-- `CYTIL_IDLE`: acknowledgements and credits (R282 to R284). -/
def execCytilIdle (port ackSeq : Nat) (credits : List Nat) (s : State) : Host.Outcome State Fault Refusal :=
  if (s.port port).up then .next (s.modPort port (fun p => p.acked ackSeq credits)).pump else .next s

/-- `CYTIL_REPLAY_TIMER`: no acknowledgement 2 µs after sending (R284). -/
def execCytilReplayTimer (port : Nat) (s : State) : Host.Outcome State Fault Refusal :=
  .next (s.replayPort port (fun e => decide (s.since e.sentAt ≥ 2000)))

/-- `CYTIL_LANE_FAIL`: the spare takes the lane's place and what was in flight is replayed; without a trained spare at the peer the port
retrains; with a second failed lane it retrains on four lanes (R285). -/
def execCytilLaneFail (port lane : Nat) (peerHasSpare : Bool) (s : State) : Host.Outcome State Fault Refusal :=
  let p := s.port port
  if bit p.laneFailed lane || decide (lane > 8) then .next s
  else
    let s := (s.modPort port (fun p => { p with laneFailed := p.laneFailed + 2 ^ lane })).log (unitPort port) 0x09 0 0 0
    if lane = 8 ∧ !p.spareInUse then .next s
    else if p.laneFailed = 0 then
      if peerHasSpare then .next ((s.modPort port (fun p => { p with spareInUse := true })).replayPort port (fun _ => true))
      else .next ((s.modPort port (fun p => { p with spareInUse := true })).portDown port)
    else .next ((s.modPort port (fun p => { p with halfWidth := true, spareInUse := false })).portDown port)

/-- `CYTIL_PORT_UP`: training completes where both ends agree on encryption (R281, R285, R288; 18, R407; 20, R437). -/
def execCytilPortUp (port : Nat) (peerEncrypt : Bool) (s : State) : Host.Outcome State Fault Refusal :=
  let p := s.port port
  if !p.upEn || p.up || !s.brd.linkRefclk || s.rel.mode == 2 || (s.domain (40 + port / 3)).state != .on || p.encrypt != peerEncrypt then .next s
  else
    let s := s.modPort port (fun p =>
      { p with up := true, encrypted := p.encrypt, keyEpoch := if p.encrypt then p.keyEpoch + 1 else p.keyEpoch, keyCount := 0,
               txSeq := 0, rxSeq := 0, replay := [], spent := [0, 0, 0, 0], owed := [0, 0, 0, 0], discarding := false })
    let s := if p.encrypt then { s with ink := { s.ink with draws := s.ink.draws + 1 } } else s
    .next s.recomputeShares.pump

/-! ### The time base (R289) -/

/-- Whether one value of the time base lies ahead of another. -/
def ahead (a b : Nat) : Bool := decide (0 < elapsed b a ∧ elapsed b a < 2 ^ 47)

/-- `TIME_SYNC`: the path delay measured, and the time base moved toward the master's by at most 100 ppm of 100 µs: forward, or back by a
lower rate, so that it never steps backwards (LOG 83). -/
def execTimeSync (port masterTime delay : Nat) (s : State) : Host.Outcome State Fault Refusal :=
  if !(s.port port).up then .next s
  else
    let s := s.modPort port (fun p => { p with delay := delay })
    let m := (masterTime + delay) % 2 ^ 48
    if s.cyl.enable && !s.cyl.timeMaster && !s.holding then
      if ahead m s.now then .next { s with now := (s.now + min 10 (elapsed s.now m)) % 2 ^ 48, slow := 0 }
      else .next { s with slow := min 10 (elapsed m s.now) }
    else .next s

/-- `TIME_SYNC_PERIOD`: each port that is up sends time-sync flits to its peer. -/
def execTimeSyncPeriod (s : State) : Host.Outcome State Fault Refusal :=
  .next (((List.range 12).filter (fun p => (s.port p).up)).foldl (fun s p =>
    (s.modPort p (fun q => { q with syncs := q.syncs + 1 })).emit (.timeSync p)) s)

/-- `TIME_BASE_ALIGNED`: the master's time base has reached the value that the device holds, and the device follows it. -/
def execTimeBaseAligned (masterTime : Nat) (s : State) : Host.Outcome State Fault Refusal :=
  if s.holding && !ahead s.now masterTime then .next { s with holding := false, now := masterTime % 2 ^ 48 } else .next s

/-- Whether every galley of the device is DISABLED. -/
def State.allDisabled (s : State) : Bool := s.lods.all (fun e => e.2.galleys.all (fun g => g.2.state == .disabled))

/-- `CYL_DOMAIN_WRITE` (R289, R290). -/
def execCylDomainWrite (value masterTime : Nat) (s : State) : Host.Outcome State Fault Refusal :=
  let was := s.cyl.enable
  let c : Cyl := { s.cyl with
    enable := bit value 31, timeMaster := bit value 30, device := if was then s.cyl.device else bits value 0 10 }
  let s := { s with cyl := c }
  let s :=
    if was ∨ !c.enable then (if c.enable then s else { s with holding := false })
    else if c.timeMaster ∨ !s.allDisabled then s
    else if ahead masterTime s.now then { s with now := masterTime % 2 ^ 48 }
    else if ahead s.now masterTime then { s with holding := true }
    else s
  .next (if c.enable then s.pump else s)

/-- `CYL_ROUTE_WRITE` (R286, R291). -/
def execCylRouteWrite (dev value : Nat) (s : State) : Host.Outcome State Fault Refusal :=
  if dev ≥ 1024 then .next s
  else .next ({ s with cyl := { s.cyl with routes := s.cyl.routes.set dev (bits value 0 12) } } : State).pump

/-- `CYL_PORT_CTRL_WRITE`: `UP_EN` trains the port, or takes it down; `ENCRYPT` takes effect at the next bring-up (R288). -/
def execCylPortCtrlWrite (port value : Nat) (s : State) : Host.Outcome State Fault Refusal :=
  let s := s.modPort port (fun p => { p with upEn := bit value 0, encrypt := bit value 1 })
  if (s.port port).up && !bit value 0 then .next (s.portDown port) else .next s

end Sys2Proof.Machine
end

