-- ==== Sys2Proof/Machine/Power.lean ====
section
/-! DEFINITION. Power delivery (15): the limiter and the brake, the wakes of domains and their queue, the faults of a regulator. -/

namespace Sys2Proof.Machine

/-! ### Domains (R346, R347) -/

/-- Declared step of a domain in amperes (R346). -/
def declaredStep (d : Nat) : Nat := if d < 32 then 30 else if d < 36 then 20 else if d < 40 then 25 else if d < 48 then 15 else 6

/-- The stack whose footing die carries a domain's regulator (R346). -/
def regulatorStack (d : Nat) : Nat := if d < 32 then d / 8 else if d < 48 then d % 4 else 0

/-- Present set point in mV (R346, R347, R351, R352). -/
def State.setMv (s : State) (d : Nat) : Nat :=
  let x := s.domain d
  let base := if d < 32 then 550 + 5 * (Config.voltageStep d (min (if Config.binned d then 1575 else 1600) (25 * s.pwr.frac)) % 71) else 750
  match x.state with
  | .off => 0
  | .failed => 0
  | _ => base + (if x.localSense then 25 else 0)

/-- Columns that a domain's work is on: a cluster's. -/
def domainColumns (d : Nat) : List Nat := if d < 32 then columnsOf d else []

/-- The PCIe link goes down. -/
def State.linkDown (s : State) : State := { s with brd := { s.brd with linkUp := false } }

/-- A domain switched off: a cluster's instruction caches go with it, and `CRACKED` clears (R358). A cluster with fewer than N phases is
lost from here on (17, R386). -/
def State.switchOff (s : State) (d : Nat) : State :=
  let s := s.modDomain d (fun x => { x with state := .off, cracked := false, capped := x.localSense && x.capped })
  let s := (domainColumns d).foldl (fun s c => s.modCore c (fun k => { k with icache := [], itlb := [] })) s
  if d < 32 ∧ (s.domain d).phasesOk < Domain.phases d ∧ !s.rel.lostClusters.contains d then s.loseCluster d else s

/-! ### Wakes (R353, R354) -/

/-- Amperes of the wakes and raises that started in (now − 10 µs, now]. -/
def State.recentSteps (s : State) : Nat := ((s.pwr.wakes.filter (fun w => decide (s.since w.1 < 10000))).map (·.2)).sum

/-- Domains in RAMP. -/
def State.ramps (s : State) : Nat := (List.range 49).countP (fun d => (s.domain d).state == .ramp)

/-- Whether R353 admits a step of `amps` now. -/
def State.wakeAdmitted (s : State) (amps : Nat) : Bool := decide (s.ramps < 4 ∧ s.recentSteps + amps ≤ 120)

/-- A wake or raise entered among those of the last 10 µs. -/
def State.noteWake (s : State) (amps : Nat) : State :=
  { s with pwr := { s.pwr with wakes := s.pwr.wakes.filter (fun w => decide (s.since w.1 < 10000)) ++ [(s.now, amps)] } }

/-- The waiting domain that is served next: safety domains by number, then the others by number (R354). -/
def State.nextWake (s : State) : Option Nat :=
  let ready := fun d => s.pwr.wakeQueue.contains d && (s.domain d).state == .off && (s.domain d).retryAt.isNone
  match (List.range 49).find? (fun d => safetyDomain d && ready d) with
  | some d => some d
  | none => (List.range 49).find? (fun d => ready d)

/-- A domain waits for its wake. -/
def State.queueWake (s : State) (d : Nat) : State := { s with pwr := { s.pwr with wakeQueue := insertNew s.pwr.wakeQueue d } }

/-- `DOMAIN_WAKE`: the wake at the head of the queue starts once R353 admits it. -/
def execDomainWake (dom : Nat) (s : State) : Host.Outcome State Fault Refusal :=
  if s.nextWake = some dom ∧ s.wakeAdmitted (declaredStep dom) then
    let s := (s.noteWake (declaredStep dom)).modDomain dom (fun x => { x with state := .ramp, rampStart := s.now })
    .next { s with pwr := { s.pwr with wakeQueue := s.pwr.wakeQueue.filter (· != dom) } }
  else .next s

/-- `RAMP_COMPLETE`: 18 µs of soft start and 2 µs of settling have passed; reaching ON clears the failure count (R353, R356). -/
def execRampComplete (dom : Nat) (s : State) : Host.Outcome State Fault Refusal :=
  if (s.domain dom).state = .ramp ∧ s.since (s.domain dom).rampStart ≥ 20000 then
    .next (s.modDomain dom (fun x => { x with state := .on, fails := 0, busyAt := s.now }))
  else .next s

/-- Whether a cluster holds a unit, a block, or saved state not yet written (R348). -/
def State.clusterBusy (s : State) (d : Nat) : Bool :=
  (columnsOf d).any (fun c => (s.core c).run != .idle || !(s.blocksOn c).isEmpty) || !s.passed (s.turn d).switchUntil

/-- `IDLE_GATE_EXPIRY` of a cluster domain (R348, R349). -/
def execIdleGateExpiry (dom : Nat) (s : State) : Host.Outcome State Fault Refusal :=
  if dom < 32 ∧ (s.domain dom).state = .on ∧ s.pwr.idleGateUs ≠ 0 ∧ !s.clusterBusy dom
      ∧ s.expired (s.domain dom).busyAt (1000 * s.pwr.idleGateUs) then .next (s.switchOff dom)
  else .next s

/-! ### Faults of a regulator (R351, R355 to R358) -/

/-- What follows when a domain is FAILED (17, R386, R388). -/
def State.domainFailed (s : State) (d : Nat) : State :=
  let k := d % 4
  if d < 32 then s.loseCluster d
  else if d < 36 then s.triggerRescue 1 (2 ^ k) 0
  else if d < 40 then s
  else if d < 44 then s.triggerRescue 1 0 (2 ^ k)
  else if d < 48 then s.triggerRescue 1 (2 ^ k) 0
  else s.triggerRescue 1 0 0

/-- What stops when a domain that was ON is switched off by its regulator: units of a cluster are run again, the Cytil ports of a footing
die and the PCIe link go down. -/
def State.domainStops (s : State) (d : Nat) : State :=
  if d < 32 then ((s.discardUnits (columnsOf d)).sweepFailed).failBlocks (columnsOf d)
  else if 40 ≤ d ∧ d < 44 then (List.range 3).foldl (fun s i => s.portDown (3 * (d % 4) + i)) s
  else if d = 48 then s.linkDown
  else s

/-- `REGULATOR_OVERCURRENT`: 1.5 times rated current held for 2 µs, in soft start or while ON: the domain is off, and FAILED at the
third failure in a row (R355, R356). -/
def execRegulatorOvercurrent (dom : Nat) (s : State) : Host.Outcome State Fault Refusal :=
  let x := s.domain dom
  if dom ≥ 49 ∨ !(x.state == .ramp || x.state == .on) then .next s
  else
    let n := x.fails + 1
    let s := s.log (unitRegulator dom) 0x0C n 0 0
    let s := if x.state = .on then s.domainStops dom else s
    let s := s.switchOff dom
    if n ≥ 3 then
      let s := s.modDomain dom (fun x => { x with state := .failed, fails := 3, retryAt := none })
      .next (s.domainFailed dom)
    else .next (s.modDomain dom (fun x => { x with fails := n, retryAt := some ((s.now + 1000000) % 2 ^ 48) }))

/-- `HICCUP_RETRY`: 1 ms after it switched off, the regulator asks for a wake again (R355). -/
def execHiccupRetry (dom : Nat) (s : State) : Host.Outcome State Fault Refusal :=
  let x := s.domain dom
  if x.state = .off ∧ x.retryAt.isSome ∧ s.passed x.retryAt then
    .next ((s.modDomain dom (fun x => { x with retryAt := none })).queueWake dom)
  else .next s

/-- `PHASE_FAIL`: the phase is removed; a spare phase's takeover is asked for, or below N the loss is handled (R357; 17, R386). -/
def execPhaseFail (dom : Nat) (s : State) : Host.Outcome State Fault Refusal :=
  let n := (s.domain dom).phasesOk
  if n = 0 ∨ dom ≥ 50 then .next s
  else
    let s := s.modDomain dom (fun x => { x with phasesOk := n - 1 })
    if n - 1 ≥ Domain.phases dom then
      .next (s.askTakeover { kind := .phase, stack := regulatorStack dom, place := dom, bank := n - 1, row := 0, asked := s.now,
                             started := none })
    else .next s.noteLoss

/-- `SENSE_PATH_OPEN`: the remote and local readings differ by more than 50 mV beyond the expected drop (R351). -/
def execSensePathOpen (dom diffMillivolts : Nat) (s : State) : Host.Outcome State Fault Refusal :=
  if diffMillivolts ≤ 50 ∨ dom ≥ 50 then .next s
  else .next ((s.modDomain dom (fun x => { x with localSense := true, capped := true })).noteColumns (domainColumns dom))

/-- Whether a load step's droop exceeds the expected one by 30 % or more: amperes and µV, with the fused impedance in µΩ (R358). -/
def excessDroop (d : Nat) (x : Nat × Nat) : Bool := decide (x.2 * 100 ≥ 130 * (x.1 * Config.impedance d))

/-- `CRACKED_CONNECTION`: `steps` are the regulator's load steps, newest first; 48 of the last 64 of at least 5 A have excess droop
(R358). -/
def execCrackedConnection (dom : Nat) (steps : List (Nat × Nat)) (s : State) : Host.Outcome State Fault Refusal :=
  let xs := (steps.filter (fun x => decide (x.1 ≥ 5))).take 64
  if xs.length < 64 ∨ xs.countP (excessDroop dom) < 48 ∨ (s.domain dom).cracked ∨ dom ≥ 50 then .next s
  else
    let s := s.modDomain dom (fun x => { x with cracked := true, capped := true })
    .next ((s.log (unitRegulator dom) 0x0B 0 0 0).noteColumns (domainColumns dom))

/-! ### The limiter (R352, R359 to R363) -/

/-- The terms of R360 that hold, with their `SOURCE` numbers. -/
def State.limitTerms (s : State) : List (Nat × Nat) :=
  [(1, s.pwr.limit), (2, s.thm.limit)] ++ (if s.ink.supervisorHold then [(3, 600)] else [])
    ++ (if s.pwr.brakeAsserted then [(4, s.pwr.brakeWatts)] else [])

/-- The effective limit in watts (R360). -/
def State.effectiveLimit (s : State) : Nat := (s.limitTerms.map (·.2)).foldl min s.pwr.limit

/-- The first source of the least value (R360). -/
def State.limitSource (s : State) : Nat := ((s.limitTerms.find? (fun t => t.2 == s.effectiveLimit)).map (·.1)).getD 0

/-- The registers of one evaluation of R361. -/
structure Limiter where
  frac : Nat
  memCap : Nat
  lowered : Bool
  raised : Bool
  deriving DecidableEq, Repr

/-- R361 for `sum` mW over `n` samples, the last `inst`, and the limit in watts. -/
def limiterStep (frac memCap sum n inst lim : Nat) (admits : Bool) : Limiter :=
  let hold : Limiter := { frac := frac, memCap := memCap, lowered := false, raised := false }
  if sum + 4000 * n > 1000 * lim * n ∨ 100 * inst > 115 * (1000 * lim) then
    if frac > 8 then { hold with frac := frac - 1, lowered := true }
    else if memCap > 2 then { hold with memCap := memCap - 1, lowered := true }
    else hold
  else if sum + 12000 * n < 1000 * lim * n ∧ inst < 1000 * lim then
    if memCap < 8 then { hold with memCap := memCap + 1 }
    else if frac < 64 ∧ admits then { hold with frac := frac + 1, raised := true }
    else hold
  else hold

/-- `POWER_LIMITER_UPDATE`: one sample, and from configuration readiness on the limits of R359 and the procedure of R361. A raise comes
after every waiting domain (R354). -/
def execPowerLimiterUpdate (milliwatts vinMilliamps riseAmps : Nat) (stackMilliamps : List Nat) (s : State) : Host.Outcome State Fault Refusal :=
  let s : State := { s with pwr := { s.pwr with samples := (milliwatts :: s.pwr.samples).take 1000 } }
  if s.pwr.frac = 0 ∨ s.brd.dead then .next s
  else
    let high := decide (vinMilliamps > 500000)
    let frac := if high then max 8 (s.pwr.frac - 4) else s.pwr.frac
    let admits := !high && s.nextWake.isNone && s.wakeAdmitted riseAmps
    let r := limiterStep frac s.pwr.memCap s.pwr.samples.sum s.pwr.samples.length milliwatts s.effectiveLimit admits
    let s := if r.raised then s.noteWake riseAmps else s
    .next (({ s with pwr := { s.pwr with
      frac := r.frac, memCap := r.memCap, source := if r.frac = 64 ∧ r.memCap = 8 then 0 else s.limitSource,
      limitEvents := if r.lowered then wrap32 (s.pwr.limitEvents + 1) else s.pwr.limitEvents } } : State).noteRates.noteStretch stackMilliamps |>.countStretch stackMilliamps)

/-- `BRAKE_ASSERT`: `FRAC` falls in one step against the last sample, and the brake term joins R360 (R362; 20, R442). -/
def execBrakeAssert (s : State) : Host.Outcome State Fault Refusal :=
  if s.pwr.brakeAsserted ∨ s.brd.startStep < 3 then .next s
  else
    let inst := s.pwr.samples.headD 0
    let frac := if s.pwr.frac = 0 ∨ inst = 0 then s.pwr.frac
      else max 8 (min s.pwr.frac (s.pwr.frac * (1000 * s.pwr.brakeWatts) / inst))
    .next (({ s with pwr := { s.pwr with brakeAsserted := true, brakeEvent := true, frac := frac } } : State).setNow .brakeEvent).noteRates

/-- `BRAKE_RELEASE`: the brake term leaves R360 (R362). -/
def execBrakeRelease (s : State) : Host.Outcome State Fault Refusal := .next { s with pwr := { s.pwr with brakeAsserted := false } }

end Sys2Proof.Machine
end

