-- ==== Sys2Proof/Machine/Admin.lean ====
section
/-! DEFINITION. The admin mailboxes and the operations they start (02, R54 to R56, R457, R458; 18, R397 to R405, R459, R460). A
doorbell starts an operation; the operation's own command serves it; `MBX_OPERATION_END` writes its record. -/

namespace Sys2Proof.Machine

/-! ### Checks (18, R459) -/

/-- The admin opcodes (18, R398). -/
def adminOpcodeRange (o : Nat) : Bool := decide (0x0F01 ≤ o ∧ o ≤ 0x0F09)

/-- Operations that rescue mode accepts (17, R390). -/
def rescueAccepts (key opcode : Nat) : Bool :=
  opcode == 0x0F08 || (key == 256 && (opcode == 0x0F04 || opcode == 0x0F06 || opcode == 0x0F02))

/-- Steps 1 to 3: the lodging of a VF mailbox, the opcode, which is refused outside the range in any mailbox (02, R56), rescue mode, and
whether this mailbox accepts it. -/
def State.adminGate (s : State) (key : Nat) (p : List Byte) : Option Status :=
  let o := field p 0 2
  if key < 256 ∧ (s.lod key).state = .absent then some (0x0603, key)
  else if !adminOpcodeRange o then some (0x0200, 1)
  else if s.rel.mode = 2 ∧ !rescueAccepts key o then some (0x0500, 0)
  else if key < 256 ∧ (o ≠ 0x0F08 ∧ o ≠ 0x0F03) then some (0x0601, 0)
  else if key < 256 ∧ o = 0x0F08 ∧ bits (byteAt p 36) 0 2 = 1 then some (0x0601, 0)
  else if o = 0x0F01 ∧ s.unlock.granted = 2 then some (0x0601, 0)
  else none

/-- Parameter fields of an admin opcode (R397, R398): first byte and bits. -/
def adminFields (o : Nat) : List (Nat × Nat) :=
  match o with
  | 0x0F01 => [(16, 8), (24, 64)]
  | 0x0F02 => [(16, 8)]
  | 0x0F03 => [(16, 8)]
  | 0x0F04 => [(24, 64), (32, 32)]
  | 0x0F05 => [(40, 32)]
  | 0x0F06 => [(44, 9), (46, 10)]
  | 0x0F07 => [(16, 8), (24, 64)]
  | 0x0F08 => [(16, 8), (24, 64), (32, 32), (36, 2)]
  | _ => []

/-- Step 4: the header's reserved bits and `EXT`, then the parameters'; a VF mailbox ignores `LODGING` (R397, R457). -/
def adminReserved (key : Nat) (p : List Byte) : Option Status :=
  let vf := if key < 256 then [(16, 16)] else []
  if strayBits (byteAt p 2) 0x1F then some (0x0201, 2)
  else if strayBits (byteAt p 3) 0x07 then some (0x0201, 3)
  else
    match reservedAt p (vf ++ adminFields (field p 0 2)) [] with
    | some off => some (0x0201, off)
    | none => none

/-- Step 5: the parameter values of R398, in ascending byte offset. -/
def adminValues (p : List Byte) : Option Status :=
  match field p 0 2 with
  | 0x0F01 => if field p 24 8 % 256 ≠ 0 then some (0x0202, 24) else none
  | 0x0F07 => if field p 24 8 % 256 ≠ 0 then some (0x0202, 24) else none
  | 0x0F06 =>
    if field p 44 2 + field p 46 2 > 511 then some (0x0207, 44) else if field p 46 2 = 0 then some (0x0202, 46) else none
  | 0x0F08 =>
    let sel := bits (byteAt p 36) 0 2
    if field p 32 4 < (if sel = 1 then 4096 else 1024) then some (0x0207, 32) else if sel ≥ 2 then some (0x0202, 36) else none
  | _ => none

/-- Step 6: a held resource (R401). -/
def State.adminBusy (s : State) (key : Nat) (o : AdminOp) : Option Status :=
  match o.holds key with
  | some r => (match s.holder r with | some f => some (0x0600, f) | none => none)
  | none => none

/-- The lowest lodging whose contract meets a condition. -/
def State.contractOwner (s : State) (f : Contract → Bool) : Option Nat :=
  allLods.find? (fun l => match s.contract? l with | some c => f c | none => false)

/-- Step 7: the refusals that depend on the device's state (R398). -/
def State.adminRefused (s : State) (key : Nat) (p : List Byte) : Option Status :=
  let l := adminLodging key p
  match field p 0 2 with
  | 0x0F01 => if (s.lod l).state ≠ .absent then some (0x0603, l) else none
  | 0x0F02 => if (s.lod l).state = .absent then some (0x0603, l) else none
  | 0x0F03 => if (s.lod l).state ≠ .active then some (0x0603, l) else none
  | 0x0F05 =>
    (match s.contractOwner (fun c => decide ((c.dedicated ||| c.shared) &&& field p 40 4 ≠ 0)) with
     | some k => some (0x0603, k)
     | none => none)
  | 0x0F06 =>
    (match s.contractOwner (fun c => c.gibs.any (fun g => decide (field p 44 2 ≤ g ∧ g < field p 44 2 + field p 46 2))) with
     | some k => some (0x0603, k)
     | none => none)
  | 0x0F07 => if (s.lod l).state ≠ .active then some (0x0603, l) else none
  | 0x0F09 => if s.rel.mode = 2 then some (0x0500, 0) else none
  | _ => none

/-- The first of several checks that fails. -/
def firstFail : List (Option Status) → Option Status
  | [] => none
  | some f :: _ => some f
  | none :: r => firstFail r

/-- Steps 1 to 7 in order. -/
def State.adminCheck (s : State) (key : Nat) (o : AdminOp) : Option Status :=
  firstFail [s.adminGate key o.packet, adminReserved key o.packet, adminValues o.packet, s.adminBusy key o,
    s.adminRefused key o.packet]

/-! ### Service (18, R401, R460) -/

/-- Whether the Innkeeper serves new operations: no failover, none left that the standby pair carries, and no higher duty due (R393). -/
def State.serviceOpen (s : State) : Bool := s.ink.failoverAt.isNone && s.ink.carried.isEmpty && !s.higherDuty

/-- Whether operation `a` is served before `b`: by the time of its doorbell, and in one set the PF, then the VFs ascending. -/
def State.servedBefore (s : State) (a b : Nat × AdminOp) : Bool :=
  let ta := elapsed a.2.asked s.now
  let tb := elapsed b.2.asked s.now
  let rank := fun k => if k = 256 then 0 else k + 1
  decide (ta > tb ∨ (ta = tb ∧ rank a.1 < rank b.1))

/-- The operation of an opcode in a function's mailbox, where the Innkeeper may serve it now: one that is carried, else one whose
outcome is open and before which no other waits for its service. A higher duty comes first (R393). -/
def State.adminReady (s : State) (fn : Fn) (opcode : Nat) : Option AdminOp :=
  let key := fnKey fn
  if s.ink.failoverAt.isSome || s.higherDuty then none
  else
    match s.ink.carried.find? (fun e => e.1 == key && e.2.opcode == opcode) with
    | some e => some e.2
    | none =>
      if !s.ink.carried.isEmpty then none
      else
        match (s.mbx fn).op with
        | none => none
        | some o =>
          if o.opcode != opcode || o.decided then none
          else if o.waiting || s.adminOps.all (fun e => e.2.begun || !s.servedBefore e (key, o)) then some o else none

/-- An operation changed, where it stands. -/
def State.modOp (s : State) (fn : Fn) (f : AdminOp → AdminOp) : State :=
  let key := fnKey fn
  if s.ink.carried.any (fun e => e.1 == key) then
    { s with ink := { s.ink with carried := s.ink.carried.map (fun (e : Nat × AdminOp) => if e.1 = key then (e.1, f e.2) else e) } }
  else s.modMbx fn (fun m => { m with op := m.op.map f })

/-- An operation's outcome decided (R458): a carried one is over, and its lodging's waiting Function Level Reset starts. -/
def State.decideOp (s : State) (fn : Fn) (o : AdminOp) (st : Status) (work : Nat) : State :=
  let key := fnKey fn
  if s.ink.carried.any (fun e => e.1 == key) then
    let s : State := { s with ink := { s.ink with carried := s.ink.carried.filter (fun (e : Nat × AdminOp) => e.1 != key) } }
    s.releaseFlr (adminLodging key o.packet)
  else
    s.modMbx fn (fun m => { m with op := m.op.map (fun o =>
      { o with decided := true, waiting := false, start := if o.begun then o.start else s.now, endT := s.now,
               status := st.1, detail := st.2, work := work }) })

/-- An operation ended as `OK`. -/
def State.opDone (s : State) (fn : Fn) (o : AdminOp) (work : Nat) : State := s.decideOp fn o (0, 0) work

/-- An operation served: refused by the first check that fails, else run. -/
def State.serveOp (s : State) (fn : Fn) (opcode : Nat) (run : State → AdminOp → State) : State :=
  match s.adminReady fn opcode with
  | none => s
  | some o =>
    if o.waiting then run s o
    else
      match s.adminCheck (fnKey fn) o with
      | some st => s.decideOp fn o st 0
      | none => run s o

/-! ### The mailbox (02, R54 to R56, R457, R458) -/

/-- `MBX_DOORBELL`: ignored and counted while `BUSY`; else an operation starts, and one that steps 1 to 3 refuse is decided (02, R54
to R56; 10, R262). -/
def execMbxDoorbell (fn : Fn) (ep : Bool) (s : State) : Host.Outcome State Fault Refusal :=
  if ep then .next (s.advisory (fnKey fn))
  else if s.mbxBusy fn then .next (s.reject fn)
  else
    let p := (s.mbx fn).cmd
    let o : AdminOp := { opcode := field p 0 2, packet := p, start := 0, endT := 0, status := 0, detail := 0, work := 0,
                         decided := false, waiting := false, asked := s.now }
    let s := s.modMbx fn (fun m => { m with busy := true, rejects := 0, op := some o })
    if s.serviceOpen then
      match s.adminGate (fnKey fn) p with
      | some st => .next (s.decideOp fn o st 0)
      | none => .next s
    else .next s

/-- The record of a decided operation: result written, `DONE` set, `BUSY` clear, vector 0 raised (R54, R458). -/
def State.endOp (s : State) (fn : Fn) (o : AdminOp) : State :=
  let rec' := recordBytes (field o.packet 8 4) (field o.packet 12 4) o.status o.detail o.start o.endT o.work false
  let s := (s.modMbx fn (fun m => { m with result := rec', done := true, busy := false, op := none })).setNow (.mbxDone (fnKey fn))
  s.raise (fnKey fn) 0

/-- `MBX_OPERATION_END`: a decided operation ends; one that no command serves, because steps 1 to 3 refuse it, is decided here when the
Innkeeper comes to it. While a higher duty is due it waits (R393). -/
def execMbxOperationEnd (fn : Fn) (s : State) : Host.Outcome State Fault Refusal :=
  match (s.mbx fn).op with
  | none => .next s
  | some o =>
    if s.higherDuty then .next s
    else if o.decided then .next ((s.endOp fn o).releaseFlr (adminLodging (fnKey fn) o.packet))
    else if s.serviceOpen then
      match s.adminGate (fnKey fn) o.packet with
      | some st => .next (s.endOp fn { o with start := s.now, endT := s.now, status := st.1, detail := st.2 })
      | none => .next s
    else .next s

/-! ### Buffers (18, R397, R398; 10, R451, R462) -/

/-- A buffer in host memory read for a PF operation: operand 0. What the host answers is logged (10, R262, R462). -/
def State.adminRead (s : State) (h n : Nat) (ans : HostAns) : State × Except Status (List Byte) :=
  if h + n > 2 ^ 51 then (s, .error (0x0301, 0))
  else
    let t := s.logHost 256 ans
    if ans = .unsupported then (t, .error (0x0301, 0))
    else
      let r := t.readRange 256 (2 ^ 51 + h) n (0, 0)
      if hostPoisons ans || r.2.2.any id then (r.1, .error (0x0303, 2)) else (r.1, .ok r.2.1)

/-! ### Lodgings (13, R315 to R317, R324, R325; 18, R399) -/

/-- `LODGING_CREATE`. -/
def execLodgingCreate (fn : Fn) (ans : HostAns) (s : State) : Host.Outcome State Fault Refusal :=
  .next (s.serveOp fn 0x0F01 (fun s o =>
    let l := adminLodging (fnKey fn) o.packet
    match s.adminRead (field o.packet 24 8) 256 ans with
    | (s, .error st) => s.decideOp fn o st 0
    | (s, .ok b) =>
      match s.contractCheck l b with
      | some st => s.decideOp fn o st 0
      | none => (s.createLodging l (contractOf b)).opDone fn o 0))

/-- `LODGING_DESTROY`: step 1 of R316, then its end once no command of the lodging is left. `WORK` is the pages of its extents. -/
def execLodgingDestroy (fn : Fn) (s : State) : Host.Outcome State Fault Refusal :=
  .next (s.serveOp fn 0x0F02 (fun s o =>
    let l := adminLodging (fnKey fn) o.packet
    let pages := match s.contract? l with | some c => 2 ^ 18 * c.gibs.length | none => 0
    let s := if o.waiting then s
      else ((s.beginReset l .destroying).1).modOp fn (fun o => { o with waiting := true, start := s.now, work := pages })
    match s.finishDestroy l with
    | (s, true) => s.opDone fn o (if o.waiting then o.work else pages)
    | (s, false) => s))

/-- `LODGING_RESET`: step 1 of R316, then steps 2 to 5 once no command of the lodging is left. -/
def execLodgingReset (fn : Fn) (s : State) : Host.Outcome State Fault Refusal :=
  .next (s.serveOp fn 0x0F03 (fun s o =>
    let l := adminLodging (fnKey fn) o.packet
    let r := if o.waiting then (s, o.work)
      else
        let b := s.beginReset l .resetting
        (b.1.modOp fn (fun o => { o with waiting := true, start := s.now, work := b.2 }), b.2)
    match r.1.finishReset l with
    | (s, true) => s.opDone fn o r.2
    | (s, false) => s))

/-- `CONTRACT_SET`. -/
def execContractSet (fn : Fn) (ans : HostAns) (s : State) : Host.Outcome State Fault Refusal :=
  .next (s.serveOp fn 0x0F07 (fun s o =>
    let l := adminLodging (fnKey fn) o.packet
    match s.adminRead (field o.packet 24 8) 256 ans with
    | (s, .error st) => s.decideOp fn o st 0
    | (s, .ok b) =>
      match s.contractCheck l b with
      | some st => s.decideOp fn o st 0
      | none => (s.changeContract l (contractOf b)).opDone fn o 0))

/-! ### Firmware (18, R403, R404; 16, R377) -/

/-- The lowest die outside the write window in the last completed round (16, R377). -/
def State.dieOutside (s : State) : Option Nat := (List.range 20).find? (fun d => s.thm.outside.contains d)

/-- The checks of an image's contents in the order of R404, for `len` bytes given. -/
def State.imageCheck (s : State) (img : List Byte) (len : Nat) : Option Status :=
  let body := field img 8 4
  let zeros := fun off n => (slice img off n).all (fun b => b == 0)
  if field img 0 4 ≠ 0x09400001 ∨ 512 + body > 2 ^ 25 ∨ len ≠ 512 + body ∨ !(zeros 12 4 && zeros 161 31 && zeros 288 224) then
    some (0x0602, 3)
  else if !Config.imageKeyOk (slice img 64 97) || !Config.imageSignatureOk (slice img 0 288)
      || Config.sha384 (slice img 512 body) != slice img 16 48 then some (0x0602, 1)
  else if field img 4 4 < s.ink.fusedSvn then some (0x0602, 2)
  else none

/-- The slot that did not boot. -/
def Ink.otherSlot (k : Ink) : Nat := 1 - k.bootSlot

/-- A slot changed. -/
def State.modSlot (s : State) (i : Nat) (f : Slot → Slot) : State :=
  { s with ink := { s.ink with slots := s.ink.slots.zipIdx.map (fun (x : Slot × Nat) => if x.2 = i then f x.1 else x.1) } }

/-- An image checked, programmed, read back and committed (R404): the status, and the bytes programmed. -/
def State.programImage (s : State) (img : List Byte) (len : Nat) (readBackOk : Bool) : State × Status × Nat :=
  match s.imageCheck img len with
  | some st => (s, st, 0)
  | none =>
    let i := s.ink.otherSlot
    match s.dieOutside with
    | some d => (s.modSlot i (fun x => { x with commit := none }), (0x0604, d), 0)
    | none =>
      if readBackOk then
        let n := (((s.ink.slots.getD s.ink.bootSlot Slot.reset).commit).getD 0) + 1
        (s.modSlot i (fun _ => { image := img, commit := some n }), (0, 0), len)
      else (s.modSlot i (fun _ => { image := img, commit := none }), (0x0602, 4), len)

/-- `FW_UPDATE`. -/
def execFwUpdate (fn : Fn) (ans : HostAns) (readBackOk : Bool) (s : State) : Host.Outcome State Fault Refusal :=
  .next (s.serveOp fn 0x0F04 (fun s o =>
    let len := field o.packet 32 4
    if s.ink.carried.any (fun e => e.1 == fnKey fn) then s.decideOp fn o (0x0501, 0) 0
    else
      match s.adminRead (field o.packet 24 8) (min len (2 ^ 25)) ans with
      | (s, .error st) => s.decideOp fn o st 0
      | (s, .ok b) =>
        let r := s.programImage b len readBackOk
        r.1.decideOp fn o r.2.1 r.2.2))

/-! ### Self-test, erase, telemetry, rescue (18, R399, R400; 17, R388, R389) -/

/-- A core that failed its self-test: its column's takeover is asked for; a spare core that serves no column is spent (17, R379, R380). -/
def State.bistCore (s : State) (p : Nat) : State :=
  let d := p / 72 * 8 + p % 72 / 9
  match (columnsOf d).find? (fun c => s.physCore c == p && (s.core c).served != .noCore) with
  | some col => s.askCore col
  | none =>
    if p % 9 = 8 then { s with rel := { s.rel with spareSpent := insertNew s.rel.spareSpent d } }.logRepair 8 d else s

/-- `BIST_RUN`: each masked cluster is switched on, tested and switched off; `failedCores` are the physical cores that failed. -/
def execBistRun (fn : Fn) (failedCores : List Nat) (s : State) : Host.Outcome State Fault Refusal :=
  .next (s.serveOp fn 0x0F05 (fun s o =>
    let ds := setBits (field o.packet 40 4) 32
    let failed := failedCores.filter (fun p => ds.contains (p / 72 * 8 + p % 72 / 9))
    let mask := ds.foldl (fun m d =>
      if failed.any (fun p => p / 72 * 8 + p % 72 / 9 == d) || (s.domain d).state == .failed then m + 2 ^ d else m) 0
    let s : State := failed.foldl (fun (s : State) p => s.bistCore p) s
    let s : State := ds.foldl (fun (s : State) d => if (s.domain d).state = .failed then s else s.switchOff d) s
    s.opDone fn o mask))

/-- The armed flip masks met by the write of a whole GiB, which has pages in every channel (10, R259). -/
def State.flipGib (s : State) (g : Nat) : State :=
  (List.range 4).foldl (fun (s : State) k =>
    match (List.range 256).find? (fun p => homeColumn (g * 2 ^ 30 + 4096 * p) == 64 * k + (s.hbmRegs k).flipChannel) with
    | some p => s.hbmFlip ((g * 2 ^ 30 + 4096 * p) / 32)
    | none => s) s

/-- Sectors of a GiB written with zeros under a key that is then discarded, and their valid bits cleared (R399; 10, R259). -/
def State.eraseGib (s : State) (g : Nat) : State :=
  let lo := g * 2 ^ 30
  let inside := fun a => decide (lo ≤ a ∧ a < lo + 2 ^ 30)
  let s := (s.returnPages lo (2 ^ 30)).flipGib g
  { s with
    mem := { cells := s.mem.cells.filter (fun c => !inside c.1), poison := s.mem.poison.filter (fun p => !inside (32 * p)) },
    hbm := { s.hbm with
      keyOf := s.hbm.keyOf.filter (fun (e : Nat × Nat) => !inside (32 * e.1)),
      errs := s.hbm.errs.filter (fun (e : Nat × List (Nat × Nat)) => !inside (32 * e.1)),
      under := s.hbm.under.filter (fun e => !inside (32 * e.1)) } }

/-- `SECURE_ERASE`. -/
def execSecureErase (fn : Fn) (s : State) : Host.Outcome State Fault Refusal :=
  .next (s.serveOp fn 0x0F06 (fun s o =>
    let n := field o.packet 46 2
    let s : State := (List.range n).foldl (fun (s : State) i => s.eraseGib (field o.packet 44 2 + i)) s
    ({ s with ink := { s.ink with nextKey := s.ink.nextKey + 1 } } : State).opDone fn o n))

/-- An event record of R334, padded to 16 bytes. -/
def LodEvent.bytes (e : LodEvent) : List Byte :=
  leBytes 4 e.seq ++ leBytes 1 e.code ++ leBytes 1 e.resource ++ leBytes 2 e.detail ++ leBytes 6 e.time ++ leBytes 2 0

/-- The record that `TELEMETRY_READ` writes: the event log, or the snapshot (R400). -/
def State.telemetry (s : State) (l sel : Nat) : List Byte :=
  if sel = 1 then slice s.ink.snapshot 0 4096 else slice (((s.lod l).events.map (·.bytes)).flatten) 0 1024

/-- `TELEMETRY_READ`: the PF's record goes to host memory, a VF's to its lodging's virtual address. Writing needs no
answer of the host's. -/
def execTelemetryRead (fn : Fn) (_ans : HostAns) (s : State) : Host.Outcome State Fault Refusal :=
  .next (s.serveOp fn 0x0F08 (fun s o =>
    let rec' := s.telemetry (adminLodging (fnKey fn) o.packet) (bits (byteAt o.packet 36) 0 2)
    let a := field o.packet 24 8
    match fn with
    | .pf =>
      if a + rec'.length > 2 ^ 51 then s.decideOp fn o (0x0301, 0) 0
      else (s.writeRange 256 (2 ^ 51 + a) rec' false (0, 0)).opDone fn o rec'.length
    | .vf n =>
      match s.vwrite n a 0 rec' false none (0, 0) with
      | .fail st d => s.decideOp fn o (st, d) 0
      | .wait => s
      | .ok s _ => s.opDone fn o rec'.length))

/-- `RESCUE_ENTER`: the trigger of cause 4 and the entry it makes due, in one step (17, R388, R389). -/
def execRescueEnter (fn : Fn) (s : State) : Host.Outcome State Fault Refusal :=
  .next (s.serveOp fn 0x0F09 (fun s o => ((s.triggerRescue 4 0 0).enterRescue 4).opDone fn o 0))

end Sys2Proof.Machine
end

