-- ==== Sys2Proof/Machine/Thermal.lean ====
section
/-! DEFINITION. The housekeeping round and what it decides (16). Temperatures are in 1/16 °C, the unit of the THM registers. Sensor
numbers: compute 16s + i, Stonos 64 + 16s + r, footing 128 + 8s + f; cluster d has sensors 2d and 2d + 1. -/

namespace Sys2Proof.Machine

/-! ### Elements and sensors (R365, R366) -/

/-- Magnitude of a difference. -/
def apart (a b : Int) : Nat := (a - b).natAbs

/-- An element's conversion where it is good by itself: present, from −20 °C to 140 °C, within 20 °C of its last round (R366). -/
def goodElem (last now : Option Int) : Option Int :=
  match now with
  | none => none
  | some v =>
    if v < -320 ∨ v > 2240 then none
    else match last with | some p => if apart v p > 320 then none else some v | none => some v

/-- The partner test of R366: elements more than 4 °C apart, the one further from the sensor's reading of the previous round failed. -/
def partnerTest (last : Option Int) (a b : Option Int) : Option Int × Option Int :=
  match a, b, last with
  | some x, some y, some p =>
    if apart x y ≤ 64 then (a, b)
    else if apart x p > apart y p then (none, b)
    else if apart y p > apart x p then (a, none)
    else (a, b)
  | _, _, _ => (a, b)

/-- A free number at a place of a round (LOG 13). -/
def State.freeNum (s : State) (place : Nat) : Nat :=
  (Config.freeByte s.freeAt (2 * place)).toNat + 256 * (Config.freeByte s.freeAt (2 * place + 1)).toNat

/-- What a sensor reports of its good elements; two that differ leave open what lies between them. -/
def State.sensorValue (s : State) (k : Nat) (a b : Option Int) : Option Int :=
  match a, b with
  | some x, some y => some (min x y + (s.freeNum k % (apart x y + 1) : Nat))
  | some x, none => some x
  | none, y => y

/-- The conversions of a sensor's elements in a round. -/
def Readings_elems (r : Readings) (k : Nat) : Option Int × Option Int := Tab.get r.elems k (some r.dflt, some r.dflt)

/-- A sensor's reading in a round; none where it is broken or has no good element. -/
def State.sensorReads (s : State) (r : Readings) (k : Nat) : Option Int :=
  if s.thm.broken.contains k then none
  else
    let l := s.thm.lastElem.get k (none, none, none)
    let e := Readings_elems r k
    let g := partnerTest l.2.2 (goodElem l.1 e.1) (goodElem l.2.1 e.2)
    s.sensorValue k g.1 g.2

/-- The report of an HBM4 stack. -/
def Readings_hbm (r : Readings) (site : Nat) : Option Int := if r.hbmNone.contains site then none else some (Tab.get r.hbm site r.dflt)

/-- P_r of a region in mW. -/
def Readings_power (r : Readings) (region : Nat) : Nat := Tab.get r.power region 0

/-! ### Substitutes and the middle-layer check (R368 to R370) -/

/-- A location of a round: its value, its limits, the value that the 5 °C test of R373 uses, and whether it holds a substitute. -/
structure Loc where
  num : Nat
  die : Nat
  value : Int
  bare : Option Int
  maxT : Int
  start : Option Int
  subst : Bool
  deriving DecidableEq, Repr

/-- The two sensors of a cluster, with the substitute of one that is broken (R368). -/
def clusterPair (vs : List (Option Int)) (d : Nat) : Int × Int :=
  match vs.getD (2 * d) none, vs.getD (2 * d + 1) none with
  | some a, some b => (a, b)
  | some a, none => (a, a + 48)
  | none, some b => (b + 48, b)
  | none, none => (1600, 1600)

/-- A cluster's location. -/
def clusterLoc (vs : List (Option Int)) (d : Nat) : Loc :=
  let p := clusterPair vs d
  let a := vs.getD (2 * d) none
  let b := vs.getD (2 * d + 1) none
  { num := d, die := 3 * (d / 8), value := max p.1 p.2,
    bare := (match a, b with | some x, some y => some (max x y) | some x, none => some x | none, y => y),
    maxT := 1680, start := some 1520, subst := a.isNone || b.isNone }

/-- The highest of some values. -/
def highest (xs : List Int) : Option Int :=
  match xs with
  | [] => none
  | x :: r => some (r.foldl max x)

/-- A footing sensor's location: sensor `f` of 8s + f. -/
def footingLoc (vs : List (Option Int)) (f : Nat) : Loc :=
  let valid := highest ((List.range 8).filterMap (fun i => vs.getD (128 + 8 * (f / 8) + i) none))
  let own := vs.getD (128 + f) none
  let value := match own, valid with
    | some x, _ => x
    | none, some x => x + 80
    | none, none => 1680
  { num := 96 + f, die := 3 * (f / 8) + 2, value := value, bare := (match own with | some x => some x | none => valid),
    maxT := 1680, start := none, subst := own.isNone }

/-- An HBM4 stack's location. -/
def hbmLoc (r : Readings) (site : Nat) : Loc :=
  let v := Readings_hbm r site
  { num := 128 + site, die := 12 + site, value := v.getD 1520, bare := v, maxT := 1680, start := some 1520, subst := v.isNone }

/-- The estimate of region 16s + r (R369), formed in the unit of its register; a value between two units is rounded to either. Clusters
removed from service take no part, and with both gone T_above is open. -/
def State.estimate (s : State) (r : Readings) (vs : List (Option Int)) (region : Nat) : Int :=
  let d := 8 * (region / 16) + 2 * (region % 16 / 4)
  let pair := fun (c : Nat) => if s.thm.removedClusters.contains c then [] else [(clusterPair vs c).1, (clusterPair vs c).2]
  let above := pair d ++ pair (d + 1)
  let above := if above.isEmpty then [((s.freeNum (2000 + region) : Nat) : Int) - 2 ^ 15] else above
  let below := (footingLoc vs (8 * (region / 16) + region % 16 / 2)).value
  let n : Int := (above.length : Nat)
  let heat : Int := ((Config.thetaMilli region * Readings_power r region : Nat) : Int)
  let num := (above.foldl (· + ·) 0 + n * below) * 1000000 + 32 * n * heat
  let den := 2 * n * 1000000
  num / den + (if num % den = 0 then 0 else ((s.freeNum (1000 + region) % 2 : Nat) : Int))

/-- The consecutive rounds in which a region's estimate lay more than 6 °C above its sensor (R370). -/
def State.excessCount (s : State) (vs : List (Option Int)) (est : List Int) (region : Nat) : Nat :=
  match vs.getD (64 + region) none with
  | none => 0
  | some v => if est.getD region 0 > v + 96 then s.thm.estCount.get region 0 + 1 else 0

/-- A region's location. -/
def regionLoc (vs : List (Option Int)) (est : List Int) (counts : List Nat) (region : Nat) : Loc :=
  let e := est.getD region 0
  let own := if counts.getD region 0 ≥ 3 then none else vs.getD (64 + region) none
  { num := 32 + region, die := 3 * (region / 16) + 1, value := (match own with | some x => x | none => e + 80),
    bare := (match own with | some x => some x | none => some e), maxT := 1520, start := some 1408, subst := own.isNone }

/-- What a round has formed when its substitutes are in. -/
structure RoundVals where
  sensors : List (Option Int)
  est : List Int
  counts : List Nat
  clusters : List Loc
  regions : List Loc
  footings : List Loc
  hbms : List Loc

/-- The first four steps of R367. -/
def State.roundVals (s : State) (r : Readings) : RoundVals :=
  let vs := (List.range 160).map (fun k => s.sensorReads r k)
  let est := (List.range 64).map (fun g => s.estimate r vs g)
  let counts := (List.range 64).map (fun g => s.excessCount vs est g)
  { sensors := vs, est := est, counts := counts,
    clusters := ((List.range 32).filter (fun d => !s.thm.removedClusters.contains d)).map (clusterLoc vs),
    regions := (List.range 64).map (regionLoc vs est counts), footings := (List.range 32).map (footingLoc vs),
    hbms := (List.range 8).map (hbmLoc r) }

/-- Every location that takes part. -/
def RoundVals.locs (v : RoundVals) : List Loc := v.clusters ++ v.regions ++ v.footings ++ v.hbms

/-- A cluster's value, where it takes part. -/
def RoundVals.cluster (v : RoundVals) (d : Nat) : Option Int := (v.clusters.find? (fun (l : Loc) => l.num == d)).map (·.value)

/-! ### Tests of a location (R371 to R373) -/

/-- At or above its maximum. -/
def Loc.atMax (l : Loc) : Bool := decide (l.value ≥ l.maxT)

/-- At or above its throttle start. -/
def Loc.throttles (l : Loc) : Bool := match l.start with | some t => decide (l.value ≥ t) | none => false

/-- Below its throttle start, a footing sensor below 100 °C. -/
def Loc.cool (l : Loc) : Bool := match l.start with | some t => decide (l.value < t) | none => decide (l.value < 1600)

/-- At least 3 °C below its throttle start, a footing sensor below 100 °C. -/
def Loc.wellCool (l : Loc) : Bool := match l.start with | some t => decide (l.value ≤ t - 48) | none => decide (l.value < 1600)

/-- The 5 °C test of R373. -/
def Loc.trips (l : Loc) : Bool := match l.bare with | some v => decide (v ≥ l.maxT + 80) | none => false

/-- Consecutive rounds at or above the maximum, by location. -/
def maxCounts (old : Tab Nat) (ls : List Loc) : Tab Nat := (ls.filter (·.atMax)).map (fun (l : Loc) => (l.num, old.get l.num 0 + 1))

/-- The thermal limit of R371: the first rule that applies. -/
def thermalLimit (old : Nat) (anyMax anyStart refused allCool : Bool) : Nat :=
  if anyMax then 380
  else if anyStart || refused then max (old - 17) 380
  else if allCool then min (old + 17) 850
  else old

/-! ### Heat placement (R375, R376) -/

/-- The region that holds the slice of a global column (R365; 11, R270). -/
def columnRegion (col : Nat) : Nat := 16 * (col / 64) + 4 * (col % 64 / 16) + col % 8 / 2

/-- Twice E_n of a column: the cluster's reading and its region's estimate or substitute (R375). -/
def RoundVals.twiceE (v : RoundVals) (col : Nat) : Option Int :=
  match v.cluster (clusterOf col), v.regions[columnRegion col]? with
  | some t, some g => some (t + (if g.subst then g.value else v.est.getD (columnRegion col) 0))
  | _, _ => none

/-- A column placed among others in descending E, ties by number. -/
def insertByE (x : Nat × Int) : List (Nat × Int) → List (Nat × Int)
  | [] => [x]
  | y :: r => if x.2 > y.2 ∨ (x.2 = y.2 ∧ x.1 < y.1) then x :: y :: r else y :: insertByE x r

/-- Whether one of the requests, in their order, is refused by R216. -/
def State.anyRefused (s : State) (taken : List Nat) : List Nat → Bool
  | [] => false
  | c :: r => s.reliefRefused c || taken.contains (partnerOf c) || s.anyRefused (c :: taken) r

/-- Column relief requests and placement marks of a round. -/
def State.decidePlacement (s : State) (r : Readings) (v : RoundVals) : State × Bool :=
  let es := (List.range 256).map (fun c => (c, v.twiceE c))
  let count := fun (old : Tab Nat) (f : Int → Bool) =>
    es.filterMap (fun (e : Nat × Option Int) => match e.2 with | some x => if f x then some (e.1, old.get e.1 0 + 1) else none | none => none)
  let hot : Tab Nat := count s.thm.hotCount (fun x => decide (x ≥ 32 * (s.thm.start : Int)))
  let cold : Tab Nat := count s.thm.coolCount (fun x => decide (x ≤ 32 * (s.thm.stop : Int)))
  let asks := es.filterMap (fun (e : Nat × Option Int) => match e.2 with
    | some x => if hot.get e.1 0 ≥ 3 ∧ (s.sliceAt e.1).relief = .off ∧ !(s.sliceAt e.1).retired then some (e.1, x) else none
    | none => none)
  let asks := (asks.foldl (fun (l : List (Nat × Int)) e => insertByE e l) []).map (·.1)
  let ends := (List.range 256).filter (fun c => decide (cold.get c 0 ≥ 20) && (s.sliceAt c).relief == .relieved && !(s.sliceAt c).retired)
  let busy := fun (d : Nat) => (List.range 4).any (fun i =>
    decide (Readings_power r (16 * (d / 8) + 4 * (d % 8 / 2) + i) ≥ 1000 * s.thm.busyW))
  let stacked := (List.range 32).filter (fun d =>
    (match v.cluster d with | some t => decide (t ≥ 1440) | none => false) && s.thm.busyW != 0 && busy d)
  ({ s with thm := { s.thm with hotCount := hot, coolCount := cold, reliefWanted := asks, endWanted := ends, stacked := stacked } },
   s.anyRefused [] asks)

/-! ### The round (R367) -/

/-- Thresholds written since the last round come into force (R378). -/
def State.roundBegins (s : State) : State :=
  { s with thm := { s.thm with start := s.thm.nextStart, stop := s.thm.nextStop, busyW := s.thm.nextBusyW } }

/-- Broken sensors, and what the next round compares with. -/
def State.keepReadings (s : State) (r : Readings) (v : RoundVals) : State :=
  let bad := (List.range 160).filter (fun k =>
    (v.sensors.getD k none).isNone || (decide (64 ≤ k ∧ k < 128) && decide (v.counts.getD (k - 64) 0 ≥ 3)))
  { s with thm := { s.thm with
      broken := bad.foldl insertNew s.thm.broken,
      lastElem := (List.range 160).map (fun k => (k, (Readings_elems r k).1, (Readings_elems r k).2, v.sensors.getD k none)),
      estCount := (List.range 64).map (fun g => (g, v.counts.getD g 0)),
      est := (List.range 64).map (fun g => (g, v.est.getD g 0)) } }

/-- Refresh, limit, `THERM_N` and trip of a round (R371 to R374). -/
def State.decideLimits (s : State) (v : RoundVals) (refused : Bool) : State :=
  let ls := v.locs
  let counts := maxCounts s.thm.maxRounds ls
  { s with thm := { s.thm with
      refresh2x := (List.range 8).filter (fun j =>
        match v.hbms[j]? with
        | some h => decide (h.value > 1360) || (decide (h.value > 1312) && s.thm.refresh2x.contains j)
        | none => false),
      limit := thermalLimit s.thm.limit (ls.any (·.atMax)) (ls.any (·.throttles)) refused (ls.all (·.wellCool)),
      therm := s.thm.therm || ls.any (·.atMax),
      coolRounds := if ls.all (·.cool) then s.thm.coolRounds + 1 else 0,
      maxRounds := counts,
      tripDue := s.thm.tripDue || ls.any (·.trips) || counts.any (fun e => decide (e.2 ≥ 50)) } }

/-- The THM registers of the dies, and the dies outside the write window of R377. -/
def State.publishDies (s : State) (v : RoundVals) : State :=
  let of := fun (d : Nat) => v.locs.filter (fun (l : Loc) => l.die == d)
  let temp := fun (d : Nat) => (highest ((of d).map (·.value))).getD 0
  let subst := (List.range 20).filter (fun d => (of d).any (·.subst))
  { s with thm := { s.thm with
      dieTemp := (List.range 20).map (fun d => (d, temp d)), locTemp := v.locs.map (fun (l : Loc) => (l.num, l.value)), dieSubst := subst,
      dieThrottle := (List.range 20).filter (fun d => (of d).any (·.throttles)),
      dieAtMax := (List.range 20).filter (fun d => (of d).any (·.atMax)),
      outside := (List.range 20).filter (fun d => subst.contains d || decide (temp d < 0 ∨ temp d > 1360)),
      rounds := s.thm.rounds + 1 } }

/-- Clusters both of whose sensors are broken are removed from service (R368). -/
def State.removeBlind (s : State) (v : RoundVals) : State :=
  let blind := (v.clusters.filter (fun (l : Loc) => l.bare.isNone)).map (·.num)
  blind.foldl (fun s d =>
    let s : State := { s with thm := { s.thm with removedClusters := insertNew s.thm.removedClusters d } }
    s.loseCluster d) s

/-- A round evaluated. -/
def State.evalRound (s : State) (r : Readings) : State :=
  let s := s.roundBegins
  let v := s.roundVals r
  let p := (s.keepReadings r v).decidePlacement r v
  (((p.1.decideLimits v p.2).publishDies v).removeBlind v).takeFree

/-- The round's completion in time: its due time, and the run of rounds completed within 1 ms of theirs; missed rounds are not replayed
(R395, R396). -/
def State.roundDone (s : State) : State :=
  let late := s.since s.ink.roundDue
  let missed := late > 1000000
  let due := if missed then s.ink.roundDue + (late / 1000000 + 1) * 1000000 else s.ink.roundDue + 1000000
  { s with ink := { s.ink with roundDue := due % 2 ^ 48, onTime := if missed then 1 else s.ink.onTime + 1 } }

/-- The readings as they come, before firmware starts: the highest conversion of each location (20, R442). -/
def rawLocs (r : Readings) : List Loc :=
  let top := fun (ks : List Nat) => highest ((ks.map (fun k => [(Readings_elems r k).1, (Readings_elems r k).2].filterMap id)).flatten)
  let mk := fun (num die : Nat) (m : Int) (v : Option Int) =>
    v.map (fun x => ({ num := num, die := die, value := x, bare := some x, maxT := m, start := none, subst := false } : Loc))
  ((List.range 32).filterMap (fun d => mk d (3 * (d / 8)) 1680 (top [2 * d, 2 * d + 1])))
    ++ ((List.range 64).filterMap (fun g => mk (32 + g) (3 * (g / 16) + 1) 1520 (top [64 + g])))
    ++ ((List.range 32).filterMap (fun f => mk (96 + f) (3 * (f / 8) + 2) 1680 (top [128 + f])))
    ++ ((List.range 8).filterMap (fun j => mk (128 + j) (12 + j) 1680 (Readings_hbm r j)))

/-- `HOUSEKEEPING_ROUND`: every 1 ms from start-up step 1; until firmware starts the supervisor applies R373 alone, and during a failover
no round runs (R367, R395; 20, R442). -/
def execHousekeepingRound (r : Readings) (s : State) : Host.Outcome State Fault Refusal :=
  if s.brd.startStep < 1 then .next s
  else if !s.ink.firmwareRuns then
    let counts := maxCounts s.thm.maxRounds (rawLocs r)
    .next { s with thm := { s.thm with
      maxRounds := counts,
      tripDue := s.thm.tripDue || (rawLocs r).any (·.trips) || counts.any (fun e => decide (e.2 ≥ 50)) } }
  else if s.ink.failoverAt.isSome || !s.passed (some s.ink.roundDue) then .next s
  else .next (s.evalRound r).roundDone

/-- `THERM_N_RELEASE`: after 100 consecutive cool rounds; a trip keeps it asserted (R372, R373). -/
def execThermNRelease (s : State) : Host.Outcome State Fault Refusal :=
  if s.thm.therm ∧ s.thm.coolRounds ≥ 100 ∧ !s.thm.tripped then .next { s with thm := { s.thm with therm := false } } else .next s

/-- The housekeeping logic that reads a sensor. -/
def sensorStack (k : Nat) : Nat := if k < 64 then k / 16 else if k < 128 then (k - 64) / 16 else (k - 128) / 8

/-- `SENSOR_BROKEN`: a sensor that a round found broken, by R366 or for the third time by R370, is declared, entered in its ledger and
counted as a spent spare; `region` is its sensor number. -/
def execSensorBroken (region : Nat) (s : State) : Host.Outcome State Fault Refusal :=
  let found := s.thm.broken.contains region || (decide (64 ≤ region ∧ region < 128) && decide (s.thm.estCount.get (region - 64) 0 ≥ 3))
  if !found || s.thm.reported.contains region then .next s
  else
    let s : State := { s with
      thm := { s.thm with broken := insertNew s.thm.broken region, reported := s.thm.reported ++ [region] },
      rel := { s.rel with spentSensors := s.rel.spentSensors + 1 } }
    .next (s.log (unitHousekeeping (sensorStack region)) 0x0F 0 0 0)

/-- Every domain but `PD49` switched off by the supervisor, one that is FAILED being off already, and the PCIe link down (R373; 20, R435). -/
def State.allOff (s : State) : State :=
  let s := (List.range 49).foldl (fun s d => s.modDomain d (fun x => { x with state := if x.state = .failed then .failed else .off, retryAt := none })) s
  ({ s with pwr := { s.pwr with wakeQueue := [] }, brd := { s.brd with dead := true } } : State).linkDown

/-- `SUPERVISOR_TRIP` (R373; 17, R384). -/
def execSupervisorTrip (s : State) : Host.Outcome State Fault Refusal :=
  if !s.thm.tripDue || s.thm.tripped then .next s
  else .next ({ s with thm := { s.thm with tripped := true, therm := true } } : State).allOff

end Sys2Proof.Machine
end

