-- ==== Sys2Proof/Machine/Registers.lean ====
section
/-! DEFINITION. What every register of the register maps reads (00, R6 to R9; 01, R18, R19, R23; 02, R24; and the Registers section of
each chapter), as 32-bit words at byte offsets that are multiples of 4. `none`: no register map lists the location (00, R3). -/

namespace Sys2Proof.Machine

/-- A field at a bit position. -/
def at' (v lo : Nat) : Nat := v * 2 ^ lo

/-- One bit at a position. -/
def flag (b : Bool) (i : Nat) : Nat := if b then 2 ^ i else 0

/-- Word `i` of a wide value. -/
def wordOf (v i : Nat) : Nat := bits v (32 * i) 32

/-- A signed value in 16 bits. -/
def signed16 (v : Int) : Nat := (v % 65536).toNat

/-- A mask of 32 flags. -/
def mask32 (f : Nat → Bool) : Nat := ((List.range 32).map (fun i => flag (f i) i)).sum

/-! ### DEV_CAPS (01, R18, R19) -/

/-- `FMAX` of cluster domain d (01, R17). -/
def clusterMhz (d : Nat) : Nat := if Config.binned d then 1575 else 1600

/-- The word of `DEV_CAPS` at an offset below 0x100. -/
def devCaps (off : Nat) : Nat :=
  if off = 0x00 then at' 0x0940 16 + at' Config.stepping.toNat 8 + 1
  else if off = 0x04 then at' 4 24 + at' 8 16 + at' 9 8 + 8
  else if off = 0x08 then at' 256 16 + at' 4 8 + 4
  else if off = 0x0C then at' 32 24 + at' 32 16 + 256
  else if off = 0x10 then at' 128 16 + 64
  else if off = 0x14 then at' 32 16 + 8
  else if off = 0x18 then at' 8 16 + 32
  else if off = 0x1C then 512
  else if off = 0x20 then at' 256 16 + 4096
  else if off = 0x24 then at' 1024 16 + at' 12 8 + 9
  else if off = 0x28 then 4194304
  else if off = 0x2C then at' 256 16 + 16384
  else if off = 0x30 then at' 64 16 + 32
  else if off = 0x34 then at' 1600 16 + 850
  else if 0x40 ≤ off ∧ off < 0x80 then at' (clusterMhz ((off - 0x40) / 2 + 1)) 16 + clusterMhz ((off - 0x40) / 2)
  else 0

/-! ### Function windows (02, R24) -/

/-- The mailbox, status and MSI-X part of a function's window. -/
def State.fnReg (s : State) (fn : Fn) (o : Nat) : Option Nat :=
  let m := s.mbx fn
  let x := s.msixFn (fnKey fn)
  if 0x2100 ≤ o ∧ o < 0x2140 then some (field m.cmd (o - 0x2100) 4)
  else if 0x2140 ≤ o ∧ o < 0x2160 then some (field m.result (o - 0x2140) 4)
  else if o = 0x2160 then some 0
  else if o = 0x2168 then some (flag (s.mbxBusy fn) 31 + flag m.done 30 + m.rejects)
  else if 0x3000 ≤ o ∧ o < 0x3400 then
    let r := x.row ((o - 0x3000) / 16)
    some (match (o - 0x3000) % 16 / 4 with
      | 0 => wordOf r.addr 0
      | 1 => wordOf r.addr 1
      | 2 => wordOf r.data 0
      | _ => flag r.masked 0)
  else if 0x3800 ≤ o ∧ o < 0x3808 then some (mask32 (fun i => (x.row (i + 8 * (o - 0x3800))).pending))
  else none

/-- A VF window. -/
def State.vfReg (s : State) (n o : Nat) : Option Nat :=
  let l := s.lod n
  let g := at' (ofBool l.gfault.valid) 63 + at' l.gfault.galley 32 + at' l.gfault.status 16 + l.gfault.detail
  if o < 0x2004 then some 0
  else if 0x2008 ≤ o ∧ o < 0x2010 then some (wordOf l.gdtBase ((o - 0x2008) / 4))
  else if o = 0x2010 then some (at' l.dbDrops 16 + l.ctrlDrops)
  else if 0x2018 ≤ o ∧ o < 0x2020 then some (wordOf g ((o - 0x2018) / 4))
  else if 0x4000 ≤ o ∧ o < 0x4100 then some (devCaps (o - 0x4000))
  else if 0x8000 ≤ o ∧ o < 0x10000 then
    some (if l.state = .absent then 0 else wordOf (l.signals.get ((o - 0x8000) / 8) 0) ((o - 0x8000) % 8 / 4))
  else s.fnReg (.vf n) o

/-! ### PCI window (01; 20) -/

/-- `LAMP_CTRL`j. -/
def Lamp.ctrl (l : Lamp) : Nat := flag l.override 31 + flag l.diagEn 30 + l.onUs

/-- A lamp. -/
def State.lamp (s : State) (j : Nat) : Lamp := s.brd.lamps.get j Lamp.reset

/-- `BRD_STATUS`. -/
def Brd.status (b : Brd) : Nat :=
  flag b.railFault 31 + flag b.xtalLost 30 + flag b.startFail 29 + at' b.faultRail 20 + b.startStep

/-- The PCI window of the PF. -/
def State.pciReg (s : State) (o : Nat) : Option Nat :=
  if o < 0x100 then some (devCaps o)
  else if 0x200 ≤ o ∧ o < 0x210 then some (s.lamp ((o - 0x200) / 4)).ctrl
  else if o = 0x210 then
    some ((List.range 4).map (fun j =>
      let l := s.lamp j
      at' (flag l.short 2 + flag l.openEvent 1 + flag l.isOpen 0) (8 * j))).sum
  else if o = 0x220 then some s.brd.status
  else if 0x12100 ≤ o ∧ o < 0x13808 then s.fnReg .pf (o - 0x10000)
  else none

/-! ### Per-stack windows -/

/-- MXA (04). -/
def State.mxaReg (s : State) (k o : Nat) : Option Nat :=
  if o = 0 then some (s.mxaTol.get k 20)
  else if 0x100 ≤ o ∧ o < 0x120 then
    some ((List.range 8).map (fun j => at' (s.core (64 * k + 8 * ((o - 0x100) / 4) + j)).suspect (4 * j))).sum
  else if o = 0x200 then some (s.mxaRetries.get k 0)
  else if o = 0x204 then some (s.mxaSuspected.get k 0)
  else none

/-- `STN_QUOTA` of a lodging (08, R213). -/
def State.quota (s : State) (k l : Nat) : Nat :=
  match s.contract? l with
  | none => 0
  | some c => at' (popcount (c.affSlices.getD k 0) 64 * c.affRows.getD k 0) 32 + at' (c.hashRows.getD k 0) 16 + c.cacheFrames.getD k 0

/-- `STN_CACHE_OCC` of a lodging: its lines, and those that stay until their write-back is acknowledged (08, R210, R214). -/
def State.cacheOcc (s : State) (k l : Nat) : Nat :=
  (((s.stn.lines ++ s.hbm.wbBuf).filter (fun y => y.lod == l && stackOf y.col == k)).map (·.ways)).sum

/-- STN (08, 09, 10). -/
def State.stnReg (s : State) (k o : Nat) : Option Nat :=
  let r := s.stnRegs k
  let sl := fun (n : Nat) => s.sliceAt (64 * k + n)
  if o = 0 then some r.ceCount
  else if o = 4 then some r.ueCount
  else if o = 0x10 ∨ o = 0x14 then some (mask32 (fun j => (sl (8 * (o - 0x10) + j)).spareBank))
  else if o = 0x20 ∨ o = 0x24 then some (mask32 (fun j => (sl (8 * (o - 0x20) + j)).relief == .relieved))
  else if o = 0x28 ∨ o = 0x2C then
    some (mask32 (fun j => (sl (8 * (o - 0x28) + j)).relief == .drain || (sl (8 * (o - 0x28) + j)).relief == .ending))
  else if o = 0x40 then some r.flipLo
  else if o = 0x44 then some r.flipMid
  else if o = 0x48 then some (flag r.flipArm 31 + at' r.flipSlice 24 + r.flipCheck)
  else if o = 0x50 then some r.scrubMinutes
  else if 0x100 ≤ o ∧ o < 0x200 then some (sl ((o - 0x100) / 4)).spareRows
  else if 0x1000 ≤ o ∧ o < 0x1800 then some (wordOf (s.quota k ((o - 0x1000) / 8)) ((o - 0x1000) % 8 / 4))
  else if 0x1800 ≤ o ∧ o < 0x1C00 then some (s.cacheOcc k ((o - 0x1800) / 4))
  else if o = 0x2000 then some r.reduceWb
  else if o = 0x2004 then some r.reduceLost
  else if o = 0x2008 then some r.epochDrops
  else none

/-- HBM (10). -/
def State.hbmReg (s : State) (k o : Nat) : Option Nat :=
  let r := s.hbmRegs k
  if o = 0 then some r.ceCount
  else if o = 4 then some r.ueCount
  else if o = 8 then some r.poisonReads
  else if o = 0x10 then some r.scrubHours
  else if o = 0x20 then some r.zeroFills
  else if o = 0x24 then some r.bitmapUe
  else if o = 0x40 then some r.flipLo
  else if o = 0x44 then some (flag r.flipArm 31 + at' r.flipChannel 24 + at' r.flipPattern 16 + r.flipHi)
  else if 0x100 ≤ o ∧ o < 0x200 then
    let c := s.channel (64 * k + (o - 0x100) / 4)
    some (flag c.marked 31 + flag c.failed 30 + c.lane)
  else none

/-- VCH (11). -/
def State.vchReg (s : State) (k o : Nat) : Option Nat :=
  if o < 0x100 then
    let col := 64 * k + o / 4
    let lanes := fun (kind : LinkKind) (n : Nat) (f : LaneSt → Bool) =>
      ((List.range n).map (fun i => flag ([true, false].any (fun u => f (s.laneAt { link := kind, idx := col, up := u, lane := i }))) i)).sum
    some (at' (lanes .column 4 (·.suspect)) 24 + at' (lanes .column 4 (·.failed)) 20 + at' (lanes .channel 2 (·.suspect)) 18
      + at' (lanes .channel 2 (·.failed)) 16 + (s.bundle col).sparesUsed)
  else if o = 0x200 then some (s.vch.replays.get k 0)
  else if o = 0x204 then some (s.vch.orphans.get k 0)
  else none

/-- CYL (11). -/
def State.cylReg (s : State) (k o : Nat) : Option Nat :=
  if k = 0 ∧ o = 0 then some (flag s.cyl.enable 31 + flag s.cyl.timeMaster 30 + s.cyl.device)
  else if k = 0 ∧ 0x1000 ≤ o ∧ o < 0x2000 then some (s.cyl.routes.get ((o - 0x1000) / 4) 0)
  else if 0x100 ≤ o ∧ o < 0x1C0 then
    let p := s.port (3 * k + (o - 0x100) / 0x40)
    match (o - 0x100) % 0x40 with
    | 0x00 => some (flag p.encrypt 1 + flag p.upEn 0)
    | 0x04 => some (flag p.up 31 + flag p.authFail 30 + flag p.spareInUse 29 + flag p.halfWidth 28 + p.laneFailed)
    | 0x08 => some p.replays
    | 0x0C => some p.fecUncorr
    | _ => none
  else none

/-- PTR (02). -/
def State.ptrReg (s : State) (k o : Nat) : Option Nat :=
  let p := s.porter k
  let w := fun (base : Nat) => ((List.range 4).map (fun i => at' (p.nextWeights.getD (base + i) 1) (8 * i))).sum
  if o = 0 then some (w 0)
  else if o = 4 then some (w 4)
  else if o = 0x10 then some p.lateDiscard
  else if o = 0x14 then some p.checkFails
  else none

/-- A DMA register set at its offset below 0x20 (12). -/
def DmaSet.word (d : DmaSet) (o : Nat) : Nat :=
  match o with
  | 0x00 => wordOf d.src 0
  | 0x04 => wordOf d.src 1
  | 0x08 => wordOf d.dst 0
  | 0x0C => wordOf d.dst 1
  | 0x10 => wordOf d.count 0
  | 0x14 => wordOf d.count 1
  | 0x18 =>
    flag d.asLodging 31 + at' d.lodging 23 + at' d.qclass 20 + at' d.cls 18 + at' d.priority 16 + at' d.retry 12 + flag d.srcFixed 11
      + flag d.dstFixed 10 + at' d.burstLog 7 + at' d.trigger 1 + flag d.intEn 0
  | _ => at' d.paceSrc 28 + at' d.paceDir 27 + at' d.highKib 12 + d.lowKib

/-- DMA (12). -/
def State.dmaReg (s : State) (k o : Nat) : Option Nat :=
  let r := s.dmaRegs k
  if o < 0x80 then some (if o % 8 = 0 then r.period.get (o / 8) 0 else r.phase.get (o / 8) 0)
  else if 0x100 ≤ o ∧ o < 0x120 then some ((r.swq.get ((o - 0x100) / 4) 0) % 2 ^ 32).toNat
  else if 0x120 ≤ o ∧ o < 0x140 then some 0
  else if o = 0x200 then some r.cmdRetry
  else if o = 0x204 then some r.lateDiscard
  else if 0x1000 ≤ o ∧ o < 0x2000 then
    let c := s.chan (32 * k + (o - 0x1000) / 0x80)
    let q := (o - 0x1000) % 0x80
    if q < 0x20 then some (c.act.word q)
    else if q < 0x40 then some (c.sh.word (q - 0x20))
    else if q = 0x40 then
      some (flag c.running 31 + flag c.halted 30 + flag c.done 29 + flag c.shadowArmed 28 + flag c.triggerPending 27
        + flag c.writeDrop 26 + at' c.missed 16 + c.haltStatus)
    else if q = 0x48 then some (wordOf c.remain 0)
    else if q = 0x4C then some (wordOf c.remain 1)
    else if q = 0x50 then some 0
    else none
  else none

/-! ### Device windows -/

/-- `LOD_STATE.STATE`. -/
def LState.code : LState → Nat
  | .absent => 0
  | .active => 1
  | .resetting => 2
  | .destroying => 3

/-- LOD (13). -/
def State.lodReg (s : State) (o : Nat) : Option Nat :=
  if o < 0x400 then
    let l := s.lod (o / 4)
    some (at' l.state.code 30 + ((List.range 4).map (fun j => flag (l.breaches.any (fun b => b.1 == 4 + j)) (4 + j))).sum)
  else if o = 0x400 then some s.quantumUs
  else none

/-- QOS (14). -/
def State.qosReg (s : State) (o : Nat) : Option Nat :=
  if o < 0x20 then some (at' (s.qos.nextCap.get (o / 4) 1024) 8 + s.qos.nextBase.get (o / 4) (o / 8))
  else if o = 0x20 then some s.qos.nextLegacy
  else if o = 0x24 then some s.qos.ageRaises
  else if 0x1000 ≤ o ∧ o < 0x1400 then some (s.qos.bw.get ((o - 0x1000) / 4) 0)
  else none

/-- `PWR_DOMAIN.STATE`. -/
def DState.code : DState → Nat
  | .off => 0
  | .ramp => 1
  | .on => 2
  | .failed => 3

/-- Package input power over the last 1 ms, in mW: the mean of the samples held (15). -/
def Pwr.inputMw (p : Pwr) : Nat := if p.samples.length = 0 then 0 else p.samples.sum / p.samples.length

/-- PWR (15). -/
def State.pwrReg (s : State) (o : Nat) : Option Nat :=
  let p := s.pwr
  if o = 0 then some p.limit
  else if o = 4 then some (flag p.brakeAsserted 31 + flag p.brakeEvent 30 + p.brakeWatts)
  else if o = 8 then some (at' p.memCap 16 + at' p.source 8 + p.frac)
  else if o = 0x0C then some p.inputMw
  else if o = 0x10 then some p.idleGateUs
  else if o = 0x14 then some p.limitEvents
  else if 0x100 ≤ o ∧ o < 0x1C8 then
    let d := (o - 0x100) / 4
    let x := s.domain d
    some (at' (if d = 49 then 2 else x.state.code) 30 + at' x.fails 28 + flag x.cracked 27 + flag x.localSense 26 + at' x.phasesOk 22
      + s.setMv d)
  else none

/-- THM (16). -/
def State.thmReg (s : State) (o : Nat) : Option Nat :=
  let t := s.thm
  if 0x800 ≤ o ∧ o < 0x850 then
    let d := (o - 0x800) / 4
    some (flag (t.dieSubst.contains d) 31 + flag (t.dieThrottle.contains d) 30 + flag (t.dieAtMax.contains d) 29 + signed16 (t.dieTemp.get d 0))
  else if o = 0x880 then
    some (flag t.therm 31 + flag t.tripped 30 + at' ((List.range 8).map (fun j => flag (t.refresh2x.contains j) j)).sum 8)
  else if o = 0x884 then some t.limit
  else if 0x890 ≤ o ∧ o < 0x8A4 then some (mask32 (fun i => t.broken.contains (8 * (o - 0x890) + i)))
  else if 0x900 ≤ o ∧ o < 0xA00 then some (signed16 (t.est.get ((o - 0x900) / 4) 0))
  else if o = 0xA00 then some (at' t.nextStart 8 + t.nextStop)
  else if o = 0xA04 then some t.nextBusyW
  else none

/-- `REL_CAPACITY` and the other registers of 17. -/
def State.relReg (s : State) (o : Nat) : Option Nat :=
  let cols := List.range 256
  if o = 0x1000 then some (at' s.rel.mode 30 + at' s.rel.cause 24 + at' s.rel.stackLost 4 + s.rel.stackUnreached)
  else if o = 0x1004 then
    some (at' (cols.countP (fun c => (s.core c).served != .noCore)) 23 + at' (cols.countP (fun c => !(s.sliceAt c).retired)) 13
      + cols.countP (fun c => !(s.channel c).retired))
  else if o = 0x1008 then some s.rel.takeovers
  else if 0x1100 ≤ o ∧ o < 0x1500 then
    let g := (o - 0x1100) / 4
    let core := match (s.core g).served with | .original => 0 | .spare => 1 | .noCore => 2
    let slice := if (s.sliceAt g).retired then 2 else ofBool (s.sliceAt g).spareBank
    let chan := if (s.channel g).retired then 2 else ofBool (s.channel g).remapped
    some (at' core 6 + at' slice 4 + at' chan 2)
  else none

/-- The registers that R423 opens at an unlock level (19). -/
def State.dbgReg (s : State) (o : Nat) : Option Nat :=
  let d := s.dbg
  if o = 0x3000 then some 0
  else if 0x3008 ≤ o ∧ o < 0x3010 then some (wordOf (at' d.copyCount 32 + d.copyBase) ((o - 0x3008) / 4))
  else if 0x3800 ≤ o ∧ o < 0x4000 then some (wordOf (d.copyData.getD ((o - 0x3800) / 8) 0) (o % 8 / 4))
  else if 0x8000 ≤ o ∧ o < 0xC000 then some (wordOf (d.pmcValue.get ((o - 0x8000) / 8) 0) (o % 8 / 4))
  else if 0xC000 ≤ o ∧ o < 0xC410 then some (wordOf (d.fixed.get ((o - 0xC000) / 8) 0) (o % 8 / 4))
  else none

/-- A counter's configuration as its register holds it (19). -/
def PmcCfg.word (c : PmcCfg) : Nat :=
  flag c.en 63 + flag c.lodgingEn 62 + flag c.layerEn 61 + flag c.operEn 60 + at' c.lodging 52 + at' c.event 42 + at' c.layer 16 + c.oper

/-- INK, REL and DBG (17, 18, 19). -/
def State.inkReg (s : State) (o : Nat) : Option Nat :=
  let k := s.ink
  let u := s.unlock
  if o = 0 then
    some (flag k.activeStack2 31 + flag k.standbyReady 30 + flag k.supervisorHold 29 + at' k.shedLevel 8)
  else if o = 4 then some k.supervisorEvents
  else if o = 0x10 then
    some (at' k.bootSlot 31 + flag ((k.slots.getD 1 Slot.reset).commit.isSome) 30 + flag ((k.slots.getD 0 Slot.reset).commit.isSome) 29
      + at' k.fusedSvn 16 + k.bootSvn)
  else if 0x1000 ≤ o ∧ o < 0x1500 then s.relReg o
  else if 0x2000 ≤ o ∧ o < 0x2020 then some (field u.nonce (o - 0x2000) 4)
  else if 0x2040 ≤ o ∧ o < 0x20A0 then some 0
  else if o = 0x20C0 then some u.level
  else if o = 0x20C4 then some (at' u.granted 30 + flag u.locked 29 + at' u.fails 16 + u.result)
  else if o = 0x3100 then some s.dbg.pmcPeriod
  else if 0x4000 ≤ o ∧ o < 0x8000 then some (wordOf (s.dbg.pmcCfg.get ((o - 0x4000) / 8) PmcCfg.reset).word (o % 8 / 4))
  else if u.granted = 0 then (s.dbgReg o).map (fun _ => 0)
  else s.dbgReg o

/-- The PF's BAR0 by window (01, R23). -/
def State.pfReg (s : State) (off : Nat) : Option Nat :=
  let o := off % 0x400000
  let k := o / 0x100000
  let q := o % 0x100000
  match off / 0x400000 with
  | 0 => s.pciReg o
  | 2 => s.mxaReg k q
  | 4 => s.stnReg k q
  | 5 => s.vchReg k q
  | 6 => s.hbmReg k q
  | 8 => s.cylReg k q
  | 9 => s.ptrReg k q
  | 10 => s.dmaReg k q
  | 11 => s.lodReg o
  | 12 => s.qosReg o
  | 13 => if o < 0x800 then s.pwrReg o else s.thmReg o
  | 14 => s.inkReg o
  | _ => none

/-- The word that a register map gives a function at an offset. -/
def State.regWord (s : State) (fn : Fn) (off : Nat) : Option Nat :=
  match fn with
  | .pf => s.pfReg off
  | .vf n => s.vfReg n off

/-- Whether the supplement opens a location of the PF's space, one that no register map lists, at the unlock level in force (00, R3).
Unlisted offsets of the PF's function window are reserved, whatever the level (02, R24). LOG 125. -/
def State.suppAt (s : State) (off : Nat) : Bool :=
  s.unlock.granted != 0 && decide (off < 0x10000 ∨ (0x20000 ≤ off ∧ off < 0x4000000)) && Config.suppOpens s.unlock.granted off

/-- What a read of a word returns: zero where no register map lists it, but for what the supplement gives the PF (00, R3; LOG 125). -/
def State.readReg (s : State) (fn : Fn) (off : Nat) : Nat :=
  match s.regWord fn off, fn with
  | some v, _ => v
  | none, .pf => if s.suppAt off then Config.suppRead s.unlock.granted off (s.supp.get off 0) % 2 ^ 32 else 0
  | none, .vf _ => 0

/-- What a host read of `width` bytes returns; one of a signal is of 1, 2, 4 or 8 bytes aligned to its size, and any other reads zero (02,
R455). -/
def State.readAccess (s : State) (fn : Fn) (off width : Nat) : Nat :=
  let signals := match fn with | .pf => false | .vf _ => decide (0x8000 ≤ off ∧ off < 0x10000)
  if signals && !([1, 2, 4, 8].contains width && off % width == 0) then 0
  else leNat ((List.range width).map (fun i => BitVec.ofNat 8 (bits (s.readReg fn (alignDown (off + i) 4)) (8 * ((off + i) % 4)) 8)))

end Sys2Proof.Machine
end

