-- ==== Sys2Proof/Machine/Writes.lean ====
section
/-! DEFINITION. Writes of registers (00, R3, R6, R7; 02, R57, R456; 04, R114; 08, R219; 10, R259, R265; 15, R364; 16, R378; 18, R408;
20, R450) and the PCIe configuration request (01, R20; 20, R441). -/

namespace Sys2Proof.Machine

/-! ### Registers with a row of their own -/

/-- `PTR_CLASS_WEIGHT0` or `1`: in force from the porter's next arbitration round (R57). -/
def execPtrClassWeightWrite (stack reg value : Nat) (s : State) : Host.Outcome State Fault Refusal :=
  if reg ≥ 2 then .next s
  else .next (s.modPorter stack (fun (p : Porter) => { p with nextWeights :=
    ((List.range 8).map (fun i => if i / 4 = reg then bits value (8 * (i % 4)) 8 else p.nextWeights.getD i 1)) }))

/-- `MXA_PROOF_TOL`: 8 to 40, for units that start afterwards (R114). -/
def execMxaProofTolWrite (stack value : Nat) (s : State) : Host.Outcome State Fault Refusal :=
  if 8 ≤ bits value 0 6 ∧ bits value 0 6 ≤ 40 then .next { s with mxaTol := s.mxaTol.set stack (bits value 0 6) } else .next s

/-- `HBM_SCRUB_PERIOD` in hours, or `STN_SCRUB_PERIOD` in minutes: from the next pass (R265). -/
def execScrubPeriodWrite (stack : Nat) (hbm : Bool) (value : Nat) (s : State) : Host.Outcome State Fault Refusal :=
  if hbm then
    if bits value 0 8 ≤ 168 then .next (s.modHbmRegs stack (fun r => { r with scrubHours := bits value 0 8 })) else .next s
  else if bits value 0 16 ≤ 10080 then .next (s.modStnRegs stack (fun r => { r with scrubMinutes := bits value 0 16 })) else .next s

/-- `STN_FLIP_MASK_LO`, `MID` and `HI` (registers 0 to 2); `ARM` waits for the next word written in the slice (R219). -/
def execStnFlipMaskWrite (stack reg value : Nat) (s : State) : Host.Outcome State Fault Refusal :=
  match reg with
  | 0 => .next (s.modStnRegs stack (fun r => { r with flipLo := bits value 0 32 }))
  | 1 => .next (s.modStnRegs stack (fun r => { r with flipMid := bits value 0 32 }))
  | 2 => .next (s.modStnRegs stack (fun r => { r with flipArm := bit value 31, flipSlice := bits value 24 6, flipCheck := bits value 0 8 }))
  | _ => .next s

/-- `HBM_FLIP_MASK_HI`; `ARM` waits for the next sector that the controller writes (R259). -/
def execHbmFlipMaskWrite (stack value : Nat) (s : State) : Host.Outcome State Fault Refusal :=
  .next (s.modHbmRegs stack (fun r =>
    { r with flipArm := bit value 31, flipChannel := bits value 24 6, flipPattern := bits value 16 8, flipHi := bits value 0 4 }))

/-- `PWR_LIMIT` or `PWR_BRAKE`: `WATTS` 400 to 850, in force at the next evaluation of R361; `PWR_BRAKE.EVENT` is RW1C (R364). -/
def execPwrLimitWrite (brake : Bool) (value : Nat) (s : State) : Host.Outcome State Fault Refusal :=
  let w := bits value 0 16
  let ok := decide (400 ≤ w ∧ w ≤ 850)
  if brake then
    .next { s with pwr := { s.pwr with
      brakeWatts := if ok then w else s.pwr.brakeWatts, brakeEvent := s.cleared .brakeEvent s.pwr.brakeEvent (bit value 30) } }
  else .next { s with pwr := { s.pwr with limit := if ok then w else s.pwr.limit } }

/-- `THM_RELIEF` or `THM_PLACE`: in force in the next round (R378). -/
def execThmReliefWrite (place : Bool) (value : Nat) (s : State) : Host.Outcome State Fault Refusal :=
  let start := bits value 8 8
  let stop := bits value 0 8
  if place then .next { s with thm := { s.thm with nextBusyW := bits value 0 8 } }
  else if 70 ≤ start ∧ start ≤ 95 ∧ 60 ≤ stop ∧ stop + 3 ≤ start then
    .next { s with thm := { s.thm with nextStart := start, nextStop := stop } }
  else .next s

/-- `LAMP_CTRL`j: `ON_US` at most 1,000; an on-time applies from the next period (R445, R450). -/
def execLampCtrlWrite (lamp value : Nat) (s : State) : Host.Outcome State Fault Refusal :=
  if bits value 0 10 > 1000 then .next s
  else .next { s with brd := { s.brd with lamps := s.brd.lamps.mod lamp Lamp.reset (fun l =>
    { l with override := bit value 31, diagEn := bit value 30, onUs := bits value 0 10 }) } }

/-- A new nonce from the Quoin security block (R408). -/
def State.drawNonce (s : State) : State :=
  { s with unlock := { s.unlock with nonce := (List.range 32).map (fun i => Config.randomByte s.ink.draws i) },
           ink := { s.ink with draws := s.ink.draws + 1 } }

/-- The message that the PF signs: nonce, stepping, serial number, level (R408). -/
def Unlock.message (u : Unlock) (level : Nat) : List Byte := u.nonce ++ [Config.stepping] ++ leBytes 8 Config.serial ++ leBytes 1 level

/-- What a `GO` makes of the unlock registers (R408). While unlock is refused the spec leaves `RESULT` open between its two refusals. -/
def Unlock.go (u : Unlock) (level : Nat) (free allAbsent : Bool) : Unlock :=
  if level = 0 ∨ level = 3 then { u with result := 0x0202 }
  else if u.locked then { u with result := if free then 0x0605 else 0x0601 }
  else if !Config.debugSignatureOk (u.message level) u.response then
    { u with result := 0x0605, fails := u.fails + 1, locked := decide (u.fails + 1 ≥ 3) }
  else if level = 2 ∧ !allAbsent then { u with result := 0x0601 }
  else { u with result := 0, granted := max u.granted level }

/-- `DBG_UNLOCK_CTRL`: `LEVEL`, and with `GO` the check of the response and a new nonce (R408). -/
def execDbgUnlockGo (value : Nat) (s : State) : Host.Outcome State Fault Refusal :=
  let level := bits value 0 2
  if !bit value 31 then .next { s with unlock := { s.unlock with level := level } }
  else
    let absent := s.lods.all (fun e => e.2.state == .absent)
    let u := s.unlock.go level (bit (Config.freeByte s.freeAt 0).toNat 0) absent
    .next ({ s with unlock := { u with level := level } } : State).drawNonce.takeFree

/-- MSI-X control of a function: the capability, or a row of its table; messages that the masks now allow follow (02, R456). -/
def execMsixControlWrite (fn : Fn) (w : MsixWrite) (s : State) : Host.Outcome State Fault Refusal :=
  let k := fnKey fn
  let m := s.msixFn k
  match w with
  | .capability enable functionMask =>
    .next (({ s with msix := s.msix.set k { m with enable := enable, functionMask := functionMask } } : State).releasePending k)
  | .entry vector addr data masked =>
    if vector ≥ 64 then .next s
    else
      .next (({ s with msix := s.msix.set k { m with vectors := m.vectors.mod vector MsixVec.reset (fun r =>
        { r with addr := addr % 2 ^ 64, data := data % 2 ^ 32, masked := masked }) } } : State).releasePending k)

/-! ### Writes by address (00, R3, R6, R7, R9) -/

/-- The bits of a field that a write replaces: its old value where the mask has no byte. -/
def masked (old v m : Nat) : Nat := (old &&& (2 ^ 32 - 1 - m % 2 ^ 32)) ||| (v &&& m)

/-- The bits of `own` from `set`, the others from `new`: a register with RW1C or WO bits beside RW fields. -/
def withOwn (new set own : Nat) : Nat := (new &&& (2 ^ 32 - 1 - own)) ||| (set &&& own)

/-- A 64-bit register with one of its words replaced (LOG 126). -/
def withWord (old i w : Nat) : Nat := if i = 0 then old / 2 ^ 32 * 2 ^ 32 + w else w * 2 ^ 32 + old % 2 ^ 32

/-- The state that a register's own row leaves. -/
def State.row (s : State) (f : State → Host.Outcome State Fault Refusal) : State :=
  match f s with
  | .next t => t
  | _ => s

/-- `LAMP_STATUS`: two RW1C bits for each lamp (20, R445). -/
def State.writeLampStatus (s : State) (set : Nat) : State :=
  { s with brd := { s.brd with lamps := (List.range 4).foldl (fun (t : Tab Lamp) j => t.mod j Lamp.reset (fun l =>
    { l with short := s.cleared (.lampShort j) l.short (bit set (8 * j + 2)),
             openEvent := s.cleared (.lampOpen j) l.openEvent (bit set (8 * j + 1)) })) s.brd.lamps } }

/-- A word of the MSI-X table of a function (02, R456). -/
def State.writeMsixWord (s : State) (fn : Fn) (o new : Nat) : State :=
  let v := (o - 0x3000) / 16
  let r := (s.msixFn (fnKey fn)).row v
  let put := fun (a d : Nat) (mk : Bool) => s.row (execMsixControlWrite fn (.entry v a d mk))
  match o % 16 / 4 with
  | 0 => put (withWord r.addr 0 new) r.data r.masked
  | 1 => put (withWord r.addr 1 new) r.data r.masked
  | 2 => put r.addr new r.masked
  | _ => put r.addr r.data (bit new 0)

/-- A word of the part that every function's window has: mailbox doorbell and status, MSI-X table (02, R24, R54, R456). -/
def State.writeFn (s : State) (fn : Fn) (o new set : Nat) : State :=
  if o = 0x2160 then s.row (execMbxDoorbell fn false)
  else if o = 0x2168 then s.modMbx fn (fun m => { m with done := s.cleared (.mbxDone (fnKey fn)) m.done (bit set 30) })
  else if 0x3000 ≤ o ∧ o < 0x3400 then s.writeMsixWord fn o new
  else s

/-- A word of a DMA channel's registers (12); `DMA_CH_CMD`'s actions are taken in the order of their bits (LOG 127). -/
def State.writeDmaWord (s : State) (k ch q new set : Nat) : State :=
  let c := s.chan (32 * k + ch)
  let d := if q < 0x20 then c.act else c.sh
  if q < 0x40 then
    (if q % 0x20 < 0x18 then
      let old := d.word (q % 0x20 / 8 * 8) + 2 ^ 32 * d.word (q % 0x20 / 8 * 8 + 4)
      s.row (execDmaRegWrite k ch (q / 8 * 8) (withWord old (q / 4 % 2) new))
    else s.row (execDmaRegWrite k ch q new))
  else if q = 0x40 then s.row (execDmaRegWrite k ch q set)
  else if q = 0x50 then
    let s := if bit set 0 then s.row (execDmaGo k ch) else s
    let s := if bit set 1 then s.row (execDmaStop k ch) else s
    if bit set 2 then s.row (execDmaArmShadow k ch) else s
  else s

/-- The master's time that a write of `CYL_DOMAIN` meets: it comes from outside and is free here (LOG 127). -/
def State.masterTime (s : State) : Nat := leNat ((List.range 6).map (fun i => Config.freeByte s.freeAt i))

/-- One word of the PF's space written: `new` with the bytes outside the write as they were, `set` without them. A register that has a row of
its own takes the effect of that row (00, R6). -/
def State.writePf (s : State) (off new set : Nat) : State :=
  let o := off % 0x400000
  let k := o / 0x100000
  let q := o % 0x100000
  match off / 0x400000 with
  | 0 =>
    if 0x200 ≤ o ∧ o < 0x210 then s.row (execLampCtrlWrite ((o - 0x200) / 4) new)
    else if o = 0x210 then s.writeLampStatus set
    else if 0x10000 ≤ o then s.writeFn .pf (o - 0x10000) new set
    else s
  | 2 => if q = 0 then s.row (execMxaProofTolWrite k new) else s
  | 4 =>
    if 0x40 ≤ q ∧ q < 0x4C then s.row (execStnFlipMaskWrite k ((q - 0x40) / 4) new)
    else if q = 0x50 then s.row (execScrubPeriodWrite k false new)
    else s
  | 6 =>
    if q = 0x10 then s.row (execScrubPeriodWrite k true new)
    else if q = 0x40 then s.modHbmRegs k (fun r => { r with flipLo := new })
    else if q = 0x44 then s.row (execHbmFlipMaskWrite k new)
    else s
  | 8 =>
    if k = 0 ∧ q = 0 then (s.row (execCylDomainWrite new s.masterTime)).takeFree
    else if k = 0 ∧ 0x1000 ≤ q ∧ q < 0x2000 then s.row (execCylRouteWrite ((q - 0x1000) / 4) new)
    else if 0x100 ≤ q ∧ q < 0x1C0 then
      let port := 3 * k + (q - 0x100) / 0x40
      match (q - 0x100) % 0x40 with
      | 0 => s.row (execCylPortCtrlWrite port new)
      | 4 => s.modPort port (fun p => { p with authFail := s.cleared (.authFail port) p.authFail (bit set 30) })
      | _ => s
    else s
  | 9 => if q < 8 then s.row (execPtrClassWeightWrite k (q / 4) new) else s
  | 10 =>
    let f := fun (g : DmaRegs → DmaRegs) => ({ s with dma := { s.dma with regs := s.dma.regs.mod k DmaRegs.reset g } } : State)
    if q < 0x80 then f (fun r => if q % 8 = 0 then { r with period := r.period.set (q / 8) new } else { r with phase := r.phase.set (q / 8) new })
    else if 0x120 ≤ q ∧ q < 0x140 then s.row (execDmaSwqAdj k ((q - 0x120) / 4) set)
    else if q = 0x200 then f (fun r => { r with cmdRetry := bits new 0 4 })
    else if 0x1000 ≤ q ∧ q < 0x2000 then s.writeDmaWord k ((q - 0x1000) / 0x80) ((q - 0x1000) % 0x80) new set
    else s
  | 11 => if o = 0x400 then s.row (execLodSliceWrite new) else s
  | 12 => if o ≤ 0x20 then s.row (execQosClassCfgWrite (o / 4) new) else s
  | 13 =>
    if o = 0 then s.row (execPwrLimitWrite false new)
    else if o = 4 then s.row (execPwrLimitWrite true (withOwn new set (2 ^ 30)))
    else if o = 0x10 then { s with pwr := { s.pwr with idleGateUs := bits new 0 16 } }
    else if o = 0xA00 then s.row (execThmReliefWrite false new)
    else if o = 0xA04 then s.row (execThmReliefWrite true new)
    else s
  | 14 =>
    if 0x2040 ≤ o ∧ o < 0x20A0 then
      { s with unlock := { s.unlock with response := patch s.unlock.response (o - 0x2040) (leBytes 4 new) } }
    else if o = 0x20C0 then s.row (execDbgUnlockGo (withOwn new set (2 ^ 31)))
    else if o = 0x3000 then s.row (execDbgLedgerSel new)
    else if o = 0x3100 then { s with dbg := { s.dbg with pmcPeriod := new } }
    else if 0x4000 ≤ o ∧ o < 0x8000 then
      let i := (o - 0x4000) / 8
      s.row (execInkPmcCfgWrite i (withWord (s.dbg.pmcCfg.get i PmcCfg.reset).word (o / 4 % 2) new))
    else s
  | _ => s

/-- One word of a VF window written, doorbells, `GDT_BASE`, mailbox bytes and signals apart. The rows of `GALLEY_CTRL` take the host to
answer their descriptor read with data. -/
def State.writeVf (s : State) (n off new set : Nat) : State :=
  if off = 0x2000 then
    let g := bits set 0 10
    match bits set 16 2 with
    | 1 => s.row (execGalleyEnable n g .data false)
    | 2 => s.row (execGalleyDisable n g false)
    | 3 => s.row (execGalleyResume n g false)
    | _ => s
  else if off = 0x201C then
    s.modLod n (fun x => { x with gfault := { x.gfault with valid := s.cleared (.galleyFault n) x.gfault.valid (bit set 31) } })
  else s.writeFn (.vf n) off new set

/-- One word written: `v` under the byte mask `m`. A location in no register map ignores it, but for what the supplement gives the PF (00,
R3; LOG 125). -/
def State.writeWordAt (s : State) (fn : Fn) (off v m : Nat) : State :=
  if m = 0 then s
  else
    let stored := match fn with
      | .pf => if 0x3802040 ≤ off ∧ off < 0x38020A0 then field s.unlock.response (off - 0x3802040) 4 else s.readReg .pf off
      | .vf _ => s.readReg fn off
    let new := masked stored v m
    match fn, s.regWord fn off with
    | .pf, some _ => s.writePf off new (v &&& m)
    | .pf, none =>
      if s.suppAt off then { s with supp := s.supp.set off (Config.suppWrite s.unlock.granted off (s.supp.get off 0) v m % 2 ^ 32) } else s
    | .vf n, _ => s.writeVf n off new (v &&& m)

/-- The words that a write of `width` bytes touches, each written. -/
def State.writeWords (s : State) (fn : Fn) (off width value : Nat) : State :=
  let base := alignDown off 4
  let v := value * 2 ^ (8 * (off % 4))
  let m := (2 ^ (8 * width) - 1) * 2 ^ (8 * (off % 4))
  (List.range 3).foldl (fun s i => s.writeWordAt fn (base + 4 * i) (wordOf v i) (wordOf m i)) s

/-- `REGISTER_WRITE` of `width` bytes: RO and reserved bits ignore it, a RW field takes the bytes written, and a location that has a row of
its own takes that row's effect (00, R3, R6, R7; 01, R19; 02, R24, R25, R29, R54, R455; 10, R262). -/
def execRegisterWrite (fn : Fn) (off width value : Nat) (ep : Bool) (s : State) : Host.Outcome State Fault Refusal :=
  if ep then .next (s.advisory (fnKey fn))
  else
    let o := match fn with | .pf => off - 0x10000 | .vf _ => off
    if 0x2100 ≤ o ∧ o < 0x2140 then execMbxCmdWrite fn o (leBytes width value) false s
    else
      match fn with
      | .pf => .next (s.writeWords .pf off width value)
      | .vf n =>
        if off < 0x2000 then execGalleyDoorbell n off width value false s
        else if 0x2008 ≤ off ∧ off < 0x2010 then
          execGdtBaseWrite n (leNat (patch (leBytes 8 (s.lod n).gdtBase) (off - 0x2008) (leBytes width value)) % 2 ^ 64) false s
        else if 0x8000 ≤ off ∧ off < 0x10000 then execSignalAreaWrite n off width value false s
        else .next (s.writeWords fn off width value)

/-! ### Configuration requests (01, R20; 02, R456; 20, R441) -/

/-- The dword of the configuration space at which the MSI-X capability starts (LOG 120). -/
def msixCapDword : Nat := 16 + Config.msixCap % 46

/-- What R20 and R456 give of a dword of configuration space: the value, and the bits that they give. The address bits of BAR0, the other
capabilities and their pointers are not among them (LOG 120). No capability of a function is MSI, and no interrupt pin is used. -/
def State.configWord (s : State) (fn : Fn) (reg : Nat) : Nat × Nat :=
  let device := match fn with | .pf => 0x0940 | .vf _ => 0x0941
  let all := 2 ^ 32 - 1
  let window := match fn with | .pf => 0x10000 | .vf _ => 0
  let x := s.msixFn (fnKey fn)
  if reg = 0 then (at' device 16 + 0x1D7A, all)
  else if reg = 2 then (at' 0x120000 8 + Config.stepping.toNat, all)
  else if reg = 4 then (4, (match fn with | .pf => 2 ^ 26 | .vf _ => 2 ^ 16) - 1)
  else if reg = 11 then (at' (Config.subsystemIds.2 % 2 ^ 16) 16 + Config.subsystemIds.1 % 2 ^ 16, all)
  else if reg = 15 then (0, 0xFF00)
  else if reg = msixCapDword then (flag x.enable 31 + flag x.functionMask 30 + at' 63 16 + 0x11, 0xFFFF00FF)
  else if reg = msixCapDword + 1 then (window + 0x3000, all)
  else if reg = msixCapDword + 2 then (window + 0x3800, all)
  else (0, 0)

/-- `CONFIG_REQUEST` for a dword: Retry Status until configuration readiness, then its value, free where the spec gives none. -/
def execConfigRequest (fn : Fn) (reg : Nat) (s : State) : Host.Outcome State Fault Refusal :=
  if !s.brd.ready then .next (s.emit (.configRetry (fnKey fn)))
  else
    let w := s.configWord fn reg
    let v := withOwn (leNat ((List.range 4).map (fun i => Config.freeByte s.freeAt i))) w.1 w.2
    let s := s.emit (.configData (fnKey fn) reg v)
    .next (if w.2 = 2 ^ 32 - 1 then s else s.takeFree)

end Sys2Proof.Machine
end

