-- ==== Sys2Proof/Machine/Innkeeper.lean ====
section
/-! DEFINITION. The Innkeeper, the order of its duties, and the safety supervisor (17, R384; 18, R393 to R396, R400, R405, R406, R460; 11,
R280). -/

namespace Sys2Proof.Machine

/-! ### Failover (17, R384; 18, R460) -/

/-- Ledger argument of a takeover of the Innkeeper pair (19, R414). -/
def innkeeperKind : Nat := 6

/-- The function of a mailbox number. -/
def fnOfKey (k : Nat) : Fn := if k = 256 then .pf else .vf k

/-- An operation in progress ended with 0x0501, detail 0; what is not decided of it passes to the standby pair. -/
def State.failOp (s : State) (key : Nat) (o : AdminOp) : State :=
  let s := s.endOp (fnOfKey key) { o with start := if o.begun then o.start else s.now, endT := s.now, status := 0x0501, detail := 0 }
  if o.decided || !adminOpcodeRange o.opcode then s
  else { s with ink := { s.ink with carried := s.ink.carried ++ [(key, o)] } }

/-- The mailbox operations in progress. -/
def State.mailOps (s : State) : List (Nat × AdminOp) :=
  s.mail.filterMap (fun (e : Nat × Mailbox) => match e.2.op with | some o => some (e.1, o) | none => none)

/-- `INNKEEPER_FAILOVER`: the standby pair starts from the last checkpoint and every mailbox operation in progress ends; with no pair left
the supervisor trips the device (R384, R460). -/
def execInnkeeperFailover (s : State) : Host.Outcome State Fault Refusal :=
  if !s.ink.firmwareRuns ∨ s.ink.pairsLeft = 0 then .next s
  else if s.ink.pairsLeft = 1 then
    .next { s with ink := { s.ink with pairsLeft := 0, standbyReady := false }, thm := { s.thm with tripDue := true } }
  else
    let s : State := s.mailOps.foldl (fun (s : State) (e : Nat × AdminOp) => s.failOp e.1 e.2) s
    let s : State := { s with ink := { s.ink with pairsLeft := 1, standbyReady := false, failoverAt := some s.now } }
    .next (s.log unitInnkeeper 0x0D innkeeperKind 0 0)

/-- The first due time of a round after now, on the grid of the rounds. -/
def State.nextRoundDue (s : State) : Nat :=
  if s.passed (some s.ink.roundDue) then (s.ink.roundDue + (s.since s.ink.roundDue / 1000000 + 1) * 1000000) % 2 ^ 48 else s.ink.roundDue

/-- Whether a management request waits: for a failover to end, or for a higher duty (R393, R406). -/
def State.requestsWait (s : State) : Bool := s.ink.failoverAt.isSome || s.higherDuty

/-- A reply over MCTP (R393, R406). -/
def State.reply (s : State) (transport : Nat) (r : List Nat) : State :=
  if s.requestsWait then { s with ink := { s.ink with replies := s.ink.replies ++ [(transport, r)] } }
  else s.emit (.mctp transport r)

/-- An image that came over PLDM: checked, programmed and read back under R403 to R405, and answered. -/
def State.pldmImage (s : State) (transport : Nat) (img : List Byte) (readBackOk : Bool) : State :=
  let r := match s.holder .flash with
    | some f => (s, (0x0600, f))
    | none => let p := s.programImage img img.length readBackOk; (p.1, p.2.1)
  r.1.reply transport (Config.mctpReply 8 [r.2.1, r.2.2])

/-- Requests that waited answered in their order, then the images that waited, where nothing holds them any more (R393, R406). -/
def State.serveRequests (s : State) : State :=
  if s.requestsWait then s
  else
    let waiting := s.ink.replies
    let images := s.ink.pldmWaiting
    let s : State := { s with ink := { s.ink with replies := [], pldmWaiting := [] } }
    let s : State := waiting.foldl (fun (s : State) (r : Nat × List Nat) => s.emit (.mctp r.1 r.2)) s
    images.foldl (fun (s : State) (x : Nat × List Byte × Bool) => s.pldmImage x.1 x.2.1 x.2.2) s

/-- `FAILOVER_COMPLETE`: the standby pair is active; rounds that fell due meanwhile are missed, a `FW_UPDATE` or `TELEMETRY_READ` that it
carried is abandoned, and requests that waited are answered (R384, R395, R406, R460; 17, R380). -/
def execFailoverComplete (s : State) : Host.Outcome State Fault Refusal :=
  if s.ink.failoverAt.isNone then .next s
  else
    let s : State := { s with ink := { s.ink with
      failoverAt := none, activeStack2 := true, roundDue := s.nextRoundDue, onTime := 0,
      carried := s.ink.carried.filter (fun (e : Nat × AdminOp) => e.2.opcode != 0x0F04 && e.2.opcode != 0x0F08) } }
    let s := s.log unitInnkeeper 0x0E innkeeperKind 0 0
    let s : State := { s with rel := { s.rel with takeovers := wrap32 (s.rel.takeovers + 1) } }
    .next (s.raise 256 1).serveRequests

/-- `INNKEEPER_CHECKPOINT`: every 1 ms the active pair's state goes into `PD49` storage, and a pair that waits is ready (R384). -/
def execInnkeeperCheckpoint (s : State) : Host.Outcome State Fault Refusal :=
  if !s.ink.firmwareRuns ∨ s.ink.failoverAt.isSome ∨ s.since s.ink.checkpointAt < 1000000 then .next s
  else .next { s with ink := { s.ink with checkpointAt := s.now, standbyReady := decide (s.ink.pairsLeft = 2) } }

/-! ### The supervisor's hold and the shedding level (R394, R396) -/

/-- Lateness of policy in ns: since the due time of the oldest round not completed (R396). -/
def State.policyLateness (s : State) : Nat := if s.passed (some s.ink.roundDue) then s.since s.ink.roundDue else 0

/-- `SUPERVISOR_HOLD`: the lateness exceeds 5 ms (R396). -/
def execSupervisorHold (s : State) : Host.Outcome State Fault Refusal :=
  if !s.ink.firmwareRuns ∨ s.ink.supervisorHold ∨ s.policyLateness ≤ 5000000 then .next s
  else .next { s with ink := { s.ink with supervisorHold := true, supervisorEvents := wrap32 (s.ink.supervisorEvents + 1), onTime := 0 } }

/-- `SUPERVISOR_RELEASE`: at the tenth consecutive round on time (R396). -/
def execSupervisorRelease (s : State) : Host.Outcome State Fault Refusal :=
  if s.ink.supervisorHold ∧ s.ink.onTime ≥ 10 then .next { s with ink := { s.ink with supervisorHold := false } } else .next s

/-- `SHED_WINDOW`: the share of a 100 ms window that duties 1 to 4 took, in thousandths (R394). -/
def execShedWindow (busyPermille : Nat) (s : State) : Host.Outcome State Fault Refusal :=
  let n := s.ink.shedLevel
  .next { s with ink := { s.ink with shedLevel := if busyPermille > 900 then min (n + 1) 7 else if busyPermille < 600 then n - 1 else n } }

/-- The telemetry interval in ns (R394). -/
def telemetryInterval (level : Nat) : Nat := if level ≤ 6 then 10000000 * 2 ^ level else 1000000000

/-! ### Telemetry (R400, R406) -/

/-- Offsets of the 32-bit registers of the snapshot in their windows: THM, PWR, REL. -/
def snapshotOffsets : List (Nat × Nat) :=
  let run := fun (w base n : Nat) => (List.range n).map (fun i => (w, base + 4 * i))
  run 0 0x800 20 ++ run 0 0x880 2 ++ run 0 0x890 5 ++ run 0 0x900 64 ++ run 0 0xA00 2 ++ run 1 0 6 ++ run 1 0x100 50 ++ run 2 0x1000 3
    ++ run 2 0x1100 256

/-- The device snapshot: time base, THM, PWR and REL registers, then the fixed counters (R400; LOG 45). -/
def State.snapshotBytes (s : State) : List Byte :=
  let word := fun (x : Nat × Nat) => (match x.1 with | 0 => s.thmReg x.2 | 1 => s.pwrReg x.2 | _ => s.relReg x.2).getD 0
  let fixed := ((List.range 4).map (fun k => (List.range 14).map (fun i => fixedOf k (8 * i)))).flatten ++ [0x400 / 8, 0x408 / 8]
  slice (leBytes 8 s.now ++ (snapshotOffsets.map (fun x => leBytes 4 (word x))).flatten
    ++ (fixed.map (fun k => leBytes 8 (s.dbg.fixed.get k 0))).flatten) 0 4096

/-- Whether a duty above telemetry has work that is due: a round, a takeover, an admin operation that is not waiting for commands to end, or
a management request (R393). -/
def State.telemetryWaits (s : State) : Bool :=
  s.higherDuty || s.adminOps.any (fun e => !e.2.waiting) || !s.ink.replies.isEmpty || !s.ink.pldmWaiting.isEmpty

/-- `TELEMETRY_SNAPSHOT`: at each telemetry interval, once no higher duty is due, the snapshot and the PLDM sensor values are refreshed
(R393, R394, R400, R406). -/
def execTelemetrySnapshot (s : State) : Host.Outcome State Fault Refusal :=
  if !s.ink.firmwareRuns ∨ s.ink.failoverAt.isSome ∨ s.telemetryWaits ∨ s.since s.ink.snapshotAt < telemetryInterval s.ink.shedLevel then .next s
  else .next { s with ink := { s.ink with
    snapshot := s.snapshotBytes, snapshotAt := s.now, pldmTemps := s.thm.locTemp, pldmPower := s.pwr.inputMw } }

/-! ### Fuses and the repair log (R405; 11, R280; 16, R377) -/

/-- `ANTI_ROLLBACK_FUSE`: the fuses are blown up to the booted `SVN` once the last completed round permits (R405). -/
def execAntiRollbackFuse (s : State) : Host.Outcome State Fault Refusal :=
  if s.brd.ready ∧ s.ink.bootSvn > s.ink.fusedSvn ∧ s.thm.rounds ≠ 0 ∧ s.dieOutside.isNone then
    .next { s with ink := { s.ink with fusedSvn := s.ink.bootSvn } }
  else .next s

/-- `REPAIR_LOG_WRITE`: the oldest deferred entry is written to flash (11, R280). -/
def execRepairLogWrite (s : State) : Host.Outcome State Fault Refusal :=
  match s.ink.repairWaiting with
  | [] => .next s
  | e :: r =>
    if s.dieOutside.isSome ∨ s.thm.rounds = 0 then .next s
    else .next { s with ink := { s.ink with repairLog := s.ink.repairLog ++ [e], repairWaiting := r } }

/-! ### Management transports (R406) -/

/-- Whether a transport (0 PCIe, 1 I3C) reaches the device. -/
def State.transportUp (s : State) (transport : Nat) : Bool := transport == 1 || s.brd.linkUp

/-- A PLDM sensor's value of the last telemetry interval: locations 0 to 135 in the order of R365, 136 package input power, and from 137 the
domain currents, which the model does not measure (LOG 46). -/
def State.sensorNum (s : State) (k : Nat) : Nat :=
  if k < 136 then signed16 (s.ink.pldmTemps.get k 0) else if k = 136 then s.ink.pldmPower else leNat ((List.range 2).map (fun i => Config.freeByte s.freeAt (2 * k + i)))

/-- `PLDM_PLATFORM_REQUEST`: sensor values, as of the last telemetry interval (R406). -/
def execPldmPlatformRequest (transport : Nat) (sensors : List Nat) (s : State) : Host.Outcome State Fault Refusal :=
  if !s.ink.firmwareRuns ∨ !s.transportUp transport then .next s
  else .next (s.serveRequests.reply transport (sensors.map (fun k => s.sensorNum k))).takeFree

/-- Whether the boot ROM found no valid image and answers only firmware updates over I3C (R405). -/
def State.romWaits (s : State) : Bool := decide (s.brd.startStep = 1) && !s.brd.starting && !s.ink.firmwareRuns

/-- `PLDM_FIRMWARE_UPDATE`: flash updated under R403 to R405; during a failover or while a higher duty is due it waits; the ROM restarts
after it (R393, R405, R406). -/
def execPldmFirmwareUpdate (transport : Nat) (image : List Byte) (readBackOk : Bool) (s : State) : Host.Outcome State Fault Refusal :=
  if !s.transportUp transport then .next s
  else if s.romWaits then
    let t := s.pldmImage transport image readBackOk
    .next { t with brd := { t.brd with startStep := 0, starting := true } }
  else if !s.ink.firmwareRuns then .next s
  else if s.requestsWait then .next { s with ink := { s.ink with pldmWaiting := s.ink.pldmWaiting ++ [(transport, image, readBackOk)] } }
  else .next (s.serveRequests.pldmImage transport image readBackOk)

/-- What the SPDM measurements cover: the active image's digest and `SVN`, the fuse count and the unlock level (R406). -/
def State.measured (s : State) : List Nat :=
  (slice ((s.ink.slots.getD s.ink.bootSlot Slot.reset).image) 16 48).map (·.toNat) ++ [s.ink.bootSvn, s.ink.fusedSvn, s.unlock.granted]

/-- `SPDM_REQUEST`: certificates (kind 0), a challenge (1) or signed measurements (2) (R406). -/
def execSpdmRequest (transport kind : Nat) (nonce : List Nat) (s : State) : Host.Outcome State Fault Refusal :=
  if !s.ink.firmwareRuns ∨ !s.transportUp transport then .next s
  else .next (s.serveRequests.reply transport (Config.mctpReply kind (nonce ++ (if kind = 2 then s.measured else []))))

end Sys2Proof.Machine
end

