-- ==== Sys2Proof/Machine/Board.lean ====
section
/-! DEFINITION. Board, rails, clocks, resets, start-up, the PCIe link and the service lamps (20; 16, R373; 17, R379). -/

namespace Sys2Proof.Machine

/-! ### Cold start and start-up (R438, R440 to R442) -/

/-- The reliability state changed. -/
def State.modRel (s : State) (f : Rel → Rel) : State := { s with rel := f s.rel }

/-- One entry of the repair log applied (17, R379). -/
def State.applyRepair (s : State) (e : Nat × Nat) : State :=
  let col := e.2 % 256
  let rest := e.2 / 256
  match e.1 with
  | 0 => (s.modCore col (fun c => { c with served := .spare })).modRel (fun r =>
      { r with spareSpent := insertNew r.spareSpent (clusterOf col), coresOff := insertNew r.coresOff (coreOf col) })
  | 1 => s.modSlice col (fun x => { x with rowMap := x.rowMap ++ [(rest / 4096, rest % 4096)], spareRows := x.spareRows + 1 })
  | 2 => s.modSlice col (fun x =>
      { x with spareBank := true, bankMap := some rest, rowMap := x.rowMap.filter (fun r => r.1 != rest) })
  | 3 => { s with vch := { s.vch with bundles := s.vch.bundles.mod col Bundle.reset (fun b => { b with sparesUsed := b.sparesUsed + rest }) } }
  | 4 => s.modChannel col (fun c => { c with remapped := true })
  | 5 => s.modDomain e.2 (fun d => { d with phasesOk := d.phasesOk - 1 })
  | 8 => s.modRel (fun r => { r with spareSpent := insertNew r.spareSpent e.2 })
  | 9 => s.modSlice col (fun x => { x with spareBank := true })
  | _ => s

/-- The state when a cold start begins: what the flash, the fuses, the host and the board's pins hold stays (R438). -/
def State.coldStarted (s : State) : State :=
  { State.reset with
    pending := s.pending,
    mem := { cells := s.mem.cells.filter (fun c => placeOf c.1 == .host), poison := [] },
    ink := { State.reset.ink with
      slots := s.ink.slots, repairLog := s.ink.repairLog, fusedSvn := s.ink.fusedSvn,
      nextKey := s.ink.nextKey, draws := s.ink.draws },
    brd := { State.reset.brd with perst := s.brd.perst, refclk := s.brd.refclk, refclkPerst := s.brd.refclkPerst, linkRefclk := s.brd.linkRefclk },
    out := s.out, freeAt := s.freeAt }

/-- `COLD_START`: `AUX_3V3` rises, or `SYS_RST_N` is released: start-up runs from its first step (R438). -/
def execColdStart (s : State) : Host.Outcome State Fault Refusal := .next s.coldStarted

/-- `SYS_RST_ASSERT`: `SYS_RST_N` falls or `AUX_3V3` fails (R438). -/
def execSysRstAssert (s : State) : Host.Outcome State Fault Refusal :=
  let s := s.allOff
  .next { s with
    brd := { s.brd with pkgEn := false, hbmEn := false, sysRstLow := true, starting := false }, ink := { s.ink with firmwareRuns := false } }

/-- The slot that boots: the higher commit count first, then the other (18, R405). -/
def State.bootChoice (s : State) (valid0 valid1 : Bool) : Option Nat :=
  let c := fun (i : Nat) => match (s.ink.slots.getD i Slot.reset).commit with | some n => n + 1 | none => 0
  let v := fun (i : Nat) => if i = 0 then valid0 else valid1
  let first := if c 1 > c 0 then 1 else 0
  if v first then some first else if v (1 - first) then some (1 - first) else none

/-- Step 2: firmware starts and `PKG_EN` rises; with no valid image start-up ends at step 1 (R440; 18, R405). -/
def State.bootFirmware (s : State) (valid0 valid1 : Bool) : State :=
  match s.bootChoice valid0 valid1 with
  | none => { s with brd := { s.brd with starting := false } }
  | some i =>
    { s with
      brd := { s.brd with startStep := 2, pkgEn := true },
      ink := { s.ink with
        firmwareRuns := true, bootSlot := i, bootSvn := field ((s.ink.slots.getD i Slot.reset).image) 4 4 % 2 ^ 7,
        roundDue := (s.now + 1000000) % 2 ^ 48, checkpointAt := s.now, snapshotAt := s.now } }

/-- Whether the soft start of every domain is over, and the HBM4 domains are ON (R440). -/
def State.softStarted (s : State) : Bool :=
  s.pwr.wakeQueue.isEmpty && s.ramps == 0 && (List.range 49).all (fun d => (s.domain d).retryAt.isNone)
    && [44, 45, 46, 47].all (fun d => (s.domain d).state == .on)

/-- The next step of start-up, where what it waits for is in place (R440). -/
def State.nextStep (s : State) (valid0 valid1 : Bool) : State :=
  let go := fun (s : State) (n : Nat) => ({ s with brd := { s.brd with startStep := n } } : State)
  match s.brd.startStep with
  | 0 => go s 1
  | 1 => s.bootFirmware valid0 valid1
  | 2 => go ({ s with pwr := { s.pwr with wakeQueue := (List.range 49).foldl insertNew s.pwr.wakeQueue } } : State) 3
  | 3 => if s.softStarted then go ({ s with brd := { s.brd with hbmEn := true } } : State) 4 else s
  | 4 => go s 5
  | 5 => go (s.ink.repairLog.foldl (fun (s : State) (e : Nat × Nat) => s.applyRepair e) s) 6
  | 6 => go ({ s with hbm := { s.hbm with valid := [] } } : State) 7
  | 7 => go ({ s with brd := { s.brd with starting := false } } : State) 8
  | _ => s

/-- `STARTUP_STEP`: a step completes. `slotValid0` and `slotValid1` are the boot ROM's findings under R403 (R440). -/
def execStartupStep (slotValid0 slotValid1 : Bool) (s : State) : Host.Outcome State Fault Refusal :=
  if !s.brd.starting ∨ s.brd.sysRstLow ∨ s.brd.dead then .next s else .next (s.nextStep slotValid0 slotValid1)

/-- `START_FAIL`: a rail (1 `VIN_PKG`, 2 `VDD_HBM`, 3 `VDDQ_HBM`) is not in range in its time (R434). -/
def execStartFail (rail : Nat) (s : State) : Host.Outcome State Fault Refusal :=
  if s.brd.starting ∧ ((rail = 1 ∧ s.brd.startStep = 2) ∨ ((rail = 2 ∨ rail = 3) ∧ s.brd.startStep = 4)) then
    let s := s.allOff
    .next { s with brd := { s.brd with starting := false, pkgEn := false, hbmEn := false, startFail := true, faultRail := rail } }
  else .next s

/-- `RAIL_FAULT`: a rail that has been in range leaves it for 10 µs (R435). -/
def execRailFault (rail : Nat) (s : State) : Host.Outcome State Fault Refusal :=
  if !s.brd.dead ∧ ((rail = 1 ∧ s.brd.startStep ≥ 3) ∨ ((rail = 2 ∨ rail = 3) ∧ s.brd.startStep ≥ 5)) then
    let s := s.allOff
    .next { s with brd := { s.brd with starting := false, pkgEn := false, hbmEn := false, railFault := true, faultRail := rail } }
  else .next s

/-! ### The fundamental reset (R437, R439) -/

/-- Every Cytil port goes down (R437; 11, R287). -/
def State.allPortsDown (s : State) : State :=
  (List.range 12).foldl (fun s p => if (s.port p).up then s.portDown p else s) s

/-- `PERST_N` after readiness in mission mode: admin operations end, lodgings are destroyed, and the registers of the function windows and
of PCI, CYL, QOS and LOD are at their reset values; `BRD_STATUS` is one that only a cold start resets (R439). -/
def State.missionReset (s : State) : State :=
  let s : State := { s with mail := [], msix := [], ink := { s.ink with carried := [] } }
  let ls := (s.lods.filter (fun (e : Nat × Lodging) => e.2.state != .absent)).map (·.1)
  let s : State := ls.foldl (fun (s : State) l => (s.modLod l (fun x => { x with flrPending := false })).beginReset l .destroying |>.1) s
  let s : State := ls.foldl (fun (s : State) l => s.carryFlr l) s
  let s := s.allPortsDown
  { s with
    cyl := State.reset.cyl, quantumUs := State.reset.quantumUs,
    qos := { s.qos with cap := [], base := [], nextCap := [], nextBase := [], legacy := 0, nextLegacy := 0, ageRaises := 0, bw := [] },
    brd := { s.brd with lamps := [] } }

/-- What an assertion of `PERST_N` does (R439). -/
def State.fundamentalReset (s : State) : State :=
  if s.thm.tripped || s.brd.railFault then s
  else
    let was := s.brd.ready
    let s := s.linkDown
    let s : State := { s with brd := { s.brd with ready := false } }
    if s.rel.mode = 2 then { s with msix := [] }
    else if was then s.missionReset
    else s

/-- `PERST_ASSERT` (R439). -/
def execPerstAssert (s : State) : Host.Outcome State Fault Refusal :=
  if s.brd.perst then .next s
  else
    let s := s.fundamentalReset
    .next { s with brd := { s.brd with perst := true } }

/-- `PERST_RELEASE`: link training may start (R441). -/
def execPerstRelease (s : State) : Host.Outcome State Fault Refusal := .next { s with brd := { s.brd with perst := false } }

/-- `REFCLK_LOSS`: as an assertion of `PERST_N` (R437). -/
def execRefclkLoss (s : State) : Host.Outcome State Fault Refusal :=
  if !s.brd.refclk then .next s
  else
    let s := if s.brd.perst then s else s.fundamentalReset
    .next { s with brd := { s.brd with refclk := false, refclkPerst := true } }

/-- `REFCLK_RETURN`: stable for 100 µs, as a release of `PERST_N` (R437). -/
def execRefclkReturn (s : State) : Host.Outcome State Fault Refusal :=
  .next { s with brd := { s.brd with refclk := true, refclkPerst := false } }

/-- `LINK_REFCLK_LOSS`: every Cytil port goes down (R437). -/
def execLinkRefclkLoss (s : State) : Host.Outcome State Fault Refusal :=
  let s := s.allPortsDown
  .next { s with brd := { s.brd with linkRefclk := false } }

/-- `LINK_REFCLK_RETURN`: ports with `UP_EN` set begin to retrain; each comes up by `CYTIL_PORT_UP` (R437). -/
def execLinkRefclkReturn (s : State) : Host.Outcome State Fault Refusal := .next { s with brd := { s.brd with linkRefclk := true } }

/-- `XTAL_LOSS`: the always-on logic goes on on its internal oscillator (R437). -/
def execXtalLoss (s : State) : Host.Outcome State Fault Refusal := .next { s with brd := { s.brd with xtalLost := true } }

/-! ### The PCIe link (R441, R443) -/

/-- `PCIE_LINK_UP` at a rate in GT/s and a width in lanes: with `PD48` ON and `PERST_N` released (R441, R443). -/
def execPcieLinkUp (rate width : Nat) (s : State) : Host.Outcome State Fault Refusal :=
  if (s.domain 48).state = .on ∧ !s.brd.perst ∧ !s.brd.refclkPerst ∧ !s.brd.dead ∧ [64, 32, 16].contains rate ∧ [16, 8, 4].contains width then
    .next { s with brd := { s.brd with linkUp := true, linkRate := rate, linkWidth := width } }
  else .next s

/-- The first readiness after a cold start: the limiter's settings, the thermal limit, and every ledger's H and `BASE` (R440; 15; 16, R371;
19, R413). -/
def State.firstReady (s : State) : State :=
  let h := bits s.now 24 24
  { s with
    pwr := { s.pwr with frac := 64, memCap := 8 }, thm := { s.thm with limit := 850 },
    dbg := { s.dbg with ledgers := (List.range 928).map (fun u => (u, { s.ledger u with h := h, base := h })) } }

/-- `CONFIG_READY`: start-up step 8 and the link are both there (R441; 02, R456). -/
def execConfigReady (s : State) : Host.Outcome State Fault Refusal :=
  if s.brd.startStep = 8 ∧ s.brd.linkUp ∧ !s.brd.ready ∧ !s.brd.dead then
    let s := if s.pwr.frac = 0 then s.firstReady else s
    .next { s with msix := [], brd := { s.brd with ready := true } }
  else .next s

/-! ### Service lamps (R445, R446) -/

/-- The on-time that the device gives a lamp (R445). -/
def State.lampDrive (s : State) (j : Nat) : Nat :=
  let on := fun (b : Bool) => if b then 1000 else 0
  match j with
  | 0 =>
    if s.thm.tripped || s.brd.startFail || s.brd.railFault then on ((s.now + Config.blinkPhase) / 250000000 % 2 == 0)
    else on (decide (s.rel.mode ≥ 1) || s.thm.therm)
  | 2 => on (match s.brd.lastDone with | some t => decide (s.since t ≤ 100000000) | none => false)
  | 3 => on (s.rel.mode == 2)
  | _ => 0

/-- The on-time of the period that starts now (R445, R446). -/
def State.lampOnTime (s : State) (j : Nat) : Nat :=
  let l := s.lamp j
  let n := if l.override then l.onUs else s.lampDrive j
  if n < 20 ∧ l.diagEn ∧ s.now % 256000000 = 0 then 20 else n

/-- `LAMP_PERIOD`: a period with the sink current of its diagnosis: failing below 2 mA; a passing one clears `OPEN` (R445, R446). -/
def execLampPeriod (lamp microamps : Nat) (s : State) : Host.Outcome State Fault Refusal :=
  let n := s.lampOnTime lamp
  .next { s with brd := { s.brd with lamps := s.brd.lamps.mod lamp Lamp.reset (fun l =>
    if n < 20 then { l with current := n }
    else if microamps < 2000 then { l with current := n, failing := l.failing + 1 }
    else { l with current := n, failing := 0, isOpen := false }) } }

/-- `LAMP_OPEN`: after two consecutive failing diagnoses (R446). -/
def execLampOpen (lamp : Nat) (s : State) : Host.Outcome State Fault Refusal :=
  if (s.lamp lamp).failing ≥ 2 ∧ !(s.lamp lamp).isOpen then
    .next (({ s with brd := { s.brd with lamps := s.brd.lamps.mod lamp Lamp.reset (fun l => { l with isOpen := true, openEvent := true }) } } :
      State).setNow (.lampOpen lamp))
  else .next s

/-- `LAMP_SHORT`: more than 200 mA for 5 µs turns the output off for the rest of the period (R446). -/
def execLampShort (lamp milliamps : Nat) (s : State) : Host.Outcome State Fault Refusal :=
  if milliamps > 200 ∧ (s.lamp lamp).current ≠ 0 then
    .next (({ s with brd := { s.brd with lamps := s.brd.lamps.mod lamp Lamp.reset (fun l => { l with current := 0, short := true }) } } :
      State).setNow (.lampShort lamp))
  else .next s

end Sys2Proof.Machine
end

