-- ==== Sys2Proof/Machine/Host.lean ====
section
/-! DEFINITION. PCIe completions of device reads of host memory and of AtomicOps (07, R188; 10, R262, R462). -/

namespace Sys2Proof.Machine

/-- The load that a transaction on host memory is. -/
def Txn.hostLoad (t : Txn) : Option Nat :=
  match t.kind with
  | .load _ _ _ _ size => if placeOf t.addr = .host then some size else none
  | _ => none

/-- `HOST_READ_COMPLETION`: data, poison, or a permission failure for a load of core code; host memory holds what the host answered, and the
function that the read served logs an error (R262, R462). -/
def execHostReadCompletion (txn : Nat) (ans : HostAns) (bytes : List Byte) (s : State) : Host.Outcome State Fault Refusal :=
  match s.txn? txn with
  | none => .next s
  | some t =>
    match t.hostLoad with
    | none => .next s
    | some size =>
      let s := s.logHost t.lod ans
      match ans with
      | .unsupported => .next (s.haltAccess t 0x0301 0xFFFE)
      | .data =>
        let s := s.addBytes (0x408 / 8) size
        let s := { s with mem := s.mem.put t.addr (slice bytes 0 size) }
        .next (s.loadArrives t (slice bytes 0 size) false)
      | .ep => .next ((s.addBytes (0x408 / 8) size).loadArrives t (slice bytes 0 size) true)
      | _ => .next (s.loadArrives t (s.mem.read t.addr size) true)

/-- `COMPLETION_TIMEOUT`: every sector that the request covers is delivered poisoned (R462). -/
def execCompletionTimeout (txn : Nat) (s : State) : Host.Outcome State Fault Refusal :=
  match s.txn? txn with
  | none => .next s
  | some t =>
    match t.hostLoad with
    | none => .next s
    | some size => .next ((s.logHost t.lod .timeout).loadArrives t (s.mem.read t.addr size) true)

/-- The AtomicOp that a transaction on host memory is: one of core code, of a fabric request, or of another device. -/
def Txn.hostAtomic (t : Txn) : Option AtomTxn :=
  match t.kind with
  | .hostAtomic _ _ _ a => some a
  | .homeAtomic _ _ _ a => some a
  | .flit f =>
    if placeOf t.addr = .host then (atomReq? f.payload (alignDown f.addr 128)).map (fun a => a.txn f.poison) else none
  | _ => none

/-- Host memory after an AtomicOp that the host performed with an old value; one whose operand is poisoned leaves it (LOG 143). -/
def State.hostPerformed (s : State) (pa old : Nat) (a : AtomTxn) : State :=
  if a.bad then s else { s with mem := s.mem.put pa (leBytes a.size (atomApply a.op a.size old a.src a.cmp)) }

/-- An AtomicOp refused: the group of core code halts, another requester is answered 0x0301 (R188). -/
def State.hostRefused (s : State) (t : Txn) : State := s.faultNoted t 0x0301 0

/-- `HOST_ATOMIC_COMPLETION`: the old value, or a halt of the group on Unsupported Request or Completer Abort (R188). A completion with EP or
none at all returns a poisoned value (LOG 44). -/
def execHostAtomicCompletion (txn : Nat) (ans : HostAns) (old : Nat) (s : State) : Host.Outcome State Fault Refusal :=
  match s.txn? txn with
  | none => .next s
  | some t =>
    match t.hostAtomic with
    | none => .next s
    | some a =>
      let s := s.logHost t.lod ans
      let v := old % 2 ^ (8 * a.size)
      match ans with
      | .unsupported => .next (s.hostRefused t)
      | .abort => .next (s.hostRefused t)
      | .data => .next ((s.hostPerformed t.addr v a).atomicArrives t v false)
      | .ep => .next ((s.hostPerformed t.addr v a).atomicArrives t v true)
      | .timeout => .next (s.atomicArrives t v true)

end Sys2Proof.Machine
end

