-- ==== Sys2Proof/Machine/Dispatch.lean ====
section
/-! DEFINITION. The meaning of each command: one arm for each constructor of Instr. -/

namespace Sys2Proof.Machine

/-- The effect of a command on everything but the queue. -/
def exec (i : Instr) (s : State) : Host.Outcome State Fault Refusal :=
  match i with
  | .nop lod g => Sys2Proof.Machine.execNop lod g s
  | .gemm lod g => Sys2Proof.Machine.execGemm lod g s
  | .gemmGrouped lod g ans => Sys2Proof.Machine.execGemmGrouped lod g ans s
  | .gemmMultiword lod g => Sys2Proof.Machine.execGemmMultiword lod g s
  | .gemmComplex lod g => Sys2Proof.Machine.execGemmComplex lod g s
  | .elementwiseArray lod g => Sys2Proof.Machine.execElementwiseArray lod g s
  | .attentionFwd lod g ans => Sys2Proof.Machine.execAttentionFwd lod g ans s
  | .attentionBwd lod g ans => Sys2Proof.Machine.execAttentionBwd lod g ans s
  | .attentionDecode lod g ans => Sys2Proof.Machine.execAttentionDecode lod g ans s
  | .kvAppend lod g ans => Sys2Proof.Machine.execKvAppend lod g ans s
  | .kernelLaunch lod g ans => Sys2Proof.Machine.execKernelLaunch lod g ans s
  | .copy lod g => Sys2Proof.Machine.execCopy lod g s
  | .fill lod g => Sys2Proof.Machine.execFill lod g s
  | .copyRemote lod g => Sys2Proof.Machine.execCopyRemote lod g s
  | .reducePush lod g ans => Sys2Proof.Machine.execReducePush lod g ans s
  | .epochFlush lod g => Sys2Proof.Machine.execEpochFlush lod g s
  | .epochInvalidate lod g => Sys2Proof.Machine.execEpochInvalidate lod g s
  | .signalWrite lod g => Sys2Proof.Machine.execSignalWrite lod g s
  | .signalWait lod g => Sys2Proof.Machine.execSignalWait lod g s
  | .map lod g ans => Sys2Proof.Machine.execMap lod g ans s
  | .unmap lod g => Sys2Proof.Machine.execUnmap lod g s
  | .digestRead lod g => Sys2Proof.Machine.execDigestRead lod g s
  | .traceMark lod g => Sys2Proof.Machine.execTraceMark lod g s
  | .badOpcode lod g => Sys2Proof.Machine.execBadOpcode lod g s
  | .adminInGalley lod g => Sys2Proof.Machine.execAdminInGalley lod g s
  | .poisonedPacket lod g k ans => Sys2Proof.Machine.execPoisonedPacket lod g k ans s
  | .commandCompletion cmd => Sys2Proof.Machine.execCommandCompletion cmd s
  | .galleyDoorbell vf off width value ep => Sys2Proof.Machine.execGalleyDoorbell vf off width value ep s
  | .galleyEnable vf g ans ep => Sys2Proof.Machine.execGalleyEnable vf g ans ep s
  | .galleyDisable vf g ep => Sys2Proof.Machine.execGalleyDisable vf g ep s
  | .galleyResume vf g ep => Sys2Proof.Machine.execGalleyResume vf g ep s
  | .drainComplete vf g => Sys2Proof.Machine.execDrainComplete vf g s
  | .gdtBaseWrite vf value ep => Sys2Proof.Machine.execGdtBaseWrite vf value ep s
  | .signalAreaWrite vf off width value ep => Sys2Proof.Machine.execSignalAreaWrite vf off width value ep s
  | .signalWaitTimeout cmd => Sys2Proof.Machine.execSignalWaitTimeout cmd s
  | .mbxCmdWrite fn off bytes ep => Sys2Proof.Machine.execMbxCmdWrite fn off bytes ep s
  | .mbxOperationEnd fn => Sys2Proof.Machine.execMbxOperationEnd fn s
  | .lodgingCreate fn ans => Sys2Proof.Machine.execLodgingCreate fn ans s
  | .lodgingDestroy fn => Sys2Proof.Machine.execLodgingDestroy fn s
  | .lodgingReset fn => Sys2Proof.Machine.execLodgingReset fn s
  | .fwUpdate fn ans readBackOk => Sys2Proof.Machine.execFwUpdate fn ans readBackOk s
  | .bistRun fn failedCores => Sys2Proof.Machine.execBistRun fn failedCores s
  | .secureErase fn => Sys2Proof.Machine.execSecureErase fn s
  | .contractSet fn ans => Sys2Proof.Machine.execContractSet fn ans s
  | .telemetryRead fn ans => Sys2Proof.Machine.execTelemetryRead fn ans s
  | .rescueEnter fn => Sys2Proof.Machine.execRescueEnter fn s
  | .functionLevelReset vf => Sys2Proof.Machine.execFunctionLevelReset vf s
  | .blockPlacement cmd col => Sys2Proof.Machine.execBlockPlacement cmd col s
  | .instructionFetch blk grp va path ans => Sys2Proof.Machine.execInstructionFetch blk grp va path ans s
  | .arithmeticInstruction blk grp op spin => Sys2Proof.Machine.execArithmeticInstruction blk grp op spin s
  | .coreLoad blk grp dst acc => Sys2Proof.Machine.execCoreLoad blk grp dst acc s
  | .coreStore blk grp src acc => Sys2Proof.Machine.execCoreStore blk grp src acc s
  | .coreAtomic blk grp dst src cmp op order scope acc => Sys2Proof.Machine.execCoreAtomic blk grp dst src cmp op order scope acc s
  | .fence blk grp form scope next spin => Sys2Proof.Machine.execFence blk grp form scope next spin s
  | .barrier blk grp creg next spin => Sys2Proof.Machine.execBarrier blk grp creg next spin s
  | .feederIssue blk grp dreg next spin => Sys2Proof.Machine.execFeederIssue blk grp dreg next spin s
  | .feederWait blk grp counter value next spin => Sys2Proof.Machine.execFeederWait blk grp counter value next spin s
  | .feederTransferComplete blk idx pieces ans => Sys2Proof.Machine.execFeederTransferComplete blk idx pieces ans s
  | .threadExit blk grp => Sys2Proof.Machine.execThreadExit blk grp s
  | .launchTimeout cmd => Sys2Proof.Machine.execLaunchTimeout cmd s
  | .unitDispatch cmd entry mb nb seg col => Sys2Proof.Machine.execUnitDispatch cmd entry mb nb seg col s
  | .arrayPass col array errs ans => Sys2Proof.Machine.execArrayPass col array errs ans s
  | .passRecompute col array errs ans => Sys2Proof.Machine.execPassRecompute col array errs ans s
  | .unitEpilogue cmd entry mb nb ans => Sys2Proof.Machine.execUnitEpilogue cmd entry mb nb ans s
  | .segmentCombine cmd entry mb nb => Sys2Proof.Machine.execSegmentCombine cmd entry mb nb s
  | .attentionKeyBlock col errs ans => Sys2Proof.Machine.execAttentionKeyBlock col errs ans s
  | .splitMerge cmd seq row head ans => Sys2Proof.Machine.execSplitMerge cmd seq row head ans s
  | .read f => Sys2Proof.Machine.execRead f s
  | .write f => Sys2Proof.Machine.execWrite f s
  | .writePartial f => Sys2Proof.Machine.execWritePartial f s
  | .atomic f => Sys2Proof.Machine.execAtomic f s
  | .addToLine f => Sys2Proof.Machine.execAddToLine f s
  | .writeHome f => Sys2Proof.Machine.execWriteHome f s
  | .signal f => Sys2Proof.Machine.execSignal f s
  | .data f => Sys2Proof.Machine.execData f s
  | .ack f => Sys2Proof.Machine.execAck f s
  | .result f => Sys2Proof.Machine.execResult f s
  | .fault f => Sys2Proof.Machine.execFault f s
  | .credit f => Sys2Proof.Machine.execCredit f s
  | .flitUnusedOp f => Sys2Proof.Machine.execFlitUnusedOp f s
  | .creditReturnTimer input net cls => Sys2Proof.Machine.execCreditReturnTimer input net cls s
  | .lineBurst lane addr half tag cycle => Sys2Proof.Machine.execLineBurst lane addr half tag cycle s
  | .laneAck lane tag => Sys2Proof.Machine.execLaneAck lane tag s
  | .laneNak lane tag cycle => Sys2Proof.Machine.execLaneNak lane tag cycle s
  | .pairingWindowExpiry lane cycle => Sys2Proof.Machine.execPairingWindowExpiry lane cycle s
  | .laneReplayTimer lane cycle => Sys2Proof.Machine.execLaneReplayTimer lane cycle s
  | .laneSuspect lane => Sys2Proof.Machine.execLaneSuspect lane s
  | .columnQuiesce col => Sys2Proof.Machine.execColumnQuiesce col s
  | .quiesceHoldExpiry col viasNeeded => Sys2Proof.Machine.execQuiesceHoldExpiry col viasNeeded s
  | .writebackAck line => Sys2Proof.Machine.execWritebackAck line s
  | .hbmReadComplete line sector errs => Sys2Proof.Machine.execHbmReadComplete line sector errs s
  | .laneMark channel => Sys2Proof.Machine.execLaneMark channel s
  | .hbmScrubSector sector errs => Sys2Proof.Machine.execHbmScrubSector sector errs s
  | .stnScrubWord col word flips bitmap => Sys2Proof.Machine.execStnScrubWord col word flips bitmap s
  | .reliefRequest col => Sys2Proof.Machine.execReliefRequest col s
  | .reliefEndRequest col => Sys2Proof.Machine.execReliefEndRequest col s
  | .reliefDrainEnd col => Sys2Proof.Machine.execReliefDrainEnd col s
  | .d2dLinkFail link => Sys2Proof.Machine.execD2dLinkFail link s
  | .cytilTransfer port hdr body fecOk gcmOk => Sys2Proof.Machine.execCytilTransfer port hdr body fecOk gcmOk s
  | .cytilNak port seq => Sys2Proof.Machine.execCytilNak port seq s
  | .cytilIdle port ackSeq credits => Sys2Proof.Machine.execCytilIdle port ackSeq credits s
  | .cytilReplayTimer port => Sys2Proof.Machine.execCytilReplayTimer port s
  | .cytilLaneFail port lane peerHasSpare => Sys2Proof.Machine.execCytilLaneFail port lane peerHasSpare s
  | .cytilPortUp port peerEncrypt => Sys2Proof.Machine.execCytilPortUp port peerEncrypt s
  | .timeSync port masterTime delay => Sys2Proof.Machine.execTimeSync port masterTime delay s
  | .timeSyncPeriod => Sys2Proof.Machine.execTimeSyncPeriod s
  | .timeBaseAligned masterTime => Sys2Proof.Machine.execTimeBaseAligned masterTime s
  | .cylDomainWrite value masterTime => Sys2Proof.Machine.execCylDomainWrite value masterTime s
  | .cylRouteWrite dev value => Sys2Proof.Machine.execCylRouteWrite dev value s
  | .cylPortCtrlWrite port value => Sys2Proof.Machine.execCylPortCtrlWrite port value s
  | .dmaGo stack ch => Sys2Proof.Machine.execDmaGo stack ch s
  | .dmaStop stack ch => Sys2Proof.Machine.execDmaStop stack ch s
  | .dmaArmShadow stack ch => Sys2Proof.Machine.execDmaArmShadow stack ch s
  | .dmaRegWrite stack ch off value => Sys2Proof.Machine.execDmaRegWrite stack ch off value s
  | .dmaSwqAdj stack q value => Sys2Proof.Machine.execDmaSwqAdj stack q value s
  | .dmaTimerFire stack t => Sys2Proof.Machine.execDmaTimerFire stack t s
  | .dmaBurstStart stack ch ans => Sys2Proof.Machine.execDmaBurstStart stack ch ans s
  | .dmaEndOfCount stack ch => Sys2Proof.Machine.execDmaEndOfCount stack ch s
  | .dmaBurstTimeout stack ch => Sys2Proof.Machine.execDmaBurstTimeout stack ch s
  | .dmaRetryStart stack ch => Sys2Proof.Machine.execDmaRetryStart stack ch s
  | .ptrClassWeightWrite stack reg value => Sys2Proof.Machine.execPtrClassWeightWrite stack reg value s
  | .mxaProofTolWrite stack value => Sys2Proof.Machine.execMxaProofTolWrite stack value s
  | .scrubPeriodWrite stack hbm value => Sys2Proof.Machine.execScrubPeriodWrite stack hbm value s
  | .stnFlipMaskWrite stack reg value => Sys2Proof.Machine.execStnFlipMaskWrite stack reg value s
  | .hbmFlipMaskWrite stack value => Sys2Proof.Machine.execHbmFlipMaskWrite stack value s
  | .qosClassCfgWrite reg value => Sys2Proof.Machine.execQosClassCfgWrite reg value s
  | .lodSliceWrite value => Sys2Proof.Machine.execLodSliceWrite value s
  | .pwrLimitWrite brake value => Sys2Proof.Machine.execPwrLimitWrite brake value s
  | .thmReliefWrite place value => Sys2Proof.Machine.execThmReliefWrite place value s
  | .lampCtrlWrite lamp value => Sys2Proof.Machine.execLampCtrlWrite lamp value s
  | .dbgLedgerSel value => Sys2Proof.Machine.execDbgLedgerSel value s
  | .inkPmcCfgWrite k value => Sys2Proof.Machine.execInkPmcCfgWrite k value s
  | .dbgUnlockGo value => Sys2Proof.Machine.execDbgUnlockGo value s
  | .msixControlWrite fn w => Sys2Proof.Machine.execMsixControlWrite fn w s
  | .registerWrite fn off width value ep => Sys2Proof.Machine.execRegisterWrite fn off width value ep s
  | .turnEnd cluster => Sys2Proof.Machine.execTurnEnd cluster s
  | .qosWindowBoundary => Sys2Proof.Machine.execQosWindowBoundary s
  | .requestAgeRaise req => Sys2Proof.Machine.execRequestAgeRaise req s
  | .floorBreach lod res cls => Sys2Proof.Machine.execFloorBreach lod res cls s
  | .powerLimiterUpdate milliwatts vinMilliamps riseAmps stackMilliamps => Sys2Proof.Machine.execPowerLimiterUpdate milliwatts vinMilliamps riseAmps stackMilliamps s
  | .brakeAssert => Sys2Proof.Machine.execBrakeAssert s
  | .brakeRelease => Sys2Proof.Machine.execBrakeRelease s
  | .idleGateExpiry dom => Sys2Proof.Machine.execIdleGateExpiry dom s
  | .domainWake dom => Sys2Proof.Machine.execDomainWake dom s
  | .rampComplete dom => Sys2Proof.Machine.execRampComplete dom s
  | .regulatorOvercurrent dom => Sys2Proof.Machine.execRegulatorOvercurrent dom s
  | .hiccupRetry dom => Sys2Proof.Machine.execHiccupRetry dom s
  | .phaseFail dom => Sys2Proof.Machine.execPhaseFail dom s
  | .sensePathOpen dom diffMillivolts => Sys2Proof.Machine.execSensePathOpen dom diffMillivolts s
  | .crackedConnection dom steps => Sys2Proof.Machine.execCrackedConnection dom steps s
  | .housekeepingRound r => Sys2Proof.Machine.execHousekeepingRound r s
  | .thermNRelease => Sys2Proof.Machine.execThermNRelease s
  | .sensorBroken region => Sys2Proof.Machine.execSensorBroken region s
  | .supervisorTrip => Sys2Proof.Machine.execSupervisorTrip s
  | .coreTakeover col => Sys2Proof.Machine.execCoreTakeover col s
  | .rowTakeover col bank row => Sys2Proof.Machine.execRowTakeover col bank row s
  | .bankTakeover col bank => Sys2Proof.Machine.execBankTakeover col bank s
  | .hbmLaneRemap channel spareLeft => Sys2Proof.Machine.execHbmLaneRemap channel spareLeft s
  | .innkeeperFailover => Sys2Proof.Machine.execInnkeeperFailover s
  | .failoverComplete => Sys2Proof.Machine.execFailoverComplete s
  | .innkeeperCheckpoint => Sys2Proof.Machine.execInnkeeperCheckpoint s
  | .rescueEntry => Sys2Proof.Machine.execRescueEntry s
  | .supervisorHold => Sys2Proof.Machine.execSupervisorHold s
  | .supervisorRelease => Sys2Proof.Machine.execSupervisorRelease s
  | .shedWindow busyPermille => Sys2Proof.Machine.execShedWindow busyPermille s
  | .telemetrySnapshot => Sys2Proof.Machine.execTelemetrySnapshot s
  | .antiRollbackFuse => Sys2Proof.Machine.execAntiRollbackFuse s
  | .repairLogWrite => Sys2Proof.Machine.execRepairLogWrite s
  | .pldmPlatformRequest transport sensors => Sys2Proof.Machine.execPldmPlatformRequest transport sensors s
  | .pldmFirmwareUpdate transport image readBackOk => Sys2Proof.Machine.execPldmFirmwareUpdate transport image readBackOk s
  | .spdmRequest transport kind nonce => Sys2Proof.Machine.execSpdmRequest transport kind nonce s
  | .traceHeaderUpdate lod stack => Sys2Proof.Machine.execTraceHeaderUpdate lod stack s
  | .traceDropRecord lod stack room => Sys2Proof.Machine.execTraceDropRecord lod stack room s
  | .pmcSample k => Sys2Proof.Machine.execPmcSample k s
  | .hostReadCompletion txn ans bytes => Sys2Proof.Machine.execHostReadCompletion txn ans bytes s
  | .completionTimeout txn => Sys2Proof.Machine.execCompletionTimeout txn s
  | .configRequest fn reg => Sys2Proof.Machine.execConfigRequest fn reg s
  | .coldStart => Sys2Proof.Machine.execColdStart s
  | .sysRstAssert => Sys2Proof.Machine.execSysRstAssert s
  | .startupStep slotValid0 slotValid1 => Sys2Proof.Machine.execStartupStep slotValid0 slotValid1 s
  | .startFail rail => Sys2Proof.Machine.execStartFail rail s
  | .railFault rail => Sys2Proof.Machine.execRailFault rail s
  | .perstAssert => Sys2Proof.Machine.execPerstAssert s
  | .perstRelease => Sys2Proof.Machine.execPerstRelease s
  | .pcieLinkUp rate width => Sys2Proof.Machine.execPcieLinkUp rate width s
  | .configReady => Sys2Proof.Machine.execConfigReady s
  | .linkRefclkLoss => Sys2Proof.Machine.execLinkRefclkLoss s
  | .refclkLoss => Sys2Proof.Machine.execRefclkLoss s
  | .xtalLoss => Sys2Proof.Machine.execXtalLoss s
  | .lampPeriod lamp microamps => Sys2Proof.Machine.execLampPeriod lamp microamps s
  | .lampOpen lamp => Sys2Proof.Machine.execLampOpen lamp s
  | .lampShort lamp milliamps => Sys2Proof.Machine.execLampShort lamp milliamps s
  | .mbxDoorbell fn ep => Sys2Proof.Machine.execMbxDoorbell fn ep s
  | .ringSlotReadFault lod g k unsupported => Sys2Proof.Machine.execRingSlotReadFault lod g k unsupported s
  | .d2dLinkReplay link flit => Sys2Proof.Machine.execD2dLinkReplay link flit s
  | .latencyBreachClose lod => Sys2Proof.Machine.execLatencyBreachClose lod s
  | .hostAtomicCompletion txn ans old => Sys2Proof.Machine.execHostAtomicCompletion txn ans old s
  | .takeoverCompleted stack ok => Sys2Proof.Machine.execTakeoverCompleted stack ok s
  | .refclkReturn => Sys2Proof.Machine.execRefclkReturn s
  | .linkRefclkReturn => Sys2Proof.Machine.execLinkRefclkReturn s

end Sys2Proof.Machine
end

