-- ==== Sys2Proof/Safety.lean ====
section
/-! DEFINITION. What counts as a safe state: the canonical memory, the ranges that the spec gives the settings of the part, and
the latch of a trip; what a command must in addition leave alone: the waiting commands and the fuses; and the words in which the
statements speak of a command that a porter fetches. -/

namespace Sys2Proof.Machine

/-- The ranges the spec states. -/
structure State.Sound (s : State) : Prop where
  /-- The memory is in its canonical form. -/
  memory : s.mem.wf = true
  /-- The device time base counts modulo 2^48 (02, R43). -/
  clock : s.now < 2 ^ 48
  /-- `LOD_SLICE.QUANTUM_US` is 100 to 65,535 (13, R335). -/
  quantum : 100 ≤ s.quantumUs ∧ s.quantumUs ≤ 65535
  /-- `PWR_LIMIT.WATTS` is 400 to 850 (15, R364). -/
  limit : 400 ≤ s.pwr.limit ∧ s.pwr.limit ≤ 850
  /-- `PWR_BRAKE.WATTS` is 400 to 850 (15, R364). -/
  brake : 400 ≤ s.pwr.brakeWatts ∧ s.pwr.brakeWatts ≤ 850
  /-- `FRAC` is 8 to 64 and `MEM_CAP` 2 to 8; both are 0 before configuration readiness (15, R352, R361). -/
  rates : (s.pwr.frac = 0 ∧ s.pwr.memCap = 0) ∨ (8 ≤ s.pwr.frac ∧ s.pwr.frac ≤ 64 ∧ 2 ≤ s.pwr.memCap ∧ s.pwr.memCap ≤ 8)
  /-- The relief thresholds in force: `START` 70 to 95, `STOP` at least 60 and at least 3 below `START` (16, R378). -/
  relief : 70 ≤ s.thm.start ∧ s.thm.start ≤ 95 ∧ 60 ≤ s.thm.stop ∧ s.thm.stop + 3 ≤ s.thm.start
  /-- The relief thresholds written for the next round (16, R378). -/
  nextRelief : 70 ≤ s.thm.nextStart ∧ s.thm.nextStart ≤ 95 ∧ 60 ≤ s.thm.nextStop ∧ s.thm.nextStop + 3 ≤ s.thm.nextStart
  /-- `INK_STATUS.SHED_LEVEL` is 0 to 7 (18, R394). -/
  shed : s.ink.shedLevel ≤ 7
  /-- A tripped device asserts `THERM_N` (16, R373). -/
  trip : s.thm.tripped = true → s.thm.therm = true

/-- A sound state in which the commands `q` wait and fuses are blown at least up to `n`. -/
structure State.Keeps (q : List Instr) (n : Nat) (s : State) : Prop where
  /-- The waiting commands. -/
  pending : s.pending = q
  /-- `INK_FW.FUSED_SVN`: fuses are never unblown (18, R405). -/
  fuses : n ≤ s.ink.fusedSvn
  sound : s.Sound

/-! ### What the statements about galley commands speak of (02) -/

/-- The next command of a galley where its porter fetches it: the galley is granted, its chain is whole, the nine checks of R37 pass
and R40 lets it start. The command with what its checks read, and the state with it in flight (02, R31, R34, R35, R37, R40, R42). -/
def State.fetchNext (s : State) (lod g : Nat) (ans : HostAns) : Option (Cmd × State) :=
  match s.grantFetch lod g with
  | none => none
  | some p =>
    match s.chain lod g with
    | (t, .packets b used bad) =>
      let c := t.newCmd lod g b used
      match t.packetBad c bad with
      | some _ => none
      | none =>
        if t.mayStart c then
          match t.dispatchCheck c ans with
          | .ok w rd ps =>
            let c := { c with read := rd, readPoison := ps }
            some (c, (((w.usePorter c.stack p).addCmd c).advance c used).headBack lod g used)
          | _ => none
        else none
    | _ => none

/-- A command as it runs: `START` is now (02, R43). -/
def State.started (f : State) (c : Cmd) : Cmd := { (c.rated (f.rateBits c.lod)) with phase := .running, start := f.now }

/-- The state in which a command runs, its start record written (19, R416), before its operator does anything. -/
def State.begun (f : State) (c : Cmd) : State := (f.modCmd c.id (fun _ => f.started c)).traceStart (f.started c)

end Sys2Proof.Machine
end

