-- ==== Sys2Proof/Certificates/Slice0/Obligations.lean ====
section
/-! DEFINITION. The statements about the Giholt 940: what its commands do, what every step keeps, and what the rules of the spec say of
them. Each is a proposition for the provers. -/

open Sys2Proof Sys2Proof.Machine

/-- One step of `s` with `c` at the front of its queue is `exec c` on `s` with the rest of the queue (95). -/
def Obligations.StepRunsFrontCommand : Prop :=
  ∀ (c : Instr) (s : State), step { s with pending := c :: s.pending } = exec c s

/-- With no command and no management request waiting, a step counts one nanosecond of the device time base modulo 2^48, unless the time
base is held or falls back to the master's by one, and no RW1C bit is fresh any more (the model's choice, LOG 1 and LOG 4). -/
def Obligations.EmptyQueueCountsOneNanosecond : Prop :=
  ∀ s : State, s.pending = [] → s.ink.replies = [] → s.ink.pldmWaiting = [] →
    step s = .next { s with now := if s.holding ∨ s.slow ≠ 0 then s.now else (s.now + 1) % 2 ^ 48, slow := s.slow - 1, fresh := [] }

/-- State.reset satisfies the invariant State.Sound: canonical memory, the time base below 2^48, and the settings of turns,
power, relief and shedding inside the ranges that the spec gives them. -/
def Obligations.ResetIsSound : Prop :=
  State.reset.Sound

/-- For every state s that is sound, if step s answers a next state t, then t is sound: the memory stays in its canonical form,
the time base stays below 2^48, LOD_SLICE.QUANTUM_US stays 100 to 65,535, PWR_LIMIT.WATTS and PWR_BRAKE.WATTS stay 400 to 850,
FRAC stays 8 to 64 with MEM_CAP 2 to 8 (or both 0 before configuration readiness), the relief thresholds in force and written
stay in the ranges of R378, the shedding level stays at most 7, and a tripped device keeps THERM_N asserted. -/
def Obligations.EveryStepKeepsSound : Prop :=
  ∀ s t : State, s.Sound → step s = .next t → t.Sound

/-- Whatever command is executed, if it answers a next state, the queue of waiting commands is the one it was given. -/
def Obligations.EveryCommandLeavesTheQueue : Prop :=
  ∀ (c : Instr) (s t : State), exec c s = .next t → t.pending = s.pending

/-- Whatever command is executed, a cold start included, if it answers a next state, INK_FW.FUSED_SVN is not lower in it. -/
def Obligations.FusesAreNeverUnblown : Prop :=
  ∀ (c : Instr) (s t : State), exec c s = .next t → s.ink.fusedSvn ≤ t.ink.fusedSvn

/-- A command stops with a fault only where it is one of the six request flits READ, WRITE, WRITE_PARTIAL, ATOMIC, ADD_TO_LINE
or WRITE_HOME and an address that it carries lies in a hole of the local physical address map or in the register range: the flit's own, or
that of the open access of core code which it carries. No command is refused. Every other command answers a next state. -/
def Obligations.OnlyFlitsToHolesStop : Prop :=
  ∀ (c : Instr) (s : State),
    (∀ r, exec c s = .fault r →
      ∃ f g : Flit, (c = .read f ∨ c = .write f ∨ c = .writePartial f ∨ c = .atomic f ∨ c = .addToLine f ∨ c = .writeHome f) ∧
        (g = f ∨ g = s.carried f) ∧ (placeOf g.addr = .hole ∨ placeOf g.addr = .registers)) ∧
    (∀ r, exec c s ≠ .refused r)

/-- In State.reset the time base is 0, every lodging is ABSENT with an idle mailbox, every domain but PD49 is OFF,
PWR_LIMIT.WATTS is 850, PWR_BRAKE.WATTS 425, PWR_IDLE_GATE 50, THM_RELIEF 88 and 82, THM_PLACE 8, the thermal limit 850 W,
QUANTUM_US 2,000, HBM_SCRUB_PERIOD 24, STN_SCRUB_PERIOD 60, every class weight 1, DMA RETRY 3 with BURST_LOG 6 and DMA_CMD_RETRY
3, DIAG_EN of every lamp 1, no unlock, mission mode, and every MSI-X vector masked; no byte of memory and no interrupt stands.
-/
def Obligations.ResetValues : Prop :=
  let s := State.reset
  s.pending = [] ∧ s.now = 0 ∧ s.mem = { cells := [], poison := [] } ∧ s.out = [] ∧
  (∀ l, (s.lod l).state = .absent ∧ (s.lod l).contract = none ∧ (s.lod l).galleys = []) ∧
  (∀ fn, (s.mbx fn).busy = false ∧ (s.mbx fn).done = false ∧ (s.mbx fn).rejects = 0) ∧
  (∀ d, (s.domain d).state = (if d = 49 then .on else .off) ∧ (s.domain d).fails = 0) ∧
  s.pwr.limit = 850 ∧ s.pwr.brakeWatts = 425 ∧ s.pwr.idleGateUs = 50 ∧ s.pwr.frac = 0 ∧ s.pwr.memCap = 0 ∧
  s.thm.start = 88 ∧ s.thm.stop = 82 ∧ s.thm.busyW = 8 ∧ s.thm.limit = 850 ∧ s.thm.tripped = false ∧ s.quantumUs = 2000 ∧
  (∀ k, (s.hbmRegs k).scrubHours = 24 ∧ (s.stnRegs k).scrubMinutes = 60) ∧
  (∀ k, (s.porter k).weights = List.replicate 8 1) ∧
  (∀ g, (s.chan g).act.retry = 3 ∧ (s.chan g).act.burstLog = 6 ∧ (s.chan g).running = false ∧ (s.chan g).halted = false) ∧
  (∀ k, (s.dmaRegs k).cmdRetry = 3) ∧
  (∀ j, (s.lamp j).diagEn = true ∧ (s.lamp j).override = false) ∧
  s.unlock.level = 0 ∧ s.unlock.granted = 0 ∧ s.rel.mode = 0 ∧
  (∀ k v, (s.msixFn k).enable = false ∧ ((s.msixFn k).row v).masked = true)

/-- Where the porter fetches the next packet of a galley, its nine checks pass and R40 lets it start (fetchNext gives the
command c and the state f with it in flight): NOP ends with work 0; SIGNAL_WRITE to its own device updates the signal by set,
add or unsigned maximum and ends with work 0, and to another device sends a signal message; SIGNAL_WAIT ends with work the
signal's value where the comparison holds, ends with 0x0400 where it does not and TIMEOUT_US is 0, and else stays running. The
porters go on dispatching what they have fetched. -/
def Obligations.NopAndSignalCommandsRun : Prop :=
  ∀ (s f : State) (lod g : Nat) (c : Cmd), s.fetchNext lod g .data = some (c, f) →
    let x := f.started c
    let b := f.begun c
    let v := b.signal x.lod (x.f 16 2)
    (c.opcode = 0x0000 → exec (.nop lod g) s = .next ((b.finish x.id 0).startAll .data)) ∧
    (c.opcode = 0x0601 → bit (x.f 19 1) 0 = false →
      exec (.signalWrite lod g) s =
        .next (((b.updateSignal x.lod (x.f 16 2) (signalOp (x.f 18 1) (x.f 24 8))).finish x.id 0).startAll .data)) ∧
    (c.opcode = 0x0601 → bit (x.f 19 1) 0 = true →
      exec (.signalWrite lod g) s = .next ((b.sendSignal x).startAll .data)) ∧
    (c.opcode = 0x0602 → x.satisfied v = true →
      exec (.signalWait lod g) s = .next ((b.finish x.id v).startAll .data)) ∧
    (c.opcode = 0x0602 → x.satisfied v = false → x.f 32 4 = 0 →
      exec (.signalWait lod g) s =
        .next (((b.modCmd x.id (fun y => { y with work := v })).endWith x.id 0x0400 0).startAll .data)) ∧
    (c.opcode = 0x0602 → x.satisfied v = false → x.f 32 4 ≠ 0 →
      exec (.signalWait lod g) s = .next (b.startAll .data))

/-- One update of signal i of lodging l by a function u: the signal holds u of its old value modulo 2^64; every other signal of
every lodging is unchanged; a running SIGNAL_WAIT of the lodging on that signal whose comparison the new value meets is ended
with status 0x0000 and the new value as its work; every other command is unchanged. -/
def Obligations.SignalUpdates : Prop :=
  ∀ (s : State) (l i : Nat) (u : Nat → Nat),
    let v := u (s.signal l i) % 2 ^ 64
    let t := s.updateSignal l i u
    t.signal l i = v ∧
    (∀ m j, (m ≠ l ∨ j ≠ i) → t.signal m j = s.signal m j) ∧
    t.cmds.length = s.cmds.length ∧
    (∀ (k : Nat) (c : Cmd), s.cmds[k]? = some c →
      ((c.opcode = 0x0602 ∧ c.lod = l ∧ c.f 16 2 = i ∧ c.phase = .running ∧ c.satisfied v = true) →
        t.cmds[k]? = some { c with phase := .ended, endT := s.now, status := 0, detail := 0, work := v }) ∧
      (¬(c.opcode = 0x0602 ∧ c.lod = l ∧ c.f 16 2 = i ∧ c.phase = .running ∧ c.satisfied v = true) → t.cmds[k]? = some c)) ∧
    t.mem = s.mem ∧ t.pending = s.pending

/-- Where the porter fetches GEMM, GEMM_MULTIWORD, GEMM_COMPLEX or ELEMENTWISE_ARRAY and it may start, an operator is recorded
with the parameters and the one product of its packet, nothing written yet; GEMM_GROUPED records one product for each entry of
the group table that its check has read. An operator with nothing to compute ends at once. -/
def Obligations.MatrixCommandsStart : Prop :=
  ∀ (s f : State) (lod g : Nat) (c : Cmd) (ans : HostAns),
    let x := f.started c
    let b := f.begun c
    let op := fun (es : List GemmEntry) =>
      ({ cmd := x.id, lod := x.lod, par := gemmParams x, entries := es, parts := [], totals := [], written := [], passes := 0,
         saturated := 0, elems := [] } : MatOp)
    let go := fun (es : List GemmEntry) => (({ b with mats := b.mats ++ [op es] } : State).finishMat x.id)
    (s.fetchNext lod g .data = some (c, f) → ∀ i ∈ [(Instr.gemm lod g, 0x0101), (.gemmMultiword lod g, 0x0103),
        (.gemmComplex lod g, 0x0104), (.elementwiseArray lod g, 0x0120)],
      c.opcode = i.2 → exec i.1 s = .next ((go [gemmEntry x]).startAll .data)) ∧
    (s.fetchNext lod g ans = some (c, f) → c.opcode = 0x0102 →
      exec (.gemmGrouped lod g ans) s =
        .next ((go (c.readPoison.zipIdx.map (fun y => groupEntry (slice c.read (128 * y.2) 128) y.1))).startAll ans))

/-- Where the porter fetches ATTENTION_FWD, ATTENTION_BWD or ATTENTION_DECODE and it may start, an operator is recorded with the packet's
parameters and the sequences of the table that its check has read, nothing computed yet; KV_APPEND appends the tokens of its sequences,
and with no sequence ends at once with work 0. -/
def Obligations.AttentionCommandsStart : Prop :=
  ∀ (s f : State) (lod g : Nat) (c : Cmd) (ans : HostAns), s.fetchNext lod g ans = some (c, f) →
    let x := f.started c
    let b := f.begun c
    let p := attnParams x
    let op : AttnOp := { cmd := x.id, lod := x.lod, par := p, seqs := p.entries c.read c.readPoison, rows := [], endedUnits := [],
                         written := [], dropped := [], pushed := [], appended := 0, work := 0, satTiles := [], elems := [] }
    let r : State := { b with attns := b.attns ++ [op] }
    (∀ i ∈ [(Instr.attentionFwd lod g ans, 0x0201), (.attentionBwd lod g ans, 0x0202), (.attentionDecode lod g ans, 0x0203)],
      c.opcode = i.2 → exec i.1 s = .next ((r.finishAttn x.id).startAll ans)) ∧
    (c.opcode = 0x0204 → exec (.kvAppend lod g ans) s = .next ((b.startAppend x ans).startAll ans)) ∧
    (c.opcode = 0x0204 → b.attn? x.id = none → p.appendSteps op.seqs = [] →
      exec (.kvAppend lod g ans) s =
        .next ((((r.noteSequences op).modCmd x.id (fun y => { y with issued := true })).finish x.id 0).startAll ans))

/-- Where the porter fetches KERNEL_LAUNCH and it may start, the launch of the descriptor that its check has read runs, and ends at once
with its work where no block is left to place (an empty grid, R79); a COPY, FILL or COPY_REMOTE is recorded with the addresses, length,
fixed sides and pattern of its packet, its segments are dealt to the free command channels of the lodging, and with none to deal
it ends at once. -/
def Obligations.LaunchAndCopyCommandsStart : Prop :=
  ∀ (s f : State) (lod g : Nat) (c : Cmd),
    let x := f.started c
    let b := f.begun c
    let r : State := { b with launches := b.launches ++ [launchOf x c.read] }
    (∀ ans, s.fetchNext lod g ans = some (c, f) → c.opcode = 0x0301 →
      exec (.kernelLaunch lod g ans) s = .next ((r.settleLaunch x.id).startAll ans)) ∧
    (∀ ans, s.fetchNext lod g ans = some (c, f) → c.opcode = 0x0301 → b.launch? x.id = none → (launchOf x c.read).total = 0 →
      b.blocks.any (fun y => y.cmd == x.id) = false →
      exec (.kernelLaunch lod g ans) s = .next ((r.finish x.id 0).startAll ans)) ∧
    (s.fetchNext lod g .data = some (c, f) →
      ∀ i ∈ [(Instr.copy lod g, 0x0401), (.fill lod g, 0x0402), (.copyRemote lod g, 0x0403)], c.opcode = i.2 →
      let op : CopyOp :=
        { cmd := x.id, lod := x.lod, stack := x.stack, remote := i.2 == 0x0403, fill := i.2 == 0x0402, pattern := x.f 48 8,
          src := x.f 16 8, dst := x.f 24 8, length := x.f 32 8, srcFixed := i.2 != 0x0402 && bit (x.f 40 1) 0,
          dstFixed := bit (x.f 40 1) 1, nextSeg := 0, running := 0, written := 0 }
      let d : State := { b with dma := { b.dma with copies := b.dma.copies ++ [op] } }
      exec i.1 s = .next (((d.dealSegments x.id (d.cmdChannels x.lod x.stack)).settleCopy x.id).startAll .data))

/-- Where the porter fetches the command and it may start: REDUCE_PUSH of no element ends with work 0, and of COUNT elements
contributes them in ascending order to the region that its destination lies in; EPOCH_FLUSH awaits the covered lines of the lodging that
are already on their way home, writes home every covered Reduce line, fails with 0x0305 where the descriptor of a covered region has LOST
set, and ends once nothing is awaited; EPOCH_INVALIDATE drops every covered Shared line of the lodging but one that stays to answer one
read, counts in STN_EPOCH_DROPS and as its work those outside line buffers, and lets no fetch of a covered line that is on its way be
kept (R237). -/
def Obligations.ReductionAndEpochCommandsRun : Prop :=
  ∀ (s f : State) (lod g : Nat) (c : Cmd),
    let x := f.started c
    let b := f.begun c
    (∀ ans, s.fetchNext lod g ans = some (c, f) → c.opcode = 0x0501 → x.f 32 8 = 0 →
      exec (.reducePush lod g ans) s = .next ((b.finish x.id 0).startAll ans)) ∧
    (∀ ans m r d, s.fetchNext lod g ans = some (c, f) → c.opcode = 0x0501 → x.f 32 8 ≠ 0 →
      (b.lod x.lod).mapping? (x.f 24 8) = some m → m.region = some d → m.reduction = some r →
      exec (.reducePush lod g ans) s =
        .next (((b.modCmd x.id (fun y => { y with issued := true })).pushElems x r d ans x.work (x.f 32 8 - x.work)).startAll ans)) ∧
    (s.fetchNext lod g .data = some (c, f) → c.opcode = 0x0502 →
      let covered := fun (y : CacheLine) => y.lod == x.lod && y.isReduce && b.epochCovers x y.addr
      let r := ((b.joinHomes x.id covered).flushLines x.id (b.stn.lines.filter covered)).lostRegion x (b.coveredRegions x)
      let t := match r.2.1 with | some d => r.1.failCmd x.id 0x0305 d | none => r.1
      exec (.epochFlush lod g) s =
        .next (((t.modCmd x.id (fun y => { y with issued := !r.2.2 })).settle x.id).startAll .data)) ∧
    (s.fetchNext lod g .data = some (c, f) → c.opcode = 0x0503 →
      let lines := b.stn.lines.filter (fun y =>
        y.lod == x.lod && decide (y.col < 512) && (match y.kind with | .shared _ _ => true | _ => false) && b.epochCovers x y.addr)
      let d := lines.foldl (fun t y =>
        if y.buffered then t.removeLine y
        else (t.removeLine y).modStnRegs (stackOf y.col) (fun r => { r with epochDrops := wrap32 (r.epochDrops + 1) })) b
      let e : State := { d with fab := { d.fab with txns := d.fab.txns.map (fun t =>
        match t.kind with
        | .fetch l n _ => if l = x.lod ∧ d.epochCovers x (128 * n) then { t with kind := .fetch l n false } else t
        | _ => t) } }
      exec (.epochInvalidate lod g) s =
        .next ((e.finish x.id (lines.countP (fun y => !y.buffered))).startAll .data))

/-- Where the porter fetches the command, its checks pass and it may start: a MAP installs every page of its range, with the region
descriptor that its check has read, takes notice 0x0104 where the conversion of an element left its window, and its work is the pages
installed; an UNMAP removes the range's pages, awaits the accesses of its lodging sent before it (R322), and its work is the pages
removed; a DIGEST_READ that finds no record has work 0, and one that finds a record and writes it has work 1; a TRACE_MARK writes its
type 3 record and, with COUNTERS set, one sample of each assigned counter, and its work is the records, 0 where the writer has no room. -/
def Obligations.MapAndRecordCommandsRun : Prop :=
  ∀ (s f : State) (lod g : Nat) (c : Cmd),
    let x := f.started c
    let b := f.begun c
    let m := mapParams x
    let rec' := (b.lod x.lod).digests.reverse.find? (fun r => field r 4 2 == x.f 24 2 % 1024 && field r 0 4 == x.f 28 4)
    (∀ ans u left, s.fetchNext lod g ans = some (c, f) → c.opcode = 0x0701 → b.installMap x.lod m c.read = (u, left) →
      exec (.map lod g ans) s =
        .next (((if left then u.noticeCmd x.id 0x0104 0 else u).finish x.id (m.len / pageBytes m.pageSize)).startAll ans)) ∧
    (s.fetchNext lod g .data = some (c, f) → c.opcode = 0x0702 →
      let r := b.removePages x.lod m.va m.len
      exec (.unmap lod g) s =
        .next (((r.modCmd x.id (fun y => { y with upTo := r.fab.nextTxn })).finish x.id
          ((b.lod x.lod).pages - (r.lod x.lod).pages)).startAll .data)) ∧
    (s.fetchNext lod g .data = some (c, f) → c.opcode = 0x0801 → rec' = none →
      exec (.digestRead lod g) s = .next ((b.finish x.id 0).startAll .data)) ∧
    (∀ r w k, s.fetchNext lod g .data = some (c, f) → c.opcode = 0x0801 → rec' = some r →
      b.vwrite x.lod (x.f 16 8) 0 r false (some x.id) x.ids = .ok w k →
      exec (.digestRead lod g) s =
        .next (((w.modCmd x.id (fun y => { y with acks := y.acks + k, issued := true })).finish x.id 1).startAll .data)) ∧
    (s.fetchNext lod g .data = some (c, f) → c.opcode = 0x0E01 →
      let t := b.trace x.lod x.stack (traceBytes b.now 3 x.stack x.layer x.oper x.seq x.g 0 0 (x.f 16 8))
      let is := if bit (x.f 24 1) 0 then t.assignedCounters x.lod x.stack else []
      exec (.traceMark lod g) s =
        .next (((is.foldl (fun t i => t.trace x.lod x.stack (t.sampleRecord i)) t).finish x.id
          (if ((b.lod x.lod).writer x.stack).full then 0 else 1 + is.length)).startAll .data))

/-- Where a porter may fetch from a galley: a packet with an opcode of no command ends at fetch with 0x0200, detail 0, and one
with an admin opcode with 0x0203, whatever else its packet holds; a poisoned slot ends its command with 0x0303, detail 1, and
stops the galley; a slot of the chain in host memory that the host poisons does the same, the slots up to it consumed, and is logged; a
slot whose read fails translation or permission, or that lies in host memory and that the host answers with Unsupported Request, stops
the galley with HEAD unchanged, sets GALLEY_FAULT with detail 0xFFFC and raises the galley's vector, and no record is written. -/
def Obligations.RefusedPacketsEnd : Prop :=
  ∀ (s t : State) (lod g used : Nat) (p : Porter) (b : List Byte) (bad : Option Nat), s.grantFetch lod g = some p →
    let c := t.newCmd lod g b used
    let stop := fun (u : State) (st : Nat) =>
      (((u.usePorter (s.homePorter lod g) p).stopGalley lod g st 0 none).noteFault lod g st 0xFFFC)
    (s.chain lod g = (t, .packets b used bad) → galleyOpcodes.contains c.opcode = false → adminOpcode c.opcode = false →
      exec (.badOpcode lod g) s = .next (t.refusedAtFetch p c 0x0200 0 used)) ∧
    (s.chain lod g = (t, .packets b used bad) → adminOpcode c.opcode = true →
      exec (.adminInGalley lod g) s = .next (t.refusedAtFetch p c 0x0203 (c.opcode % 256) used)) ∧
    (∀ k ans, s.chain lod g = (t, .poisoned b used) → (hostPoisons ans && s.hostSlot lod g k) = false →
      exec (.poisonedPacket lod g k ans) s = .next (t.poisonStop lod g p b used)) ∧
    (∀ k ans, hostPoisons ans = true → s.hostSlot lod g k = true →
      exec (.poisonedPacket lod g k ans) s = .next (((s.chain lod g).1.logHost lod ans).poisonStop lod g p
        ((s.chain lod g).2.bytes.take (64 * (k + 1))) (k + 1))) ∧
    (∀ k st u, s.chain lod g = (t, .fault st b) → (u && s.hostSlot lod g k) = false →
      exec (.ringSlotReadFault lod g k u) s = .next (stop t st)) ∧
    (∀ k, s.hostSlot lod g k = true →
      exec (.ringSlotReadFault lod g k true) s = .next (stop ((s.chain lod g).1.logHost lod .unsupported) 0x0301))

/-- A command that has ended and awaits no acknowledgement, and no access of its lodging where it is an UNMAP, completes: its last notices
are taken (R47), its digest and completion record are written and its end record traced, its notices are counted, its signal is updated,
its interrupt raised, it leaves the commands in flight and the time of the last completion is now; with STOP_ON_ERROR set and a status of
class 0x02 or higher the galley stops; with no command of the galley left bytes 20 to 39 of the descriptor are written back; then the
porters go on dispatching. -/
def Obligations.CommandCompletionFollowsR44 : Prop :=
  ∀ (s : State) (id : Nat) (c : Cmd), s.cmd? id = some c → c.phase = .ended → c.acks = 0 → s.awaitsAccesses c = false →
    let c := s.finalCmd c
    let w := (((s.modCmd id (fun _ => c)).writeRecord c).traceEnd c).countNotices c
    let d := ((w.doneSignal c).doneInterrupt c).dropCmd c
    let d : State := { d with brd := { d.brd with lastDone := some d.now } }
    let e := if (d.galley c.lod c.g).desc.stopOnError && decide (statusClass c.status ≥ 2)
      then d.stopGalley c.lod c.g c.status c.seq none else d
    let e := if (e.galleyCmds c.lod c.g).isEmpty then e.writeBackDesc c.lod c.g else e
    exec (.commandCompletion id) s = .next ((e.startAll .data).carryFlr c.lod)

/-- A completion record is 32 bytes and, read back field by field, gives SEQ (bytes 0-3), TAG (4-7), STATUS (8-9), DETAIL
(10-11), START (12-17), END (18-23), WORK (24-30) and the phase bit in bit 0 of byte 31, each modulo the width of its field; the
rest of byte 31 is zero. -/
def Obligations.CompletionRecordLayout : Prop :=
  ∀ (seq tag st d start fin work : Nat) (phase : Bool),
    let r := recordBytes seq tag st d start fin work phase
    r.length = 32 ∧ field r 0 4 = seq % 2 ^ 32 ∧ field r 4 4 = tag % 2 ^ 32 ∧ field r 8 2 = st % 2 ^ 16 ∧
    field r 10 2 = d % 2 ^ 16 ∧ field r 12 6 = start % 2 ^ 48 ∧ field r 18 6 = fin % 2 ^ 48 ∧ field r 24 7 = work % 2 ^ 56 ∧
    field r 31 1 = ofBool phase

/-- A doorbell of an ACTIVE galley of an ACTIVE lodging outside rescue mode, written as an aligned 8-byte word with bits 63:32
zero and without poison: with D = D0 nothing changes; with D0 < D and D at most 2^k TAIL becomes the value and nothing else of
the galley but the time of the doorbell changes; otherwise the galley stops with 0x0207 and ERR_SEQ 0 and its vector is raised.
Any other write with the lodging present counts one in VF_STATUS.DB_DROPS, which saturates, and changes nothing else; a poisoned
one is logged as an Advisory Non-Fatal Error and changes nothing else. -/
def Obligations.GalleyDoorbellRings : Prop :=
  ∀ (s : State) (vf g off width value : Nat),
    let x := s.galley vf g
    let d := (value + 2 ^ 32 - x.head) % 2 ^ 32
    let d0 := (x.tail + 2 ^ 32 - x.head) % 2 ^ 32
    (s.windowOpen vf = true → x.state = .active → value < 2 ^ 32 →
      (d = d0 → exec (.galleyDoorbell vf (8 * g) 8 value false) s = .next s) ∧
      (d0 < d → d ≤ 2 ^ x.desc.log2Size → exec (.galleyDoorbell vf (8 * g) 8 value false) s =
        .next (s.modGalley vf g (fun y => { y with tail := value, bells := (value, s.now) :: y.bells }))) ∧
      (d ≠ d0 → (d < d0 ∨ 2 ^ x.desc.log2Size < d) → exec (.galleyDoorbell vf (8 * g) 8 value false) s =
        .next (s.stopGalley vf g 0x0207 0 none))) ∧
    ((s.lod vf).state ≠ .absent →
      (s.windowOpen vf = false ∨ width ≠ 8 ∨ off % 8 ≠ 0 ∨ 2 ^ 32 ≤ value ∨ (s.galley vf (off / 8)).state ≠ .active) →
      exec (.galleyDoorbell vf off width value false) s =
        .next (s.modLod vf (fun y => { y with dbDrops := min (y.dbDrops + 1) 65535 }))) ∧
    exec (.galleyDoorbell vf off width value true) s = .next { s with out := s.out ++ [.aer vf 1] }

/-- In an ACTIVE lodging outside rescue mode: Enable of a DISABLED galley whose descriptor is read takes HEAD and TAIL as
written and the descriptor's bytes 0-19, and sets ACTIVE where no reserved bit is set and no field is invalid, else STOPPED with
0x0201 or 0x0202 and the vector raised, and writes bytes 20-39 back; Disable of an ACTIVE or STOPPED galley sets DRAINING and
ends the commands fetched and not started, and the pending SIGNAL_WAITs, with 0x0401, detail 0; Resume of a galley that no
Enable check stopped sets TAIL to HEAD, clears ERR_STATUS and sets ACTIVE; a DRAINING galley with no command left is DISABLED.
An action that the table does not list for the galley's state counts one in VF_STATUS.CTRL_DROPS, which saturates. -/
def Obligations.GalleyControlActions : Prop :=
  ∀ (s : State) (vf g : Nat) (ans : HostAns), (s.lod vf).state = .active → s.rel.mode ≠ 2 →
    let st := (s.galley vf g).state
    let drop := s.modLod vf (fun y => { y with ctrlDrops := min (y.ctrlDrops + 1) 65535 })
    (st = .disabled → ∀ (u : State) (b : List Byte), s.readDesc vf g ans = (u, .ok b) →
      let w := u.modGalley vf g (fun y =>
        { y with desc := descOf b, head := field b 24 4, tail := field b 28 4, expectSeq := none, bells := [], enableStop := false })
      exec (.galleyEnable vf g ans false) s = .next
        (if descReserved b then ((w.enableStopped vf g 0x0201).writeBackDesc vf g).raiseGalley vf g
         else if descInvalid b then ((w.enableStopped vf g 0x0202).writeBackDesc vf g).raiseGalley vf g
         else (w.modGalley vf g (fun y => { y with state := .active })).writeBackDesc vf g)) ∧
    (st ≠ .disabled → exec (.galleyEnable vf g ans false) s = .next drop) ∧
    ((st = .active ∨ st = .stopped) → exec (.galleyDisable vf g false) s =
      .next ((((s.modGalley vf g (fun y => { y with state := .draining })).abortFetched vf g 0 none).abortWaits vf g 0).writeBackDesc
        vf g)) ∧
    ((st = .disabled ∨ st = .draining) → exec (.galleyDisable vf g false) s = .next drop) ∧
    (st = .stopped → (s.galley vf g).enableStop = false → exec (.galleyResume vf g false) s =
      .next ((s.modGalley vf g (fun y =>
        { y with tail := y.head, errStatus := 0, state := .active, expectSeq := none, bells := [] })).writeBackDesc vf g)) ∧
    ((st ≠ .stopped ∨ (s.galley vf g).enableStop = true) → exec (.galleyResume vf g false) s = .next drop) ∧
    (st = .draining → (s.galleyCmds vf g).isEmpty = true → exec (.drainComplete vf g) s =
      .next ((s.modGalley vf g (fun y => { y with state := .disabled, enableStop := false })).writeBackDesc vf g))

/-- A write of GDT_BASE without poison to a present lodging: while any of its galleys is not DISABLED, the write is ignored and
VF_STATUS.CTRL_DROPS increments, saturating at 65,535; while every galley is DISABLED the base holds bits 56:16 of the value
with the low 16 bits zero. Nothing else changes. -/
def Obligations.GdtBaseWriteNeedsDisabledGalleys : Prop :=
  ∀ (s : State) (vf value : Nat), (s.lod vf).state ≠ .absent →
    ((∃ e ∈ (s.lod vf).galleys, e.2.state ≠ .disabled) →
      exec (.gdtBaseWrite vf value false) s =
        .next (s.modLod vf (fun y => { y with ctrlDrops := min (y.ctrlDrops + 1) 65535 }))) ∧
    ((∀ e ∈ (s.lod vf).galleys, e.2.state = .disabled) →
      exec (.gdtBaseWrite vf value false) s =
        .next (s.modLod vf (fun y => { y with gdtBase := value / 2 ^ 16 % 2 ^ 41 * 2 ^ 16 })))

/-- An aligned 8-byte write to the signal area of an ACTIVE lodging, without poison, sets signal (off − 0x8000) / 8 to the value
as one update, and the porters go on dispatching. A running SIGNAL_WAIT with a timeout that has expired by the last
tick of the time base ends with status 0x0400, detail 0, its END at that tick and its work the signal's value, and the porters go
on dispatching. -/
def Obligations.HostSignalWriteAndWaitTimeout : Prop :=
  ∀ (s : State),
    (∀ vf off value, (s.lod vf).state = .active → off % 8 = 0 →
      exec (.signalAreaWrite vf off 8 value false) s =
        .next ((s.updateSignal vf ((off - 0x8000) / 8) (fun _ => value)).startAll .data)) ∧
    (∀ id c, s.cmd? id = some c → c.opcode = 0x0602 → c.phase = .running → c.f 32 4 ≠ 0xFFFFFFFF →
      c.f 32 4 * 1000 ≤ elapsed c.start (s.now / 1000 * 1000) → s.now - s.now / 1000 * 1000 ≤ elapsed c.start s.now →
      exec (.signalWaitTimeout id) s =
        .next ((s.modCmd id (fun y =>
          { y with phase := .ended, status := 0x0400, detail := 0, endT := s.now / 1000 * 1000,
                   work := s.signal y.lod (y.f 16 2) })).startAll .data))

/-- While BUSY, a write to MBX_CMD or MBX_DOORBELL without poison is ignored and counts one in REJECTS, saturating. While not
BUSY, a write inside MBX_CMD replaces its bytes and nothing else; a doorbell sets BUSY, clears REJECTS and starts an operation
with the packet of MBX_CMD, which is decided at once where the Innkeeper serves and steps 1 to 3 of R459 refuse it. At the end
of a decided operation MBX_RESULT holds its record, DONE is set, BUSY clears, and vector 0 of the function is raised, once no higher duty
of the Innkeeper is due (what is due: the model's choice, log entry 150). -/
def Obligations.MailboxRules : Prop :=
  ∀ (s : State) (fn : Fn),
    let rejected := s.modMbx fn (fun m => { m with rejects := min (m.rejects + 1) 65535 })
    let p := (s.mbx fn).cmd
    let o : AdminOp := { opcode := field p 0 2, packet := p, start := 0, endT := 0, status := 0, detail := 0, work := 0,
                         decided := false, waiting := false, asked := s.now }
    let rung := s.modMbx fn (fun m => { m with busy := true, rejects := 0, op := some o })
    (∀ off bytes, s.mbxBusy fn = true → exec (.mbxCmdWrite fn off bytes false) s = .next rejected) ∧
    (s.mbxBusy fn = true → exec (.mbxDoorbell fn false) s = .next rejected) ∧
    (∀ off bytes, s.mbxBusy fn = false → 0x2100 ≤ off → off + bytes.length ≤ 0x2140 →
      exec (.mbxCmdWrite fn off bytes false) s =
        .next (s.modMbx fn (fun m => { m with cmd := patch m.cmd (off - 0x2100) bytes }))) ∧
    (s.mbxBusy fn = false → (rung.serviceOpen = false ∨ rung.adminGate (fnKey fn) p = none) →
      exec (.mbxDoorbell fn false) s = .next rung) ∧
    (∀ st, s.mbxBusy fn = false → rung.serviceOpen = true → rung.adminGate (fnKey fn) p = some st →
      exec (.mbxDoorbell fn false) s = .next (rung.decideOp fn o st 0)) ∧
    (∀ q, s.higherDuty = false → (s.mbx fn).op = some q → q.decided = true → exec (.mbxOperationEnd fn) s = .next
      ((((s.modMbx fn (fun m => { m with
        result := recordBytes (field q.packet 8 4) (field q.packet 12 4) q.status q.detail q.start q.endT q.work false,
        done := true, busy := false, op := none })).setNow (.mbxDone (fnKey fn))).raise (fnKey fn) 0).releaseFlr
          (adminLodging (fnKey fn) q.packet)))

/-- For each of the nine admin operations: where the Innkeeper may serve the operation of the function's mailbox and the first
failing check of R459 gives a status, the operation is decided with that status and work 0, and nothing else of the machine
changes but its mailbox; in particular no lodging, no memory and no flash slot changes. -/
def Obligations.AdminOperationsAreChecked : Prop :=
  ∀ (s : State) (fn : Fn) (ans : HostAns) (ok : Bool) (failed : List Nat) (o : AdminOp) (st : Status),
    s.ink.carried = [] →
    ∀ i ∈ [(Instr.lodgingCreate fn ans, 0x0F01), (.lodgingDestroy fn, 0x0F02), (.lodgingReset fn, 0x0F03),
        (.fwUpdate fn ans ok, 0x0F04), (.bistRun fn failed, 0x0F05), (.secureErase fn, 0x0F06), (.contractSet fn ans, 0x0F07),
        (.telemetryRead fn ans, 0x0F08), (.rescueEnter fn, 0x0F09)],
      s.adminReady fn i.2 = some o → o.waiting = false → s.adminCheck (fnKey fn) o = some st →
      ∃ t, exec i.1 s = .next t ∧ t = { s with mail := t.mail } ∧
        (t.mbx fn).op = (s.mbx fn).op.map (fun o =>
          { o with decided := true, waiting := false, start := if o.begun then o.start else s.now, endT := s.now, status := st.1,
                   detail := st.2, work := 0 }) ∧
        (t.mbx fn).busy = (s.mbx fn).busy ∧ (t.mbx fn).result = (s.mbx fn).result

/-- Where the Innkeeper may serve the operation, and every check of R459 passes at its first service: LODGING_CREATE with a
contract that is read and valid creates the lodging ACTIVE with that contract and a new key and ends OK; CONTRACT_SET puts the
new contract in force; LODGING_DESTROY and LODGING_RESET set the lodging's state, abort its commands once, and end OK once steps
2 to 5 of R316 can be taken, with work the pages of the extents or the commands aborted. -/
def Obligations.LodgingOperationsServe : Prop :=
  ∀ (s : State) (fn : Fn) (ans : HostAns) (o : AdminOp),
    let l := adminLodging (fnKey fn) o.packet
    (∀ u b, s.adminReady fn 0x0F01 = some o → o.waiting = false → s.adminCheck (fnKey fn) o = none →
      s.adminRead (field o.packet 24 8) 256 ans = (u, .ok b) → u.contractCheck l b = none →
      exec (.lodgingCreate fn ans) s = .next ((u.createLodging l (contractOf b)).opDone fn o 0)) ∧
    (∀ u b, s.adminReady fn 0x0F07 = some o → o.waiting = false → s.adminCheck (fnKey fn) o = none →
      s.adminRead (field o.packet 24 8) 256 ans = (u, .ok b) → u.contractCheck l b = none →
      exec (.contractSet fn ans) s = .next ((u.changeContract l (contractOf b)).opDone fn o 0)) ∧
    (∀ c u, s.adminReady fn 0x0F02 = some o → o.waiting = false → s.adminCheck (fnKey fn) o = none → s.contract? l = some c →
      (((s.beginReset l .destroying).1).modOp fn
        (fun o => { o with waiting := true, start := s.now, work := 2 ^ 18 * c.gibs.length })).finishDestroy l = (u, true) →
      exec (.lodgingDestroy fn) s = .next (u.opDone fn o (2 ^ 18 * c.gibs.length))) ∧
    (∀ u, s.adminReady fn 0x0F02 = some o → o.waiting = true → s.finishDestroy l = (u, true) →
      exec (.lodgingDestroy fn) s = .next (u.opDone fn o o.work)) ∧
    (∀ u, s.adminReady fn 0x0F03 = some o → o.waiting = false → s.adminCheck (fnKey fn) o = none →
      (((s.beginReset l .resetting).1).modOp fn
        (fun o => { o with waiting := true, start := s.now, work := (s.beginReset l .resetting).2 })).finishReset l = (u, true) →
      exec (.lodgingReset fn) s = .next (u.opDone fn o (s.beginReset l .resetting).2)) ∧
    (∀ u, s.adminReady fn 0x0F03 = some o → o.waiting = true → s.finishReset l = (u, true) →
      exec (.lodgingReset fn) s = .next (u.opDone fn o o.work))

/-- A created lodging is ACTIVE with its contract in force, holds the next key of the Quoin security block, and has no galley,
signal, mapping or digest; every other lodging's state and contract are unchanged. A lodging whose reset ends is ACTIVE again
with its contract. -/
def Obligations.LodgingCreationAndResetState : Prop :=
  ∀ (s : State) (l : Nat) (c : Contract),
    let t := s.createLodging l c
    (t.lod l).state = .active ∧ (t.lod l).contract = some c ∧ (t.lod l).key = some s.ink.nextKey ∧ (t.lod l).galleys = [] ∧
    (t.lod l).signals = [] ∧ (t.lod l).maps = [] ∧ (t.lod l).digests = [] ∧ t.ink.nextKey = s.ink.nextKey + 1 ∧
    (∀ m, m ≠ l → (t.lod m).state = (s.lod m).state ∧ (t.lod m).contract = (s.lod m).contract) ∧
    (∀ u, s.finishReset l = (u, true) → (u.lod l).state = .active)

/-- Where the Innkeeper may serve the operation and every check of R459 passes: FW_UPDATE reads its image and programs the slot
that is not booted under R404, ending with the status and work that this gives; BIST_RUN tests the masked clusters, asks for a
takeover of each failed core and ends with the mask of failed clusters as its work; SECURE_ERASE erases GiB after GiB and ends
with their number, and a new device key is drawn; TELEMETRY_READ of the PF writes its record to host memory and ends with its
length, and of a VF to its lodging's virtual address; RESCUE_ENTER enters rescue mode with cause 4. -/
def Obligations.DeviceAdminOperationsServe : Prop :=
  ∀ (s : State) (fn : Fn) (ans : HostAns) (ok : Bool) (failed : List Nat) (o : AdminOp), s.adminCheck (fnKey fn) o = none →
    o.waiting = false →
    let l := adminLodging (fnKey fn) o.packet
    let len := field o.packet 32 4
    let n := field o.packet 46 2
    let tele := s.telemetry l (bits (byteAt o.packet 36) 0 2)
    (∀ u b, s.adminReady fn 0x0F04 = some o → s.ink.carried = [] →
      s.adminRead (field o.packet 24 8) (min len (2 ^ 25)) ans = (u, .ok b) →
      let r := u.programImage b len ok
      exec (.fwUpdate fn ans ok) s = .next (r.1.decideOp fn o r.2.1 r.2.2)) ∧
    (s.adminReady fn 0x0F05 = some o →
      let ds := setBits (field o.packet 40 4) 32
      let bad := failed.filter (fun p => ds.contains (p / 72 * 8 + p % 72 / 9))
      let mask := ds.foldl (fun m d =>
        if bad.any (fun p => p / 72 * 8 + p % 72 / 9 == d) || (s.domain d).state == .failed then m + 2 ^ d else m) 0
      let t := bad.foldl (fun (t : State) p => t.bistCore p) s
      exec (.bistRun fn failed) s = .next ((ds.foldl (fun (t : State) d =>
        if (t.domain d).state = .failed then t else t.switchOff d) t).opDone fn o mask)) ∧
    (s.adminReady fn 0x0F06 = some o →
      let t := (List.range n).foldl (fun (t : State) i => t.eraseGib (field o.packet 44 2 + i)) s
      exec (.secureErase fn) s = .next (({ t with ink := { t.ink with nextKey := t.ink.nextKey + 1 } } : State).opDone fn o n)) ∧
    (fn = .pf → s.adminReady .pf 0x0F08 = some o → field o.packet 24 8 + tele.length ≤ 2 ^ 51 →
      exec (.telemetryRead .pf ans) s =
        .next ((s.writeRange 256 (2 ^ 51 + field o.packet 24 8) tele false (0, 0)).opDone .pf o tele.length)) ∧
    (∀ m u k, fn = .vf m → s.adminReady (.vf m) 0x0F08 = some o →
      s.vwrite m (field o.packet 24 8) 0 tele false none (0, 0) = .ok u k →
      exec (.telemetryRead (.vf m) ans) s = .next (u.opDone (.vf m) o tele.length)) ∧
    (s.adminReady fn 0x0F09 = some o →
      exec (.rescueEnter fn) s = .next (((s.triggerRescue 4 0 0).enterRescue 4).opDone fn o 0))

/-- A Function Level Reset of VF n resets its MSI-X (Enable and Function Mask clear, every vector masked) whatever the state of
its lodging: with the lodging ABSENT nothing else changes; with it ACTIVE and held by an admin operation the reset waits for
that operation's end; with it ACTIVE and free the reset of the lodging begins, and goes on where no command is left; with a
reset or destruction running, that one goes on. -/
def Obligations.FunctionLevelResetOfAVf : Prop :=
  ∀ (s : State) (vf : Nat),
    let t : State := { s with msix := s.msix.set vf MsixFn.reset }
    ((s.lod vf).state = .absent → exec (.functionLevelReset vf) s = .next t) ∧
    ((s.lod vf).state = .active → (t.holder (.lodging vf)).isSome = true →
      exec (.functionLevelReset vf) s = .next (t.modLod vf (fun x => { x with flrPending := true }))) ∧
    ((s.lod vf).state = .active → (t.holder (.lodging vf)).isSome = false →
      exec (.functionLevelReset vf) s = .next (((t.beginReset vf .resetting).1).carryFlr vf)) ∧
    (((s.lod vf).state = .resetting ∨ (s.lod vf).state = .destroying) →
      exec (.functionLevelReset vf) s = .next (t.carryFlr vf)) ∧
    (t.msixFn vf).enable = false ∧ (t.msixFn vf).functionMask = false ∧ ∀ v, ((t.msixFn vf).row v).masked = true

/-- Where a group is issued and no access of its picked threads that writes a register the instruction names is still open: an ALU
instruction writes, in each picked thread, its destination with the core's function of what it reads, registers or the thread's place in
the grid and its arguments, poisoned where a register is, and each goes on at the next address; a stochastic conversion writes
the destination with the conversion under the draw of R125; a branch with no poisoned condition moves each thread to its target
or the next address; an undefined encoding halts the group with 0x0301, detail 2; a wrong-path instruction is counted as issued
and changes nothing else. The spin hint marks the group. Where such an access is open, each thread that names its register is blocked
until it has returned, and nothing issues. -/
def Obligations.ArithmeticAndFlowInstructions : Prop :=
  ∀ (s : State) (blk grp : Nat) (x : Issue) (spin : Bool), s.issue blk grp = some x →
    let c := s.commit x true
    let held := fun (op : CoreOp) => x.p.ts.all (fun t => (s.regHolds x t (opRegs op)).isEmpty)
    (∀ code dst srcs next, held (.alu code dst srcs next) = true →
      exec (.arithmeticInstruction blk grp (.alu code dst srcs next) spin) s =
        .next ((x.p.ts.foldl (fun u t => u.modThreads x.b.id x.i [t] (fun h =>
          { h.setReg dst (Config.alu code (srcs.map (s.srcValue x t))) (h.poisoned (srcRegs srcs)) with pc := next })) c).hint x spin)) ∧
    (∀ fmt dst src seed entry m n next, held (.stochastic fmt dst src seed entry m n next) = true →
      exec (.arithmeticInstruction blk grp (.stochastic fmt dst src seed entry m n next) spin) s =
      .next ((c.modThreads x.b.id x.i x.p.ts (fun t =>
        { t.setReg dst
            (convertStoch (coreFmt fmt) (draw (t.reg seed) 1 0 (t.reg entry) (t.reg m) (t.reg n)) (t.reg src)).code
            (t.poisoned [src, seed, entry, m, n]) with pc := next })).hint x spin)) ∧
    (∀ code cond target next, held (.branch code cond target next) = true →
      x.p.ts.any (fun t => (x.thread t).poisoned [cond]) = false →
      exec (.arithmeticInstruction blk grp (.branch code cond target next) spin) s =
        .next ((c.branchOn x code cond target next).hint x spin)) ∧
    (∀ code cond target next, held (.branch code cond target next) = true →
      x.p.ts.any (fun t => (x.thread t).poisoned [cond]) = true →
      exec (.arithmeticInstruction blk grp (.branch code cond target next) spin) s = .next ((s.haltIssue x 0x0302 0xFFFE).hint x spin)) ∧
    (held .undefined = true →
      exec (.arithmeticInstruction blk grp .undefined spin) s = .next ((s.haltIssue x 0x0301 2).hint x spin)) ∧
    (held .wrongPath = true → exec (.arithmeticInstruction blk grp .wrongPath spin) s =
      .next { s with dbg := (s.count (stackOf x.b.col) 0x001 (some x.b.lod) x.ids 1).dbg }) ∧
    (∀ op, held op = false →
      exec (.arithmeticInstruction blk grp op spin) s = .next (s.block x (fun t => s.regHolds x t (opRegs op))))

/-- Where a group is issued with its picked threads: a FENCE moves them to the next address and orders each of them, a release what its
scope covers before its later writes, an acquire by blocking it until its reads have returned, a full fence until its reads and the writes
that its scope covers are performed; a BARRIER whose control register is unpoisoned in all of them, and written by no open access, makes
them arrive, what they have written seen by their block; a FEEDER_WAIT makes them wait until the counter reaches the value; a
THREAD_EXIT ends them, and with the last thread of the block ends the block, else releases the threads that their exit frees. -/
def Obligations.WaitingInstructions : Prop :=
  ∀ (s : State) (blk grp : Nat) (x : Issue) (spin : Bool), s.issue blk grp = some x →
    let c := s.commit x true
    let on := fun next => c.modThreads x.b.id x.i x.p.ts (fun t => { t with pc := next })
    (∀ scope next, exec (.fence blk grp .release scope next spin) s =
      .next ((x.p.ts.foldl (fun u t => u.releaseBy blk grp t scope) (on next)).hint x spin)) ∧
    (∀ scope next, exec (.fence blk grp .acquire scope next spin) s =
      .next ((x.p.ts.foldl (fun u t => u.awaitTxns blk grp t (u.reads blk grp t)) (on next)).hint x spin)) ∧
    (∀ scope next, exec (.fence blk grp .full scope next spin) s =
      .next ((x.p.ts.foldl (fun u t =>
        (u.markWrites blk grp t scope).awaitTxns blk grp t (u.reads blk grp t ++ u.covered blk grp t scope)) (on next)).hint x spin)) ∧
    (∀ creg next, x.p.ts.all (fun t => (s.regHolds x t [creg]).isEmpty) = true →
      x.p.ts.any (fun t => (x.thread t).poisoned [creg]) = false → exec (.barrier blk grp creg next spin) s =
      .next (((x.p.ts.foldl (fun u t => u.markWrites blk grp t .block)
        (c.modThreads blk grp x.p.ts (fun t => { t with pc := next, wait := .barrier }))).hint x spin).wakeBlock blk)) ∧
    (∀ creg next, x.p.ts.all (fun t => (s.regHolds x t [creg]).isEmpty) = true →
      x.p.ts.any (fun t => (x.thread t).poisoned [creg]) = true →
      exec (.barrier blk grp creg next spin) s = .next (s.haltIssue x 0x0302 0xFFFE)) ∧
    (∀ counter value next, exec (.feederWait blk grp counter value next spin) s =
      .next (((c.modThreads blk grp x.p.ts (fun t => { t with pc := next, wait := .feeder counter value })).hint x spin).wakeBlock blk)) ∧
    (∀ b, (c.modThreads blk grp x.p.ts (fun t => { t with wait := .exited })).block? blk = some b →
      exec (.threadExit blk grp) s = .next
        (if b.groups.all (·.over) then (c.modThreads blk grp x.p.ts (fun t => { t with wait := .exited })).endBlock b
         else (c.modThreads blk grp x.p.ts (fun t => { t with wait := .exited })).wakeBlock blk))

/-- Where a group is issued, no open access writes a register that the instruction names, none of its accesses is refused, none awaits an
access before it, and the column of an access to memory is not quiesced: a load writes each thread's destination with the bytes read and
their poison; a store writes each thread's value; an atomic of a width that its operation has updates memory and writes the old value to
the destination; the threads go on at the next address. One left to later flits opens a transaction for each picked thread, and the
threads go on. A width that the operation has not halts the group with 0x0301, detail 2; an access that alignment, translation or
permission refuses halts it with that status. -/
def Obligations.CoreMemoryInstructions : Prop :=
  ∀ (s t : State) (blk grp : Nat) (x : Issue) (acc : CoreAcc), s.issue blk grp = some x →
    let named := fun (rs : List Nat) => x.p.ts.all (fun u => (s.regHolds x u (acc.areg :: (acc.areg + 1) :: rs)).isEmpty)
    let clear := fun (need : Nat) => x.p.ts.all (fun u => (s.accHolds x acc need u).isEmpty)
    let later := fun (need : Nat) (host : Bool) => acc.late && !acc.scratch && s.allNear x acc need host
    let on := fun (u : State) => (u.commit x true).goOn x acc.next
    let args := fun dst src cmp op order scope =>
      ({ dst := dst, src := src, cmp := cmp, op := op, order := order,
         scope := if acc.scratch ∧ scope ≠ .group then .block else scope } : AtomArgs)
    let regs := fun dst src cmp (op : AtomOp) =>
      regsOf dst acc.size ++ regsOf src acc.size ++ (if op = .compareExchange then regsOf cmp acc.size else [])
    (∀ dst, named (regsOf dst acc.size) = true → s.firstFault x acc permRead = none → clear permRead = true →
      (acc.scratch = true ∨ s.quiesced x.b.col = false) →
      (∀ vs, later permRead true = false → s.loadThreads x dst acc x.p.ts = .ok t vs → exec (.coreLoad blk grp dst acc) s =
        .next (((vs.foldl (fun u v => u.putLoad x.b.id x.i v.1 dst acc.size v.2.1 v.2.2) (on t)).purgeBuffers x.b.lod).hint x acc.spin)) ∧
      (later permRead true = true → exec (.coreLoad blk grp dst acc) s =
        .next (((on s).issueTxns x acc permRead (fun u => .load x.b.id x.i u dst acc.size) x.p.ts).hint x acc.spin))) ∧
    (∀ src, named (regsOf src acc.size) = true → s.firstFault x acc permWrite = none → clear permWrite = true →
      (acc.scratch = true ∨ s.quiesced x.b.col = false) →
      (later permWrite false = false → s.storeThreads x src acc x.p.ts = .ok t () →
        exec (.coreStore blk grp src acc) s = .next ((on t).hint x acc.spin)) ∧
      (later permWrite false = true → exec (.coreStore blk grp src acc) s =
        .next (((on s).issueTxns x acc permWrite
          (fun u => .store x.b.id x.i u acc.size ((x.thread u).value src acc.size) (x.dirty u src acc.size)) x.p.ts).hint x acc.spin))) ∧
    (∀ dst src cmp op order scope, (atomWidths op).contains acc.size = true → (order = .relaxed ∨ order = .acquire) →
      named (regs dst src cmp op) = true → s.firstFault x acc 3 = none → s.atomFault x op acc = none → clear 3 = true →
      (acc.scratch = true ∨ s.quiesced x.b.col = false) → later 3 false = false →
      s.atomicThreads x (args dst src cmp op order scope) acc x.p.ts = .ok t () →
      exec (.coreAtomic blk grp dst src cmp op order scope acc) s =
        .next ((if order = .acquire then x.p.ts.foldl (fun u v => u.awaitTxns x.b.id x.i v (u.reads x.b.id x.i v)) (on t)
          else on t).hint x acc.spin)) ∧
    (∀ dst src cmp op order scope, (atomWidths op).contains acc.size = true → named (regs dst src cmp op) = true →
      s.firstFault x acc 3 = none → s.atomFault x op acc = none → clear 3 = true →
      ((order = .release ∨ order = .acqRel) → x.p.ts.all (fun u => (s.covered blk grp u (args dst src cmp op order scope).scope).isEmpty) = true) →
      (acc.scratch = true ∨ s.quiesced x.b.col = false) →
      exec (.coreAtomic blk grp dst src cmp op order scope acc) s =
        .next ((s.atomicOp x (args dst src cmp op order scope) acc).hint x acc.spin)) ∧
    (∀ dst src cmp op order scope, (atomWidths op).contains acc.size = false →
      exec (.coreAtomic blk grp dst src cmp op order scope acc) s = .next (s.haltIssue x 0x0301 2)) ∧
    (∀ f dst, named (regsOf dst acc.size) = true → s.firstFault x acc permRead = some f →
      exec (.coreLoad blk grp dst acc) s = .next (s.haltIssue x f.1 f.2)) ∧
    (∀ f src, named (regsOf src acc.size) = true → s.firstFault x acc permWrite = some f →
      exec (.coreStore blk grp src acc) s = .next (s.haltIssue x f.1 f.2))

/-- Where a group is issued, no open access writes a descriptor register of its picked threads, no descriptor register is poisoned, no
descriptor is refused, and the threads whose descriptors the feeder takes (16 transfers of a core at a time) await no read: each of them
hands over its descriptor, what it has written seen by its block, and goes on at the next address; a transfer starts at row 0 with nothing
written. Up to the given number of further pieces of a transfer of a resident block, on a column that is not quiesced, are moved; with all
its bytes written and every remote home's acknowledgement in, it leaves the feeder, increments its counter modulo 2^32, and releases the
threads that wait for it. A refused descriptor halts the group with 0x0301, a poisoned one with 0x0302. -/
def Obligations.FeederTransfers : Prop :=
  ∀ (s : State) (blk : Nat),
    (∀ grp dreg next spin x, s.issue blk grp = some x →
      let regs := (List.range 8).map (· + dreg)
      let ts := x.p.ts.take (16 - ((s.blocksOn x.b.col).map (fun b => b.feeds.length)).sum)
      x.p.ts.all (fun t => (s.regHolds x t regs).isEmpty) = true →
      (x.p.ts.any (fun t => (x.thread t).poisoned regs) = true →
        exec (.feederIssue blk grp dreg next spin) s = .next ((s.haltIssue x 0x0302 0xFFFE).hint x spin)) ∧
      (x.p.ts.any (fun t => (x.thread t).poisoned regs) = false → x.p.ts.any (fun t => feederRefused ((x.thread t).descBytes dreg)) = true →
        exec (.feederIssue blk grp dreg next spin) s = .next ((s.haltIssue x 0x0301 0xFFFE).hint x spin)) ∧
      (x.p.ts.any (fun t => (x.thread t).poisoned regs) = false → x.p.ts.any (fun t => feederRefused ((x.thread t).descBytes dreg)) = false →
        ts ≠ [] → ts.any (fun t => !(s.reads x.b.id x.i t).isEmpty) = false →
        exec (.feederIssue blk grp dreg next spin) s =
          .next (((ts.foldl (fun u t => u.markWrites x.b.id x.i t .block)
            ((s.commit x true).modThreads x.b.id x.i ts (fun t => { t with pc := next }))).acceptXfers x dreg ts).hint x spin))) ∧
    (∀ idx pieces ans b f t g, s.block? blk = some b → b.feeds.find? (fun y => y.idx == idx) = some f → b.saved = false →
      s.quiesced b.col = false → s.feedPieces b ans (s.idsOf b.cmd) f pieces = .ok t g →
      let u := t.modBlock blk (fun b => { b with feeds := b.feeds.map (fun y => if y.idx == idx then g else y) })
      exec (.feederTransferComplete blk idx pieces ans) s = .next (u.settleFeed blk idx) ∧
      (∀ c h, u.block? blk = some c → c.feeds.find? (fun y => y.idx == idx) = some h → h.rows ≤ h.row → h.acks = 0 →
        exec (.feederTransferComplete blk idx pieces ans) s = .next
          (((u.modBlock blk (fun b =>
              { b with feeds := b.feeds.filter (fun y => y.idx != idx),
                       counters := b.counters.set h.counter ((b.counters.get h.counter 0 + 1) % 2 ^ 32) })).wakeBlock blk).purgeBuffers c.lod)))

/-- A live launch with a block left and none displaced, on a column of its lodging's clusters that serves and has room: where
the cluster's domain is not ON a wake is asked for; where it is ON the next block becomes resident with every thread at the
entry, zeroed scratch and no counter, after the core's instruction cache is cleared of the lodging's lines at the launch's first
block there. A fetch of the line that a set of a group stands at fills the instruction cache with its 128 bytes and their poison. A
launch whose timeout has expired by the last tick is stopped: its blocks leave and are noted at its porter, whose late reports it then
discards, and it ends with 0x0400 at that tick with the blocks that ended normally as its work. -/
def Obligations.BlocksArePlacedAndFetched : Prop :=
  ∀ (s : State),
    (∀ cmd col l, s.launch? cmd = some l → s.opLive cmd = true → l.next < l.total → s.displaced l = none →
      s.assigned l.lod (clusterOf col) = true → s.clusterServes (clusterOf col) = true →
      s.blockRoom l.lod col l.groups l.regsPerThread l.scratchKib l.exclusive cmd = true →
      let b : Block :=
        { id := s.nextBlock, cmd := cmd, lod := l.lod, col := col, index := l.next, regsPerThread := l.regsPerThread,
          scratchKib := l.scratchKib, scratch := { cells := [], poison := [] }, groups := s.newGroups col l.groups l.regsPerThread l.code,
          counters := [], feeds := [], nextFeed := 0, stopping := false, saved := false }
      let u := if l.cleaned.contains col then s
        else s.modCore col (fun c => { c with icache := c.icache.filter (fun y => y.lod != l.lod) })
      ((s.domain (clusterOf col)).state ≠ .on → exec (.blockPlacement cmd col) s = .next (s.requestWake (clusterOf col))) ∧
      ((s.domain (clusterOf col)).state = .on → exec (.blockPlacement cmd col) s = .next
        ((({ u with blocks := u.blocks ++ [b], nextBlock := u.nextBlock + 1 } : State).modLaunch cmd
          (fun l => { l with next := l.next + 1, cleaned := insertNew l.cleaned col })).noteColumn cmd col |>.touchDomain
            (clusterOf col)))) ∧
    (∀ blk grp va ans b g t bytes p, s.block? blk = some b → s.blockRuns b = true → b.groups[grp]? = some g →
      g.sets.any (fun y => y.1 == va) = true →
      s.vread b.lod (alignDown va 128) 128 permExec 0xFFFE ans (s.idsOf b.cmd) = .ok t bytes p →
      exec (.instructionFetch blk grp va .taken ans) s = .next (t.fillLine b.col b.lod va bytes p)) ∧
    (∀ blk grp va wrong ans b, s.block? blk = some b → s.blockRuns b = true →
      exec (.instructionFetch blk grp va (.predicted wrong) ans) s = .next (s.fetchPredicted b va wrong (s.idsOf b.cmd))) ∧
    (∀ cmd l c, s.launch? cmd = some l → s.cmd? cmd = some c → l.timeoutUs ≠ 0 → c.phase = .running →
      s.expired c.start (l.timeoutUs * 1000) = true →
      let mine := s.blocks.filter (fun b => b.cmd == cmd)
      let w := ((((mine.foldl (fun t b => t.dropBlock b) s).modPorter c.stack
          (fun p => { p with lateBlocks := p.lateBlocks ++ mine.map (·.id) })).failCmd cmd 0x0400 0).finish cmd l.normal)
      exec (.launchTimeout cmd) s = .next (w.modCmd cmd (fun c => { c with endT := lastTick w.now })))

/-- A unit of a live matrix operator inside its entry's blocks, or of a sequence of a live attention operator that no page table entry
failed, is handed to the column, the segments of a matrix block that stand on lost clusters given up before. A pass that passes its proof
replaces its chunk, the chunks on the arrays that are not suspect, and is counted; one that fails waits on its array and accumulates
nothing. A recomputation counts one retry and a ledger entry 0x02 of the core: with a good proof its sums are accumulated and the operator
takes notice 0x0100, with a bad one the array becomes suspect. The parts of a split block are added in segment order into one total. A
block's epilogue that can write the tiles it has not written yet marks it written, and lets the operator end once all is written. -/
def Obligations.UnitsAndPassesRun : Prop :=
  ∀ (s t : State),
    (∀ cmd entry mb nb seg col m e, s.mat? cmd = some m → m.entries[entry]? = some e → s.opLive cmd = true → e.skipped = false →
      mb < e.mBlocks → nb < e.nBlocks → seg < m.par.segs →
      exec (.unitDispatch cmd entry mb nb seg col) s =
        .next (s.dispatchMat m e { cmd := cmd, entry := entry, mb := mb, nb := nb, seg := seg } col)) ∧
    (∀ cmd entry mb nb seg col m e, s.mat? cmd = none → s.attn? cmd = some m → m.seqs[entry]? = some e → s.opLive cmd = true →
      m.dropped.contains entry = false → e.skipped = false → exec (.unitDispatch cmd entry mb nb seg col) s =
        .next (s.dispatchAttn m e { cmd := cmd, entry := entry, mb := mb, nb := nb, seg := seg } col)) ∧
    (∀ col array errs ans u ch, s.runPass col array errs ans false = .proven t u ch →
      exec (.arrayPass col array errs ans) s =
        .next (((t.setRun col (.mat ((u.put ch).place (t.arrays col)))).countPass col 0x010 u.key.cmd).unitDone col)) ∧
    (∀ col array errs ans u ch, s.runPass col array errs ans false = .failed t u ch →
      exec (.arrayPass col array errs ans) s = .next (t.setRun col (.mat (u.put { ch with failed := some array })))) ∧
    (∀ col array errs ans (u : MatUnit) ch,
      let n : State := { t with mxaRetries := t.mxaRetries.incr (stackOf col) 1 }
      let n := (n.log (n.physCore col) 0x02 array (n.idsOf u.key.cmd).1 (n.idsOf u.key.cmd).2).countPass col 0x011 u.key.cmd
      (s.runPass col array errs ans true = .proven t u ch → exec (.passRecompute col array errs ans) s =
        .next (((((n.modCmd u.key.cmd (fun c => c.retryNotice (4 * col + array))).setRun col
          (.mat ((u.put ch).place (n.arrays col))))).countPass col 0x010 u.key.cmd).unitDone col)) ∧
      (s.runPass col array errs ans true = .failed t u ch → exec (.passRecompute col array errs ans) s =
        .next (n.suspectArray col array u ch))) ∧
    (∀ cmd entry mb nb m p q r, s.mat? cmd = some m → m.segParts entry mb nb = some (p :: q :: r) →
      let total : Part := { p with chunks := (q :: r).foldl (fun a y => (a.zip y.chunks).map (fun z => combineAcc z.1 z.2)) p.chunks }
      exec (.segmentCombine cmd entry mb nb) s = .next (s.modMat cmd (fun m =>
        { m with parts := m.parts.filter (fun y => !(y.key.entry == entry && y.key.mb == mb && y.key.nb == nb)),
                 totals := m.totals ++ [total] }))) ∧
    (∀ cmd entry mb nb ans m p e k q,
      let block := fun (p : Part) => p.key.entry == entry && p.key.mb == mb && p.key.nb == nb
      s.mat? cmd = some m → (if m.par.segs = 1 then m.parts.find? block else m.totals.find? block) = some p →
      m.entries[entry]? = some e → s.opLive cmd = true →
      s.epilogueChunks m e p.key ans (s.idsOf cmd) (p.chunks.zipIdx.drop p.tiles) = .ok t k q →
      exec (.unitEpilogue cmd entry mb nb ans) s = .next
        ((t.modMat cmd (fun m =>
          { m with parts := m.parts.filter (fun y => !block y), totals := m.totals.filter (fun y => !block y),
                   written := m.written ++ [(entry, mb, nb)] })).finishMat cmd))

/-- A column's attention unit reads its rows and masks where it has not yet, its key blocks that no row sees counted; its next key block,
where it is read and computed and its passes are proved, with what failed recomputed, moves the unit to its next block with the new row
states and counts one key block; where the last array of the column becomes suspect the unit is given back. A unit with no block left
hands over its rows. The states of a row's splits that have all ended are merged in order, or added for the backward operator, and the row
is written; the partial records of a row are merged in buffer order and it is written. -/
def Obligations.AttentionBlocksRun : Prop :=
  ∀ (s t : State),
    (∀ col errs ans u m c e, (s.core col).run = .attn u → s.attn? u.key.cmd = some m → s.cmd? u.key.cmd = some c →
      m.seqs[u.key.entry]? = some e →
      let go := fun (w : State) (v : AttnUnit) (n : State) =>
        let r := w.setRun col (.attn v)
        ((v.plan.getD [])[v.next]? = none → n = (r.attnUnitDone col).endFailedAttn m.cmd) ∧
        (∀ b x page, (v.plan.getD [])[v.next]? = some b → r.unitPage m e v b ans = .ok x page →
          let v' : AttnUnit := { v with pages := v.pages.set (b / 4) page }
          ∀ y toks all run sums, (x.setRun col (.attn v')).blockSums m e v' page b col errs ans = .ok (y, toks, all, run, sums) →
          let z := (y.attnProof col m.cmd run.failed).countEvents col 0x012 m.cmd run.gated
          (sums = none → n = z.setRun col .idle) ∧
          (∀ xs, sums = some xs → n = z.takeBlock m c e v' col toks all xs ∧
            (m.par.opcode ≠ 0x0202 →
              let rows := (xs.rows.zip v'.queries).map (fun q => { q.1 with poison := q.1.poison || all })
              n = (((z.setRun col (.attn { v' with next := v'.next + 1, rows := rows })).countPass col 0x020 m.cmd).attnUnitDone
                col).endFailedAttn m.cmd)))
      (∀ bs, u.plan = some bs → ∃ n, exec (.attentionKeyBlock col errs ans) s = .next n ∧ go s u n) ∧
      (∀ w v, u.plan = none → s.planUnit m e u ans = .ok (w, v) →
        ∃ n, exec (.attentionKeyBlock col errs ans) s = .next n ∧ go (w.countSkipped m e v col) v n)) ∧
    (∀ cmd seq row head ans m e xs r, s.attn? cmd = some m → m.seqs[seq]? = some e → s.opLive cmd = true → m.par.opcode ≠ 0x0204 →
      m.written.contains (seq, row, head) = false → e.skipped = false → row < e.qLen → head < m.par.qHeads → m.par.phase ≠ 2 →
      m.splitsOf seq row head = some xs → (if m.par.opcode = 0x0202 then addSplits xs else mergeSplits xs) = some r →
      exec (.splitMerge cmd seq row head ans) s = .next (s.finishRow m e seq row head r 0)) ∧
    (∀ cmd seq row head ans m e r, s.attn? cmd = some m → m.seqs[seq]? = some e → s.opLive cmd = true → m.par.opcode ≠ 0x0204 →
      m.written.contains (seq, row, head) = false → e.skipped = false → row < e.qLen → head < m.par.qHeads → m.par.phase = 2 →
      s.readPartials m.lod m.par e row head ans (s.idsOf cmd) none 0 m.par.numPartials = .ok (t, r) →
      exec (.splitMerge cmd seq row head ans) s = .next (t.finishRow m e seq row head r m.par.numPartials))

/-- When a recomputation fails its proof on an array of a column, and no other chunk of its unit awaits a recomputation there: MXA_SUSPECT
of the column has the array's bit set and keeps every other bit, MXA_ARRAYS_SUSPECTED of the stack increments modulo 2^32, a core takeover
of the column waits, and, where an array is left, the unit on the column has no chunk on the suspect array, the failed chunk runs on the
lowest-numbered array that is not suspect, and every other chunk j that awaits no recomputation is on the one of the a arrays left at
position j mod a. -/
def Obligations.SuspectArrayTakesNoMoreWork : Prop :=
  ∀ (s : State) (col array : Nat) (u : MatUnit) (ch : Chunk), array < 4 →
    (∀ c ∈ u.chunks, c.failed.isSome = true → c.j = ch.j ∨ c.array ≠ array) →
    let t := s.suspectArray col array u ch
    (t.core col).suspect = (s.core col).suspect ||| 2 ^ array ∧
    t.mxaSuspected.get (stackOf col) 0 = (s.mxaSuspected.get (stackOf col) 0 + 1) % 2 ^ 32 ∧
    t.rel.queue.any (fun x => x.kind == .core && x.place == col) = true ∧
    (∀ v lo rest, t.arrays col = lo :: rest → (t.core col).run = .mat v →
      ∀ c ∈ v.chunks, c.array ≠ array ∧ (c.j = ch.j → c.array = lo ∧ c.failed = none) ∧
        (c.j ≠ ch.j → c.failed = none → (lo :: rest)[c.j % (rest.length + 1)]? = some c.array))

/-- A request flit, with what an open access of core code that it belongs to reads or writes, whose sender holds a credit, for an address
that is local HBM4, scratch or host memory and that its slice refuses with no status, is taken from its buffer, crosses its links, and is
performed: a READ answers its sectors; a WRITE of one run of sectors, in its place of the order of a slice cycle, stores it and is
acknowledged; a WRITE_PARTIAL stores its enabled bytes; an ATOMIC outside Reduce regions is on HBM4 or scratch one entry of the address's
order that answers the old value, and on host memory an AtomicOp; an ADD_TO_LINE of the region's operation, on an aligned element,
contributes and is acknowledged; a WRITE_HOME waits for the last flit of its line, with which the whole line is combined; a SIGNAL updates
the signal of an ACTIVE lodging. An address that the slice refuses with a status is answered with it; a READ of another device's memory
waits for its line. -/
def Obligations.FabricRequestsArePerformed : Prop :=
  ∀ (s : State) (f : Flit), s.hasCredit f = true →
    let at' := fun (g : Flit) => (s.takeFlit g).travel g (endStack g.src) (stackOf (s.sliceColumn g.addr))
    let near := fun (g : Flit) => placeOf g.addr = .hbm ∨ placeOf g.addr = .scratch ∨ placeOf g.addr = .host
    let lod := flitOwner f
    (let g := s.carried f
     let t := at' g
     (∀ st, placeOf g.addr ≠ .hole → placeOf g.addr ≠ .registers → s.refusedAt lod g.addr = some st →
      exec (.read f) s = .next (t.faultFlit g st)) ∧
     (s.refusedAt lod g.addr = none →
      (placeOf g.addr = .remote → exec (.read f) s =
        .next (({ t with fab := { t.fab with held := t.fab.held ++ [{ flit := g, got := [] }] } } : State).retryRemote
          [{ flit := g, got := [] }])) ∧
      (near g → exec (.read f) s = .next (t.readLocal g) ∧
       (s.inOrder g = true →
        (∀ pa b, writeParts g = [(pa, b)] → exec (.write f) s =
          .next (((t.writeRange lod pa b g.poison (flitIds g)).noteOrder g).ackFlit g)) ∧
        exec (.writePartial f) s =
          .next ((((enabledRuns (field g.payload 32 4)).foldl (fun u x =>
            u.storeSector lod (g.addr / 32) x.1 (slice g.payload x.1 x.2) g.poison (flitIds g)) t).noteOrder g).ackFlit g) ∧
        (∀ a, atomReq? g.payload (alignDown g.addr 128) = some a → t.inRegion lod a.pa = false →
          (placeOf g.addr ≠ .host → let y := t.atomicHome lod a.pa a.size a.op a.src a.cmp g.poison (flitIds g)
            exec (.atomic f) s = .next ((y.s.noteOrder g).respond (flitAnswer g opResult 0 0 y.poison (leBytes 16 y.old)))) ∧
          (placeOf g.addr = .host → hostAtom a.op = true →
            exec (.atomic f) s = .next (t.hostAtomicOp lod a.pa (a.txn g.poison) (.flit g)))))))) ∧
    (let t := at' f
     near f → s.refusedAt lod f.addr = none →
      (∀ m d r, let pa := alignDown f.addr 128 + byteAt f.payload 1 % 128
        let x := t.contribute lod pa r d (field f.payload 8 8) f.poison (flitIds f)
        t.regionMap? lod pa = some m → m.region = some d → m.reduction = some r → r.op.code = byteAt f.payload 0 →
        pa % r.op.size = 0 → exec (.addToLine f) s =
          .next ((if x.2 then x.1.noticeIds lod (flitIds f) 0x0104 0 else x.1).ackFlit f)) ∧
      (byteAt f.payload 2 / 2 % 2 = 0 → exec (.writeHome f) s =
        .next { t with fab := { t.fab with parts := t.fab.parts ++ [f] } }) ∧
      (∀ m r, let u : State := { t with fab := { t.fab with parts := t.fab.parts.filter (fun g => !sameHome f g) } }
        byteAt f.payload 2 / 2 % 2 = 1 → u.regionMap? lod f.addr = some m → m.reduction = some r → exec (.writeHome f) s =
          .next ((u.performHome lod f.addr m r (homeImage (t.fab.parts.filter (sameHome f) ++ [f]) r)).1.ackFlit f))) ∧
    (let v := (s.takeFlit f).travel f (endStack f.src) (f.lodging % 4)
     f.own = false → (v.lod f.lodging).state = .active → exec (.signal f) s =
      .next (((v.updateSignal f.lodging (field f.payload 0 2 % 4096) (signalOp (byteAt f.payload 2) (field f.payload 8 8))).startAll).ackFlit
        f))

/-- A response on its way, into a buffer with room, that answers an open access of core code: DATA of the half line and sector that a load
asked for writes the destination registers with the bytes and their poison; an ACK ends a store; a RESULT writes the old value of an atomic;
each ends the access and makes the threads that await it ready, or, where the block has ended, is awaited by the command. A FAULT ends the
access and halts the group that made it with its status. A response that answers no open access is only taken from its buffer. -/
def Obligations.FabricResponsesReachTheirThreads : Prop :=
  ∀ (s : State) (f : Flit), s.mayDeliver f = true →
    let t := s.takeResp f
    (∀ x, s.coreTxn? f = some x →
      (∀ blk grp thr dst size, x.kind = .load blk grp thr dst size → x.addr % 128 / 64 = f.half →
        f.sect / 2 ^ (x.addr % 64 / 32) % 2 = 1 → exec (.data f) s =
          .next (((t.putLoad blk grp thr dst size (slice f.payload (x.addr % 64) size) f.poison).dropTxn x.id).wakeBlock blk)) ∧
      (∀ blk grp thr a b c, x.kind = .store blk grp thr a b c →
        (x.cmd = none → exec (.ack f) s = .next ((t.dropTxn x.id).wakeBlock blk)) ∧
        (∀ id, x.cmd = some id → exec (.ack f) s = .next ((t.dropTxn x.id).modCmd id (fun c => { c with acks := c.acks - 1 })))) ∧
      (∀ blk grp thr a, x.kind = .atomic blk grp thr a →
        let u := (t.putAtomic blk grp thr a.dst a.size (field f.payload 0 16) (f.poison || a.bad)).dropTxn x.id
        (x.cmd = none → exec (.result f) s = .next (u.wakeBlock blk)) ∧
        (∀ id, x.cmd = some id → exec (.result f) s = .next (u.modCmd id (fun c => { c with acks := c.acks - 1 })))) ∧
      (∀ blk grp thr b, x.kind.thread? = some (blk, grp, thr) → x.cmd = none → (t.dropTxn x.id).block? blk = some b →
        let st := field f.payload 0 2
        exec (.fault f) s = .next ((t.dropTxn x.id).haltGroup b grp st (failDetail st 0 0xFFFE x.addr)))) ∧
    (s.coreTxn? f = none → ∀ i ∈ [Instr.data f, .ack f, .result f, .fault f], exec i s = .next t)

/-- A CREDIT flit returns the credits that it names to their buffer, at most those spent and not yet owed back. A receiver that holds
credits and has sent no reverse flit for 16 cycles, 8 ns by the model's choice (log entry 148), sends a CREDIT flit of at most 7, and
further ones while more than 7 remain. A flit with an unused operation is taken from its buffer, discarded and recorded in the ledger of the
slice that received it with code 0x0A. A flit held in the replay buffer of a die-to-die link that is up is sent again. A link that fails
goes down in both directions, its replay buffers are sent the other way round the ring, and a stack that has lost both its links is a rescue
trigger. -/
def Obligations.FabricCreditsAndLinks : Prop :=
  ∀ (s : State),
    (∀ f, let k := bufKey f.input f.credNet f.credClass
      exec (.credit f) s = .next { s with fab := { s.fab with
        spent := s.fab.spent.set k (s.fab.spent.get k 0 - min f.credCount (s.fab.spent.get k 0 - s.fab.owed.get k 0)) } }) ∧
    (∀ input net cls, let n := s.fab.owed.get (bufKey input net cls) 0
      n ≠ 0 → 8 ≤ s.since (s.fab.reverse.get input 0) →
      let x := s.emitCredits input net cls n n
      x.2 ≤ 7 ∧ exec (.creditReturnTimer input net cls) s = .next { x.1 with
        fab := { s.fab with owed := s.fab.owed.set (bufKey input net cls) x.2, reverse := s.fab.reverse.set input s.now } }) ∧
    (∀ f, [0, 1, 2, 3, 4, 5, 6, 7, 0x10, 0x11, 0x12, 0x13, 0x20, 0x21].contains f.op = false → s.hasCredit f = true →
      let w := (s.takeFlit f).log (unitSlice (f.input / 8 % 256)) 0x0A 0 f.layer f.oper
      exec (.flitUnusedOp f) s = .next { w with fab := { w.fab with discarded := w.fab.discarded + 1 } }) ∧
    (∀ link flit, let d := s.d2d.get link D2d.reset
      d.up = true → d.replay.contains flit = true →
      exec (.d2dLinkReplay link flit) s = .next { s with d2d := s.d2d.set link { d with resent := d.resent + 1 } }) ∧
    (∀ link, link < 8 → (s.d2d.get link D2d.reset).up = true →
      let down := fun (u : State) (i : Nat) =>
        { u with d2d := u.d2d.set i { up := false, replay := [], resent := (u.d2d.get i D2d.reset).resent + (u.d2d.get i D2d.reset).replay.length } }
      let u := down (down s link) (reverseLink link)
      let cut := (List.range 4).filter (fun k => u.islanded k)
      exec (.d2dLinkFail link) s = .next (if cut.isEmpty then u else u.triggerRescue 2 0 ((cut.map (fun k => 2 ^ k)).sum)))

/-- On the lane that carries the line of an address, A[8:7], or A[7] of a channel link, or the next healthy lane in ascending order, and
that awaits no replay: the first half of the next line, which the sender enters in its replay buffer,
waits in the pairing entry; its second half within 64 Stonos cycles delivers the line, acknowledges it and lets the next one
follow. A first half whose second does not come within 64 cycles, or a second half that matches no entry, is an orphan:
discarded, counted, entered in the ledger, and its line asked for again with LANE_NAK. While a replay is awaited every other
first half and every second half is discarded. An acknowledged line and those before it leave the replay buffer. A LANE_NAK of a
line still held, or 128 cycles without an answer, replays it and every later line and counts one in VCH_REPLAYS. -/
def Obligations.LaneHalvesPairAndReplay : Prop :=
  ∀ (s : State) (l : Lane) (addr tag cycle : Nat),
    let x := s.laneAt l
    let sent := s.modLane l (fun y => y.noteSent tag cycle)
    let orphaned := fun (u : State) (t : Nat) (p : Option (Nat × Nat)) =>
      ((({ u with vch := { u.vch with orphans := u.vch.orphans.incr (laneStack l) 1 } } : State).log (laneUnit l) 0x07 l.lane 0 0).modLane l
        (fun y => { y with pairing := p, awaiting := some t })).emit (.laneNak (laneKey l) t)
    (s.laneFor l addr = some l.lane → tag < 1024 → x.awaiting = none →
      (x.duplicate tag = false → (sent.laneAt l).pairing = none → tag = (sent.laneAt l).delivered →
        exec (.lineBurst l addr 0 tag cycle) s = .next (sent.modLane l (fun y => { y with pairing := some (tag, cycle) }))) ∧
      (∀ c, x.pairing = some (tag, c) → cycle - c ≤ 64 → exec (.lineBurst l addr 1 tag cycle) s = .next (s.paired l tag)) ∧
      (∀ c, x.pairing = some (tag, c) → 64 < cycle - c → exec (.lineBurst l addr 1 tag cycle) s = .next (orphaned s tag none)) ∧
      (x.pairing = none → x.duplicate tag = false → exec (.lineBurst l addr 1 tag cycle) s = .next (orphaned s tag none))) ∧
    (s.laneFor l addr = some l.lane → tag < 1024 → ∀ w, x.awaiting = some w →
      exec (.lineBurst l addr 1 tag cycle) s = .next s ∧
      (w ≠ tag → x.duplicate tag = false → exec (.lineBurst l addr 0 tag cycle) s = .next sent)) ∧
    (x.replay.any (fun e => e.tag == tag) = true → exec (.laneAck l tag) s =
      .next (s.modLane l (fun y => { y with replay := (y.replay.dropWhile (fun e => e.tag != tag)).drop 1 }))) ∧
    (x.replay.any (fun e => e.tag == tag) = true → exec (.laneNak l tag cycle) s =
      .next ((s.modLane l (fun y => { y with replay := replayFrom tag cycle y.replay })).countReplay l)) ∧
    (∀ t c, x.pairing = some (t, c) → c + 64 < cycle → exec (.pairingWindowExpiry l cycle) s = .next (orphaned s t none)) ∧
    (∀ e, x.replay.find? (fun e => decide (cycle ≥ e.cycle + 128)) = some e → exec (.laneReplayTimer l cycle) s =
      .next ((s.modLane l (fun y => { y with replay := replayFrom e.tag cycle y.replay })).countReplay l))

/-- A healthy lane on which a line was replayed three times becomes suspect, its lines go to the next healthy lane, or the
channel has none, a ledger entry 0x08 is made, and the column's spare vias are asked for. A column whose takeover is the next of
its stack, whose replay buffers are empty and of whose cluster no column is quiesced, is quiesced and its takeover begins. 200
µs later, where the spare vias suffice, the suspect lanes serve again and the takeover is completed; else they are failed, the
takeover is dropped, and a channel link with a direction that has no lane left retires its channel. -/
def Obligations.SuspectLanesAndQuiesce : Prop :=
  ∀ (s : State),
    (∀ (l : Lane), let x := s.laneAt l
      x.healthy = true → x.replay.any (fun e => decide (e.tries ≥ 3)) = true →
      let u := (s.modLane l (fun y =>
        { y with suspect := true, replay := [], pairing := none, awaiting := none, delivered := y.nextTag })).log (laneUnit l) 0x08 l.lane 0 0
      let v := match u.nextLane l with
        | some y => u.modLane y (fun z => z.takeOver x.replay)
        | none => u.noLane l
      exec (.laneSuspect l) s = .next (match l.link with
        | .footing => v
        | .column => (v.askVia l.idx).noteColumns [l.idx]
        | .channel => v.askVia l.idx)) ∧
    (∀ col t, s.startable .via col 0 0 = some t → (∀ l ∈ columnLanes col, (s.laneAt l).replay = []) →
      (∀ c ∈ columnsOf (clusterOf col), (s.bundle c).quiescedAt = none) →
      let u := s.beginTakeover t
      exec (.columnQuiesce col) s = .next { u with vch := { u.vch with
        bundles := u.vch.bundles.mod col Bundle.reset (fun b => { b with quiescedAt := some u.now }) } }) ∧
    (∀ col n q, (s.bundle col).quiescedAt = some q → 200000 ≤ s.since q →
      let ok := decide ((s.bundle col).sparesUsed + n ≤ 4)
      let u := s.repairLanes col ok
      let u := { u with vch := { u.vch with bundles := u.vch.bundles.mod col Bundle.reset (fun b =>
        { sparesUsed := if ok then b.sparesUsed + n else b.sparesUsed, quiescedAt := none }) } }
      let u := if ok then u.logRepair 3 (col + 256 * n) else u
      let u := match u.rel.queue.find? (fun t => t.kind == .via && t.place == col && t.started.isSome) with
        | some t => if ok then u.endTakeover t else u.dropTakeover t
        | none => u
      let dead := fun (up : Bool) => (List.range 2).all (fun i => (u.laneAt { link := .channel, idx := col, up := up, lane := i }).failed)
      exec (.quiesceHoldExpiry col n) s = .next (if (dead true || dead false) && !(u.channel col).retired then u.retireChannel col else u))

/-- A WRITEBACK_ACK removes its line from the write-back buffers. The sector that the regulator grants next at its site, on a channel that
is neither repaired nor quiesced, comes from its array into every read that waits for it, and the reads it completes are answered. 16
successive corrections in one byte lane of a channel that is not marked mark it, with a ledger entry 0x06 and a lane remap asked for; a
second lane of a marked channel with no remap waiting fails and retires it. A scrub of a sector whose page is not valid, or that a slice
holds dirty, only notes its place; any other is read, corrected and rewritten. A bitmap word of a scrubbed slice is checked, a word of its
scratch scrubbed. The relief request whose turn it is, and the end of a relief, begin a drain; a drain that leaves no line ends it. No scrub
runs, and no relief starts or ends, in rescue mode. -/
def Obligations.MaintenanceCommandsRun : Prop :=
  ∀ (s : State),
    (∀ line, exec (.writebackAck line) s = .next { s with hbm := { s.hbm with wbBuf := s.hbm.wbBuf.filter (fun l => l.line != line) } }) ∧
    (∀ line sector q, let sec := 4 * line + sector
      let col := homeColumn (32 * sec)
      s.nextGrant (siteOf col) = some q →
      ((q.line ≠ sec ∨ (s.channel col).repairing = true ∨ (s.bundle col).quiescedAt.isSome = true) → ∀ errs,
        exec (.hbmReadComplete line sector errs) s = .next s) ∧
      (q.line = sec → (s.channel col).repairing = false → (s.bundle col).quiescedAt = none →
        let g := s.grantReq q
        let u : State := { g with qos := { g.qos with
          queue := g.qos.queue.filter (fun (x : QReq) => !(x.line == sec && x.lod == q.lod && x.res == q.res)) } }
        let wants := fun (h : HeldRead) =>
          flitOwner h.flit == q.lod && h.line == line && bit (byteAt h.flit.payload 0) sector && placeOf h.flit.addr == .hbm
        let v := u.readSector q.lod sec (match u.fab.held.find? wants with | some h => flitIds h.flit | none => (0, 2 ^ 16 * q.cls))
        let held := v.1.fab.held.map (fun (h : HeldRead) =>
          if wants h then { h with got := h.got.set sector (v.2.bytes, v.2.poison) } else h)
        exec (.hbmReadComplete line sector []) s = .next ((held.filter (·.full)).foldl (fun (w : State) (h : HeldRead) => w.sendData h.flit h.sector)
          { v.1 with fab := { v.1.fab with held := held.filter (fun h => !h.full) } }))) ∧
    (∀ ch, let c := s.channel ch
      16 ≤ c.streak → c.failed = false → c.retired = false →
      (c.marked = false →
        let u := (s.modChannel ch (fun c => { c with marked := true, lane := c.streakLane, streak := 0 })).log (unitChannel ch) 0x06
          c.streakLane 0 0
        exec (.laneMark ch) s = .next
          (u.askTakeover { kind := .hbmLane, stack := stackOf ch, place := ch, bank := 0, row := 0, asked := u.now, started := none })) ∧
      (c.marked = true → c.streakLane ≠ c.lane → s.rel.queue.find? (fun t => t.kind == .hbmLane && t.place == ch) = none →
        exec (.laneMark ch) s = .next ((s.modChannel ch (fun c => { c with failed := true, streak := 0 })).retireChannel ch))) ∧
    (∀ sector, let col := homeColumn (32 * sector)
      let place := channelAddr (32 * sector) / 32
      let hours := (s.channel col).scrubHours
      let u := s.modChannel col (fun c => { c with scrubAt := some place, scrubHours := hours })
      newPass (s.channel col).scrubAt place = false → hours ≠ 0 → s.rel.mode ≠ 2 → (s.channel col).retired = false →
      ((u.pageValid (32 * sector) = false ∨ u.heldDirty sector = true) → ∀ errs, exec (.hbmScrubSector sector errs) s = .next u) ∧
      (u.pageValid (32 * sector) = true → u.heldDirty sector = false → exec (.hbmScrubSector sector []) s = .next (u.scrubHbm sector))) ∧
    (∀ col word flips place, let minutes := (s.sliceAt col).scrubMinutes
      let u := s.modSlice col (fun x => { x with scrubAt := some place, scrubMinutes := minutes })
      newPass (s.sliceAt col).scrubAt place = false → minutes ≠ 0 → s.rel.mode ≠ 2 → (s.sliceAt col).retired = false →
      (place = 2 ^ 60 + word → word < 8192 →
        (u.flipWord (bitmapKey col word) flips).stn.wordErrs.get (bitmapKey col word) (0, 0) = (0, 0) →
        exec (.stnScrubWord col word flips true) s = .next ((u.flipWord (bitmapKey col word) flips).checkBitmapWord col word (0, 0))) ∧
      (place = word → word < 2 ^ 22 → exec (.stnScrubWord col word flips false) s =
        .next ((u.flipWord (u.wordKey (u.wordAddr col word)) flips).scrubWord col word))) ∧
    (∀ col, s.thm.reliefWanted.head? = some col → s.rel.mode ≠ 2 →
      let u := { s with thm := { s.thm with reliefWanted := s.thm.reliefWanted.filter (· != col) } }
      (u.sliceAt col).relief = .off → (u.sliceAt col).retired = false → u.reliefRefused col = false →
      exec (.reliefRequest col) s = .next (u.modSlice col (fun x => { x with relief := .drain }))) ∧
    (∀ col, s.thm.endWanted.contains col = true → s.rel.mode ≠ 2 →
      let u := { s with thm := { s.thm with endWanted := s.thm.endWanted.filter (· != col) } }
      (u.sliceAt col).relief = .relieved → (u.sliceAt col).retired = false →
      exec (.reliefEndRequest col) s = .next (u.modSlice col (fun x => { x with relief := .ending }))) ∧
    (∀ col, ((s.sliceAt col).relief = .drain → ((s.drain col col).linesOf col col).isEmpty = true →
        exec (.reliefDrainEnd col) s = .next ((s.drain col col).modSlice col (fun x => { x with relief := .relieved }))) ∧
      ((s.sliceAt col).relief = .ending → ((s.drain (partnerOf col) col).linesOf (partnerOf col) col).isEmpty = true →
        exec (.reliefDrainEnd col) s = .next ((s.drain (partnerOf col) col).modSlice col (fun x => { x with relief := .off }))))

/-- On a port that is up: a transfer in sequence that passes its checks takes its acknowledgement and credits, moves the sequence past its
flits, holds their credits to return, counts its bytes, and is performed or forwarded; one with a flit that fails a check is discarded, with
those after it, and CYTIL_NAK names the flit, once; one that is not authenticated takes the port down. CYTIL_IDLE takes an acknowledgement
and credits. CYTIL_NAK and the 2 µs timer replay from the transfer that they name; the sixteenth replay of one transfer takes the port down.
A lane that fails first is replaced by the spare and what was in flight is replayed, or the port retrains where the peer has no spare; a
second one halves the width. A port that is enabled, with its clock, its die ON, and the same encryption at both ends, comes up with fresh
sequences and credits. -/
def Obligations.CytilTransfersAndReplay : Prop :=
  ∀ (s : State) (port : Nat), let p := s.port port
    (∀ hdr body gcm i, p.up = true → badFlit hdr body true p.encrypted = some i →
      (p.discarding = true → exec (.cytilTransfer port hdr body true gcm) s = .next s) ∧
      (p.discarding = false → exec (.cytilTransfer port hdr body true gcm) s =
        .next ((s.modPort port (fun p => { p with discarding := true })).emit (.cytilNak port ((p.rxSeq + i) % 4096))))) ∧
    (∀ hdr body gcm, let x := headerOf hdr
      p.up = true → badFlit hdr body true p.encrypted = none → x.type = 0 → x.seq = p.rxSeq →
      (p.encrypted = true → gcm = false → exec (.cytilTransfer port hdr body true gcm) s =
        .next (((s.modPort port (fun p => { p with authFail := true })).setNow (.authFail port)).portFails port 2)) ∧
      ((p.encrypted = false ∨ gcm = true) → exec (.cytilTransfer port hdr body true gcm) s =
        .next ((((s.modPort port (fun p =>
          { p.acked x.ack x.credits with
            rxSeq := (p.rxSeq + 1 + x.count) % 4096, discarding := false,
            owed := p.owed.set (vcOf x.op) (p.owed.getD (vcOf x.op) 0 + 1 + x.count) })).addBytes
              (fixedOf (port / 3) (0x48 + 0x10 * (port % 3))) (256 * (1 + x.count))).acceptXfer port x body).pump))) ∧
    (∀ ack credits, p.up = true → exec (.cytilIdle port ack credits) s = .next (s.modPort port (fun p => p.acked ack credits)).pump) ∧
    (∀ (hit : SentXfer → Bool) (i : Instr), p.up = true → p.replay.any hit = true →
      ((∃ seq, i = .cytilNak port seq ∧ hit = (fun (e : SentXfer) => decide ((seq + 4096 - e.seq) % 4096 < e.flits))) ∨
       (i = .cytilReplayTimer port ∧ hit = (fun (e : SentXfer) => decide (2000 ≤ s.since e.sentAt)))) →
      let n := (p.replay.dropWhile (fun e => !hit e)).length
      let u := (s.modPort port (fun p => { p with
        replay := replayXfers hit s.now p.replay, replays := (p.replays + n) % 2 ^ 32 })).count (port / 3) 0x051 none (0, 0) n
      ((u.port port).replay.any (fun e => decide (16 ≤ e.tries)) = false → exec i s = .next u) ∧
      ((u.port port).replay.any (fun e => decide (16 ≤ e.tries)) = true → exec i s = .next (u.portFails port 1))) ∧
    (∀ lane, bit p.laneFailed lane = false → lane < 8 →
      let u := (s.modPort port (fun p => { p with laneFailed := p.laneFailed + 2 ^ lane })).log (unitPort port) 0x09 0 0 0
      (p.laneFailed = 0 → exec (.cytilLaneFail port lane true) s =
        .next ((u.modPort port (fun p => { p with spareInUse := true })).replayPort port (fun _ => true))) ∧
      (p.laneFailed = 0 → exec (.cytilLaneFail port lane false) s =
        .next ((u.modPort port (fun p => { p with spareInUse := true })).portDown port)) ∧
      (p.laneFailed ≠ 0 → ∀ b, exec (.cytilLaneFail port lane b) s =
        .next ((u.modPort port (fun p => { p with halfWidth := true, spareInUse := false })).portDown port))) ∧
    (p.upEn = true → p.up = false → s.brd.linkRefclk = true → s.rel.mode ≠ 2 → (s.domain (40 + port / 3)).state = .on →
      let u := s.modPort port (fun p =>
        { p with up := true, encrypted := p.encrypt, keyEpoch := if p.encrypt then p.keyEpoch + 1 else p.keyEpoch, keyCount := 0,
                 txSeq := 0, rxSeq := 0, replay := [], spent := [0, 0, 0, 0], owed := [0, 0, 0, 0], discarding := false })
      (p.encrypt = false → exec (.cytilPortUp port false) s = .next u.recomputeShares.pump) ∧
      (p.encrypt = true → exec (.cytilPortUp port true) s =
        .next ({ u with ink := { u.ink with draws := u.ink.draws + 1 } } : State).recomputeShares.pump))

/-- A time synchronisation on a port that is up holds the measured delay and, in a domain whose master is another device, moves
the time base at most 10 ns toward the master's: forward at once, or back, by the model's choice (log entry 83), by holding it
still for so many nanoseconds, so that it never steps backwards. Each period every port that is up sends one. A time base that is
held goes on with the master's once that has reached it. A write that enables the domain on a device that is not the master,
with every galley disabled, aligns the time base: forward at once, or held until the master reaches it. A route write sets bits
11:0 of the destination's entry, and requests that waited for a route are tried again. UP_EN clear takes a port that is up down;
ENCRYPT is held for the next bring-up. -/
def Obligations.CytilTimeAndRegisters : Prop :=
  ∀ (s : State),
    (∀ port master delay, (s.port port).up = true →
      let u := s.modPort port (fun p => { p with delay := delay })
      let m := (master + delay) % 2 ^ 48
      exec (.timeSync port master delay) s =
        .next (if u.cyl.enable && !u.cyl.timeMaster && !u.holding then
          (if ahead m u.now then { u with now := (u.now + min 10 (elapsed u.now m)) % 2 ^ 48, slow := 0 }
           else { u with slow := min 10 (elapsed m u.now) }) else u)) ∧
    (exec .timeSyncPeriod s = .next (((List.range 12).filter (fun p => (s.port p).up)).foldl (fun u p =>
      (u.modPort p (fun q => { q with syncs := q.syncs + 1 })).emit (.timeSync p)) s)) ∧
    (∀ master, s.holding = true → ahead s.now master = false →
      exec (.timeBaseAligned master) s = .next { s with holding := false, now := master % 2 ^ 48 }) ∧
    (∀ value master, s.cyl.enable = false → value / 2 ^ 31 % 2 = 1 → value / 2 ^ 30 % 2 = 0 →
      let u : State := { s with cyl := { s.cyl with enable := true, timeMaster := false, device := value % 2 ^ 10 } }
      u.allDisabled = true →
      (ahead master s.now = true → exec (.cylDomainWrite value master) s = .next ({ u with now := master % 2 ^ 48 } : State).pump) ∧
      (ahead master s.now = false → ahead s.now master = true →
        exec (.cylDomainWrite value master) s = .next ({ u with holding := true } : State).pump)) ∧
    (∀ value master, s.cyl.enable = true → value / 2 ^ 31 % 2 = 1 → exec (.cylDomainWrite value master) s =
      .next ({ s with cyl := { s.cyl with timeMaster := bit value 30 } } : State).pump) ∧
    (∀ dev value, dev < 1024 → exec (.cylRouteWrite dev value) s =
      .next ({ s with cyl := { s.cyl with routes := s.cyl.routes.set dev (value % 2 ^ 12) } } : State).pump) ∧
    (∀ port value, let u := s.modPort port (fun p => { p with upEn := bit value 0, encrypt := bit value 1 })
      exec (.cylPortCtrlWrite port value) s = .next (if (u.port port).up && !bit value 0 then u.portDown port else u))

/-- Of a channel that the PF programs (24 to 29): GO of an idle channel with a valid set of class 0 and a count starts a run of the whole
count, clears MISSED, and halts with 0x0202 where the set is invalid; STOP of a running channel halts it with 0x0401; arming the shadow set
of an idle channel that is not halted loads it; a write of a set that is in use is dropped and WRITE_DROP set, else the named field takes
its bits; DONE and WRITE_DROP clear by writing 1, unless they were set in the same nanosecond. DMA_SWQ_ADJ adds its signed value to the
level modulo 2^32 and the requests paced by it are evaluated on the sum. A timer whose phase the time base has reached triggers the class T
channels of its number. Channels that the PF does not program take none of the first four. -/
def Obligations.DmaRegistersAndStarts : Prop :=
  ∀ (s : State) (stack ch : Nat), let g := 32 * stack + ch
    let c := s.chan g
    (24 ≤ ch → ch < 30 →
      (c.running = false → let u := s.modChan g (fun c => { c with missed := 0 })
        (c.act.invalid (g / 32) = true → exec (.dmaGo stack ch) s = .next (u.haltChannel g 0x0202 0)) ∧
        (c.act.invalid (g / 32) = false → c.act.cls = 0 → c.halted = false → c.act.count ≠ 0 → exec (.dmaGo stack ch) s =
          .next (u.modChan g (fun d => d.run d.act.count (u.level (g / 32) c.act.paceSrc))))) ∧
      (c.running = true → exec (.dmaGo stack ch) s = .next s) ∧
      (c.running = true → exec (.dmaStop stack ch) s = .next (s.haltChannel g 0x0401 0)) ∧
      (c.running = true → exec (.dmaArmShadow stack ch) s = .next (s.modChan g (fun c => { c with shadowArmed := true }))) ∧
      (c.running = false → c.halted = false → exec (.dmaArmShadow stack ch) s =
        .next (((s.modChan g (fun c => { c with shadowArmed := true })).loadShadow g).modChan g (fun c => { c with missed := 0 }))) ∧
      (∀ off value, off < 0x20 → c.running = true → exec (.dmaRegWrite stack ch off value) s =
        .next ((s.modChan g (fun c => { c with writeDrop := true })).setNow (.dmaWriteDrop g))) ∧
      (∀ value, c.running = false → exec (.dmaRegWrite stack ch 0x10 value) s =
        .next (s.modChan g (fun c => { c with act := { c.act with count := value % 2 ^ 40 } }))) ∧
      (∀ value, c.shadowArmed = false → exec (.dmaRegWrite stack ch 0x20 value) s =
        .next (s.modChan g (fun c => { c with sh := { c.sh with src := value % 2 ^ 62 } }))) ∧
      (∀ value, exec (.dmaRegWrite stack ch 0x40 value) s = .next (s.modChan g (fun c =>
        { c with done := c.done && (!bit value 29 || s.fresh.contains (.dmaDone g)),
                 writeDrop := c.writeDrop && (!bit value 26 || s.fresh.contains (.dmaWriteDrop g)) })))) ∧
    ((ch < 24 ∨ 30 ≤ ch) → ∀ i ∈ [Instr.dmaGo stack ch, .dmaStop stack ch, .dmaArmShadow stack ch], exec i s = .next s) ∧
    (∀ q value, q < 8 → exec (.dmaSwqAdj stack q value) s =
      .next ((s.modDmaRegs stack (fun r =>
        { r with swq := r.swq.set q (signedOf 32 ((r.swq.get q 0 + signedOf 32 value) % 2 ^ 32).toNat) })).evalPace stack q)) ∧
    (∀ t, (s.dmaRegs stack).period.get t 0 ≠ 0 → s.now % (s.dmaRegs stack).period.get t 0 = (s.dmaRegs stack).phase.get t 0 →
      s.holding = false → exec (.dmaTimerFire stack t) s = .next (s.triggerAll stack t 32))

/-- A channel that is ready and whose turn its engine gives takes the turn, reserves its credit, and runs a burst of 64 × 2^BURST bytes, or
what is left, or what comes before a page that cannot be reached; one with a burst in progress carries it on. A run with nothing left to
write and no burst in progress ends: DONE is set, and its interrupt, the command's next segment or the shadow set, the trigger that was
held, and the trigger that its end of count is, follow in this order. A burst with a read or a write to a home that is unanswered 100 µs
after it was issued fails. After its backoff a burst starts again from its first byte. -/
def Obligations.DmaBurstsRun : Prop :=
  ∀ (s : State) (stack ch : Nat), let g := 32 * stack + ch
    let c := s.chan g
    (∀ ans, c.running = true → c.burst.isSome = true → exec (.dmaBurstStart stack ch ans) s = .next (s.runBurst g ans)) ∧
    (∀ ans, c.burst = none → c.ready = true → s.engineNext g = some g →
      let u := (({ s with dma := { s.dma with arb := s.dma.arb.set (g / 8) (g % 8) } } : State).reserve g (s.burstLen g))
      exec (.dmaBurstStart stack ch ans) s = .next ((u.modChan g (fun d =>
        { d with burst := some { bytes := s.burstLen g, readDone := false, sent := 0, writesIssued := false } })).runBurst g ans)) ∧
    (c.running = true → c.remain = 0 → c.burst = none →
      let u := ((s.modChan g (fun d => { d with running := false, done := true, asserted := false, triggerPending := false })).setNow
        (.dmaDone g)).endInterrupt g
      let held := fun (w : State) => (if c.triggerPending then w.triggerEach 32 [g] else w).endTrigger g
      (c.cmd.isSome = true → exec (.dmaEndOfCount stack ch) s = .next (held (u.segmentEnded g none))) ∧
      (c.cmd = none → c.shadowArmed = true → exec (.dmaEndOfCount stack ch) s = .next (held (u.loadShadow g))) ∧
      (c.cmd = none → c.shadowArmed = false → exec (.dmaEndOfCount stack ch) s = .next (held u))) ∧
    (∀ (b : Burst) (x : Txn) (isRead : Bool), c.burst = some b → c.running = true → x ∈ s.fab.txns → x.kind = .dma g isRead → 100000 ≤ s.since x.issued →
      exec (.dmaBurstTimeout stack ch) s = .next (s.burstFail g)) ∧
    (∀ t, c.retryAt = some t → c.running = true → elapsed t s.now < 2 ^ 47 → exec (.dmaRetryStart stack ch) s =
      .next (s.modChan g (fun d => { d with
        retryAt := none, burst := some { bytes := s.burstLen g, readDone := false, sent := 0, writesIssued := false } })))

/-- A write of PTR_CLASS_WEIGHT0 or 1 changes only the weights that the porter takes at the start of its next arbitration round:
the weight of class 4r + i becomes bits 8i + 7 to 8i of the value; the round in progress, its weights and what is left of it,
and every other porter, stay as they are. While a class that may be selected has a command left in the round, a selection changes
neither the weights in force nor those written; with none left a new round starts, by the model's choice (log entry 128), and it takes the
weights written. A class of weight 0 is selected only while no class of nonzero weight has a rung galley. -/
def Obligations.PorterWeightsTakeEffectAtTheNextRound : Prop :=
  (∀ (s : State) (stack reg value : Nat), reg < 2 →
    ∃ t, exec (.ptrClassWeightWrite stack reg value) s = .next t ∧ t = { s with porters := t.porters } ∧
      (∀ k, k ≠ stack → t.porter k = s.porter k) ∧
      (∀ i, i < 8 → (t.porter stack).nextWeights.getD i 1 =
        if i / 4 = reg then value / 2 ^ (8 * (i % 4)) % 2 ^ 8 else (s.porter stack).nextWeights.getD i 1) ∧
      t.porter stack = { s.porter stack with nextWeights := (t.porter stack).nextWeights }) ∧
  (∀ (p q : Porter) (rung ready : Nat → Bool) (c : Nat), p.nextClass rung ready = some (c, q) →
    ((∃ d, d < 8 ∧ ready d = true ∧ 0 < p.left.getD d 0) →
      q = { p with left := p.left.set c (p.left.getD c 0 - 1), lastClass := c }) ∧
    ((∀ d, d < 8 → ready d = true → p.left.getD d 0 = 0) →
      q.weights = p.nextWeights ∧ (q.left = p.nextWeights ∨ q.left = p.nextWeights.set c (p.nextWeights.getD c 0 - 1)) ∧
      (p.nextWeights.getD c 0 = 0 → ∀ d, d < 8 → rung d = true → p.nextWeights.getD d 0 = 0)))

/-- A write of HBM_SCRUB_PERIOD above 168, or of STN_SCRUB_PERIOD above 10,080, changes nothing. A valid value is held in the register
and changes the period of no pass in progress. A scrub of a sector that begins a new pass of its channel, or of a word that begins one of its
slice, puts the register's value in force for that channel or slice, and with it zero no pass runs; one within a pass keeps the period with
which the pass began, whatever was written since. -/
def Obligations.ScrubPeriodsTakeEffectAtTheNextPass : Prop :=
  ∀ (s : State) (stack value : Nat),
    (168 < value % 2 ^ 8 → exec (.scrubPeriodWrite stack true value) s = .next s) ∧
    (10080 < value % 2 ^ 16 → exec (.scrubPeriodWrite stack false value) s = .next s) ∧
    (value % 2 ^ 8 ≤ 168 → ∃ t, exec (.scrubPeriodWrite stack true value) s = .next t ∧
      t.hbmRegs stack = { s.hbmRegs stack with scrubHours := value % 2 ^ 8 } ∧ (∀ k, k ≠ stack → t.hbmRegs k = s.hbmRegs k) ∧
      ∀ ch, (t.channel ch).scrubHours = (s.channel ch).scrubHours) ∧
    (value % 2 ^ 16 ≤ 10080 → ∃ t, exec (.scrubPeriodWrite stack false value) s = .next t ∧
      t.stnRegs stack = { s.stnRegs stack with scrubMinutes := value % 2 ^ 16 } ∧ (∀ k, k ≠ stack → t.stnRegs k = s.stnRegs k) ∧
      ∀ col, (t.sliceAt col).scrubMinutes = (s.sliceAt col).scrubMinutes) ∧
    (s.rel.mode ≠ 2 →
      (∀ sector errs, let col := homeColumn (32 * sector)
        let place := channelAddr (32 * sector) / 32
        (newPass (s.channel col).scrubAt place = true → ∃ t, exec (.hbmScrubSector sector errs) s = .next t ∧
          (t.channel col).scrubHours = (s.hbmRegs (stackOf col)).scrubHours ∧
          ((s.hbmRegs (stackOf col)).scrubHours = 0 → (t.channel col).scrubAt = (s.channel col).scrubAt ∧ t.mem = s.mem)) ∧
        (newPass (s.channel col).scrubAt place = false → ∃ t, exec (.hbmScrubSector sector errs) s = .next t ∧
          (t.channel col).scrubHours = (s.channel col).scrubHours)) ∧
      (∀ col word flips, word < 8192 →
        (newPass (s.sliceAt col).scrubAt (2 ^ 60 + word) = true → ∃ t, exec (.stnScrubWord col word flips true) s = .next t ∧
          (t.sliceAt col).scrubMinutes = (s.stnRegs (stackOf col)).scrubMinutes ∧
          ((s.stnRegs (stackOf col)).scrubMinutes = 0 → (t.sliceAt col).scrubAt = (s.sliceAt col).scrubAt ∧ t.mem = s.mem)) ∧
        (newPass (s.sliceAt col).scrubAt (2 ^ 60 + word) = false → ∃ t, exec (.stnScrubWord col word flips true) s = .next t ∧
          (t.sliceAt col).scrubMinutes = (s.sliceAt col).scrubMinutes)))

/-- A write of QUANTUM_US below 100 changes nothing. A valid value becomes the quantum and changes no turn in progress; the next
turn of each pool cluster, whether the lodging that has it keeps it or another takes it, has that quantum. -/
def Obligations.QuantumWrites : Prop :=
  ∀ (s : State) (value : Nat),
    (value % 2 ^ 16 < 100 → exec (.lodSliceWrite value) s = .next s) ∧
    (100 ≤ value % 2 ^ 16 → ∃ t, exec (.lodSliceWrite value) s = .next t ∧ t = { s with quantumUs := value % 2 ^ 16 } ∧
      (∀ d, t.turn d = s.turn d) ∧ ∀ d credit l l', ((t.keepTurn d credit).turn d).quantum = value % 2 ^ 16 ∧
        ((t.switchTurn d l l' credit).turn d).quantum = value % 2 ^ 16)

/-- A write to QOS_CLASS_CFGk with CAP above 1,024 changes nothing. A valid write to QOS_CLASS_CFGk, or one to QOS_LEGACY_HIGH,
is held and leaves the settings in force as they are; at the next window boundary the settings held become those in force. -/
def Obligations.QosSettingsTakeEffectAtTheWindowBoundary : Prop :=
  ∀ (s : State) (k value : Nat),
    (k < 8 → 1024 < value / 2 ^ 8 % 2 ^ 11 → exec (.qosClassCfgWrite k value) s = .next s) ∧
    (k < 8 → value / 2 ^ 8 % 2 ^ 11 ≤ 1024 → exec (.qosClassCfgWrite k value) s =
      .next { s with qos := { s.qos with
        nextCap := s.qos.nextCap.set k (value / 2 ^ 8 % 2 ^ 11), nextBase := s.qos.nextBase.set k (value % 2 ^ 2) } }) ∧
    (exec (.qosClassCfgWrite 8 value) s = .next { s with qos := { s.qos with nextLegacy := value % 2 ^ 8 } }) ∧
    (s.now % 1000 = 0 → s.now ≠ s.qos.windowStart → ∃ t, exec .qosWindowBoundary s = .next t ∧
      t = { s with qos := t.qos } ∧ t.qos.cap = s.qos.nextCap ∧ t.qos.base = s.qos.nextBase ∧ t.qos.legacy = s.qos.nextLegacy ∧
      t.qos.windowStart = s.now)

/-- MXA_PROOF_TOL takes bits 5:0 from 8 to 40, else the write is ignored; the flip masks take their fields; PWR_LIMIT and
PWR_BRAKE take WATTS from 400 to 850, else keep it, and PWR_BRAKE.EVENT clears by writing 1 to bit 30, unless it was set in the same
nanosecond; THM_RELIEF takes START 70
to 95 and STOP from 60 to START − 3, else the write is ignored, and THM_PLACE takes BUSY_W, both from the next round on;
LAMP_CTRLj with ON_US above 1,000 is ignored, else takes its fields; INK_PMC_CFGi takes its fields and its counter becomes 0.
Nothing else changes. -/
def Obligations.PfRegisterWritesTakeTheirFields : Prop :=
  ∀ (s : State) (k value : Nat),
    (exec (.mxaProofTolWrite k value) s = .next
      (if 8 ≤ value % 2 ^ 6 ∧ value % 2 ^ 6 ≤ 40 then { s with mxaTol := s.mxaTol.set k (value % 2 ^ 6) } else s)) ∧
    (exec (.stnFlipMaskWrite k 0 value) s = .next (s.modStnRegs k (fun r => { r with flipLo := value % 2 ^ 32 }))) ∧
    (exec (.stnFlipMaskWrite k 1 value) s = .next (s.modStnRegs k (fun r => { r with flipMid := value % 2 ^ 32 }))) ∧
    (exec (.stnFlipMaskWrite k 2 value) s = .next (s.modStnRegs k (fun r =>
      { r with flipArm := bit value 31, flipSlice := value / 2 ^ 24 % 2 ^ 6, flipCheck := value % 2 ^ 8 }))) ∧
    (exec (.hbmFlipMaskWrite k value) s = .next (s.modHbmRegs k (fun r => { r with
      flipArm := bit value 31, flipChannel := value / 2 ^ 24 % 2 ^ 6, flipPattern := value / 2 ^ 16 % 2 ^ 8, flipHi := value % 2 ^ 4 }))) ∧
    (exec (.pwrLimitWrite false value) s = .next (if 400 ≤ value % 2 ^ 16 ∧ value % 2 ^ 16 ≤ 850
      then { s with pwr := { s.pwr with limit := value % 2 ^ 16 } } else s)) ∧
    (bit value 30 = false → exec (.pwrLimitWrite true value) s = .next (if 400 ≤ value % 2 ^ 16 ∧ value % 2 ^ 16 ≤ 850
      then { s with pwr := { s.pwr with brakeWatts := value % 2 ^ 16 } } else s)) ∧
    (bit value 30 = true → (400 > value % 2 ^ 16 ∨ value % 2 ^ 16 > 850) →
      (s.fresh.contains .brakeEvent = false → exec (.pwrLimitWrite true value) s = .next { s with pwr := { s.pwr with brakeEvent := false } }) ∧
      (s.fresh.contains .brakeEvent = true → exec (.pwrLimitWrite true value) s = .next s)) ∧
    (let start := value / 2 ^ 8 % 2 ^ 8
      let stop := value % 2 ^ 8
      exec (.thmReliefWrite false value) s = .next (if 70 ≤ start ∧ start ≤ 95 ∧ 60 ≤ stop ∧ stop + 3 ≤ start
        then { s with thm := { s.thm with nextStart := start, nextStop := stop } } else s)) ∧
    (exec (.thmReliefWrite true value) s = .next { s with thm := { s.thm with nextBusyW := value % 2 ^ 8 } }) ∧
    (value % 2 ^ 10 > 1000 → exec (.lampCtrlWrite k value) s = .next s) ∧
    (value % 2 ^ 10 ≤ 1000 → exec (.lampCtrlWrite k value) s = .next { s with brd := { s.brd with
      lamps := s.brd.lamps.mod k Lamp.reset (fun l =>
        { l with override := bit value 31, diagEn := bit value 30, onUs := value % 2 ^ 10 }) } }) ∧
    (exec (.inkPmcCfgWrite k value) s = .next { s with dbg := { s.dbg with
      pmcCfg := s.dbg.pmcCfg.set k
        { en := bit value 63, lodgingEn := bit value 62, layerEn := bit value 61, operEn := bit value 60,
          lodging := value / 2 ^ 52 % 2 ^ 8, event := value / 2 ^ 42 % 2 ^ 10, layer := value / 2 ^ 16 % 2 ^ 16, oper := value % 2 ^ 16 },
      pmcValue := s.dbg.pmcValue.set k 0 } })

/-- DBG_UNLOCK_CTRL without GO holds LEVEL; GO with level 0 or 3 checks no signature, grants nothing and reads 0x0202; GO that
succeeds grants the level; each GO draws a new nonce. DBG_LEDGER_SEL of a unit below 928, at a level granted, copies its ledger
with COUNT and BASE; at level 0 it is ignored. An MSI-X write sets the capability or a row of the table and releases what the
masks allow. A register write of a whole word that belongs to no other row's location writes that word; a poisoned one is only logged. A
configuration request before readiness is answered with Retry Status, and after it with the dword's value: what the spec gives of it, and any
bits beside. -/
def Obligations.DebugAndConfigurationCommands : Prop :=
  ∀ (s : State),
    (∀ value, bit value 31 = false →
      exec (.dbgUnlockGo value) s = .next { s with unlock := { s.unlock with level := value % 2 ^ 2 } }) ∧
    (∀ value, bit value 31 = true → (value % 2 ^ 2 = 0 ∨ value % 2 ^ 2 = 3) →
      exec (.dbgUnlockGo value) s =
        .next ({ s with unlock := { s.unlock with result := 0x0202, level := value % 2 ^ 2 } } : State).drawNonce.takeFree) ∧
    (∀ value, bit value 31 = true → (value % 2 ^ 2 = 1 ∨ (value % 2 ^ 2 = 2 ∧ ∀ e ∈ s.lods, e.2.state = .absent)) →
      s.unlock.locked = false → Config.debugSignatureOk (s.unlock.message (value % 2 ^ 2)) s.unlock.response = true →
      exec (.dbgUnlockGo value) s = .next ({ s with unlock := { s.unlock with
        result := 0, granted := max s.unlock.granted (value % 2 ^ 2), level := value % 2 ^ 2 } } : State).drawNonce.takeFree) ∧
    (∀ value, s.unlock.granted ≠ 0 → value % 2 ^ 12 < 928 →
      let l := s.ledger (value % 2 ^ 12)
      exec (.dbgLedgerSel value) s = .next { s with dbg := { s.dbg with
        copyCount := l.entries.length, copyBase := l.base, copyData := l.entries.reverse } }) ∧
    (∀ value, s.unlock.granted = 0 → exec (.dbgLedgerSel value) s = .next s) ∧
    (∀ fn enable mask, exec (.msixControlWrite fn (.capability enable mask)) s =
      .next (({ s with msix := s.msix.set (fnKey fn) { s.msixFn (fnKey fn) with enable := enable, functionMask := mask } } :
        State).releasePending (fnKey fn))) ∧
    (∀ fn vector addr data masked, vector < 64 → exec (.msixControlWrite fn (.entry vector addr data masked)) s =
      .next (({ s with msix := s.msix.set (fnKey fn) { s.msixFn (fnKey fn) with
        vectors := (s.msixFn (fnKey fn)).vectors.mod vector MsixVec.reset (fun r =>
          { r with addr := addr % 2 ^ 64, data := data % 2 ^ 32, masked := masked }) } } : State).releasePending (fnKey fn))) ∧
    (∀ off value, off % 4 = 0 → off < 0x12100 ∨ 0x12140 ≤ off → value < 2 ^ 32 →
      exec (.registerWrite .pf off 4 value false) s = .next (s.writeWordAt .pf off value (2 ^ 32 - 1))) ∧
    (∀ n off value, off % 4 = 0 → (0x2000 ≤ off ∧ off < 0x2008) ∨ (0x2010 ≤ off ∧ off < 0x2100) ∨ (0x2140 ≤ off ∧ off < 0x8000) →
      value < 2 ^ 32 → exec (.registerWrite (.vf n) off 4 value false) s = .next (s.writeWordAt (.vf n) off value (2 ^ 32 - 1))) ∧
    (∀ fn off width value, exec (.registerWrite fn off width value true) s = .next { s with out := s.out ++ [.aer (fnKey fn) 1] }) ∧
    (∀ fn reg, s.brd.ready = false → exec (.configRequest fn reg) s = .next { s with out := s.out ++ [.configRetry (fnKey fn)] }) ∧
    (∀ fn reg, s.brd.ready = true → let w := s.configWord fn reg
      ∃ v t, exec (.configRequest fn reg) s = .next t ∧ t.out = s.out ++ [.configData (fnKey fn) reg v] ∧ v &&& w.2 = w.1 &&& w.2 ∧
        t = { s with out := t.out, freeAt := t.freeAt } ∧ (w.2 = 2 ^ 32 - 1 → t.freeAt = s.freeAt))

/-- A pool cluster with no lodging, or whose quantum has passed: with one lodging that wants it, that one takes or keeps it; with several,
the one that smooth weighted round robin names. A request that has waited 4 µs, or a transfer that has waited 4 µs at its Cytil port, is
raised by age once, and AGE_RAISES counts it. A flow with its floor missed in 1,000 windows in a row has a level 5 breach opened, and with
it met in 1,000 closed. A level 6 breach closes after 1 ms without a late completion. -/
def Obligations.RegulationCommandsRun : Prop :=
  ∀ (s : State),
    (∀ d, let t := s.turn d
      let holder := s.turnHolder d
      let ws := (s.sharers d).filter (fun x => s.wantsTurn x.1)
      (holder = none ∨ 1000 * t.quantum ≤ s.since t.since) →
      (∀ w, ws = [w] → (holder = some w.1 → exec (.turnEnd d) s = .next (s.keepTurn d t.credit)) ∧
        (holder ≠ some w.1 → exec (.turnEnd d) s = .next (s.switchTurn d holder w.1 t.credit))) ∧
      (∀ v w r b credit, ws = v :: w :: r → nextTurn t.credit ws = some (b, credit) →
        (holder = some b → exec (.turnEnd d) s = .next (s.keepTurn d credit)) ∧
        (holder ≠ some b → exec (.turnEnd d) s = .next (s.switchTurn d holder b credit)))) ∧
    (∀ req, (∃ q ∈ s.qos.queue, q.id = req ∧ q.aged = false ∧ 4000 ≤ s.since q.since) ∨
        (∃ x ∈ s.cyl.waiting, x.req = req ∧ x.aged = false ∧ 4000 ≤ s.since x.sentAt) → exec (.requestAgeRaise req) s =
      .next { s with
        qos := { s.qos with
          queue := s.qos.queue.map (fun (q : QReq) => if q.id = req then { q with aged := true } else q),
          ageRaises := (s.qos.ageRaises + 1) % 2 ^ 32 },
        cyl := { s.cyl with waiting := s.cyl.waiting.map (fun (x : SentXfer) => if x.req = req then { x with aged := true } else x) } }) ∧
    (∀ lod res cls, let f := s.qos.flow res lod cls
      let floor := s.floorBytes res lod cls
      (1000 ≤ f.missedWindows → exec (.floorBreach lod res cls) s = .next
        (s.setBreach lod 5 (8 * res + cls) (if floor = 0 then 1024 else min 1024 (1024 * f.last / floor)) true)) ∧
      (f.missedWindows < 1000 → 1000 ≤ f.metWindows →
        exec (.floorBreach lod res cls) s = .next (s.setBreach lod 5 (8 * res + cls) 1024 false))) ∧
    (∀ lod, (s.lod lod).breaches.contains (6, 6) = true → 1000000 ≤ s.since (s.lod lod).lastLate →
      exec (.latencyBreachClose lod) s = .next (s.setBreach lod 6 6 0 false))

/-- The waiting domain that is served next goes to RAMP when its declared step is admitted, and its step is noted; 20 µs later
it is ON with no failures. A cluster domain that has been idle for the idle time is switched off. An overcurrent of a domain in
RAMP or ON switches it off and records it, the third in a row as FAILED, any other to be retried 1 ms later; then it waits for a
wake again. A phase that fails asks for a takeover while N are left, else a loss stands. An open sense path, and 48 of the last
64 load steps with excess droop, cap the domain and note its columns. A fault of none of the fifty domains changes nothing. -/
def Obligations.DomainsWakeFailAndGate : Prop :=
  ∀ (s : State) (d : Nat), let x := s.domain d
    (s.nextWake = some d → s.wakeAdmitted (declaredStep d) = true →
      let u := (s.noteWake (declaredStep d)).modDomain d (fun x => { x with state := .ramp, rampStart := s.now })
      exec (.domainWake d) s = .next { u with pwr := { u.pwr with wakeQueue := u.pwr.wakeQueue.filter (· != d) } }) ∧
    (x.state = .ramp → 20000 ≤ s.since x.rampStart → exec (.rampComplete d) s =
      .next (s.modDomain d (fun x => { x with state := .on, fails := 0, busyAt := s.now }))) ∧
    (d < 32 → x.state = .on → s.pwr.idleGateUs ≠ 0 → s.clusterBusy d = false → s.expired x.busyAt (1000 * s.pwr.idleGateUs) = true →
      exec (.idleGateExpiry d) s = .next (s.switchOff d)) ∧
    (d < 49 → (x.state = .ramp ∨ x.state = .on) →
      let u := s.log (unitRegulator d) 0x0C (x.fails + 1) 0 0
      let v := (if x.state = .on then u.domainStops d else u).switchOff d
      (x.fails < 2 → exec (.regulatorOvercurrent d) s =
        .next (v.modDomain d (fun y => { y with fails := x.fails + 1, retryAt := some ((v.now + 1000000) % 2 ^ 48) }))) ∧
      (2 ≤ x.fails → exec (.regulatorOvercurrent d) s =
        .next ((v.modDomain d (fun y => { y with state := .failed, fails := 3, retryAt := none })).domainFailed d))) ∧
    (∀ t, x.state = .off → x.retryAt = some t → s.passed (some t) = true → exec (.hiccupRetry d) s =
      .next ((s.modDomain d (fun x => { x with retryAt := none })).queueWake d)) ∧
    (∀ n, d < 50 → x.phasesOk = n + 1 → let u := s.modDomain d (fun x => { x with phasesOk := n })
      (Domain.phases d ≤ n → exec (.phaseFail d) s = .next (u.askTakeover
        { kind := .phase, stack := regulatorStack d, place := d, bank := n, row := 0, asked := u.now, started := none })) ∧
      (n < Domain.phases d → exec (.phaseFail d) s = .next u.noteLoss)) ∧
    (∀ mv, d < 50 → 50 < mv → exec (.sensePathOpen d mv) s =
      .next ((s.modDomain d (fun x => { x with localSense := true, capped := true })).noteColumns (domainColumns d))) ∧
    (50 ≤ d → exec (.phaseFail d) s = .next s ∧ (∀ mv, exec (.sensePathOpen d mv) s = .next s) ∧
      ∀ steps, exec (.crackedConnection d steps) s = .next s) ∧
    (∀ steps, let xs := (steps.filter (fun x => decide (x.1 ≥ 5))).take 64
      d < 50 → xs.length = 64 → 48 ≤ xs.countP (excessDroop d) → x.cracked = false → exec (.crackedConnection d steps) s =
      .next (((s.modDomain d (fun x => { x with cracked := true, capped := true })).log (unitRegulator d) 0x0B 0 0 0).noteColumns
        (domainColumns d)))

/-- A sample joins the last 1,000; before configuration readiness nothing else happens. From then on VIN_PKG above 500 A lowers
FRAC by 4, not below 8, and the procedure of R361 sets FRAC, the memory capacity and SOURCE, and counts in PWR_LIMIT_EVENTS when
it lowers; every command with work on a stack above 335 A takes the notice 0x0103. The first assertion of the brake from start-
up step 3 on lowers FRAC in one step in the ratio of PWR_BRAKE to the last sample, not below 8, and sets EVENT; its release
takes its term from the limit. -/
def Obligations.LimiterAndBrake : Prop :=
  ∀ (s : State),
    (∀ mw vin rise dies, s.pwr.frac = 0 → exec (.powerLimiterUpdate mw vin rise dies) s =
      .next { s with pwr := { s.pwr with samples := (mw :: s.pwr.samples).take 1000 } }) ∧
    (∀ mw vin rise dies, s.pwr.frac ≠ 0 → s.brd.dead = false →
      let u : State := { s with pwr := { s.pwr with samples := (mw :: s.pwr.samples).take 1000 } }
      let frac := if 500000 < vin then max 8 (s.pwr.frac - 4) else s.pwr.frac
      let r := limiterStep frac s.pwr.memCap u.pwr.samples.sum u.pwr.samples.length mw u.effectiveLimit
        (decide (vin ≤ 500000) && u.nextWake.isNone && u.wakeAdmitted rise)
      let w := if r.raised then u.noteWake rise else u
      exec (.powerLimiterUpdate mw vin rise dies) s = .next (({ w with pwr := { w.pwr with
        frac := r.frac, memCap := r.memCap, source := if r.frac = 64 ∧ r.memCap = 8 then 0 else w.limitSource,
        limitEvents := if r.lowered then (w.pwr.limitEvents + 1) % 2 ^ 32 else w.pwr.limitEvents } } : State).noteRates.noteStretch dies
        |>.countStretch dies)) ∧
    (s.pwr.brakeAsserted = false → 3 ≤ s.brd.startStep →
      (∀ inst r, s.pwr.samples = inst :: r → inst ≠ 0 → s.pwr.frac ≠ 0 → exec .brakeAssert s = .next (({ s with pwr := { s.pwr with
        brakeAsserted := true, brakeEvent := true,
        frac := max 8 (min s.pwr.frac (s.pwr.frac * (1000 * s.pwr.brakeWatts) / inst)) } } : State).setNow .brakeEvent).noteRates) ∧
      (s.pwr.frac = 0 → exec .brakeAssert s =
        .next (({ s with pwr := { s.pwr with brakeAsserted := true, brakeEvent := true } } : State).setNow .brakeEvent).noteRates)) ∧
    exec .brakeRelease s = .next { s with pwr := { s.pwr with brakeAsserted := false } }

/-- From start-up step 1 until firmware runs, a round counts the locations at their maximum and makes a trip due; with firmware
and no failover, a round that is due takes the THM_RELIEF and THM_PLACE values written as those in force, with the counts of
R375 as they stand, is evaluated, and the next one falls due. A write of THM_RELIEF that leaves a field outside its range, or
STOP above START − 3, changes nothing; a valid one, or one of THM_PLACE, is held for the next round. THERM_N is released after
100 cool rounds in a row unless a trip holds it. A sensor found broken and not yet reported is declared, counted as a spent
spare, and entered in its ledger as 0x0F. A due trip asserts THERM_N and switches everything off, once. -/
def Obligations.ThermalCommandsRun : Prop :=
  ∀ (s : State),
    (∀ r, 1 ≤ s.brd.startStep →
      (s.ink.firmwareRuns = false → let counts := maxCounts s.thm.maxRounds (rawLocs r)
        exec (.housekeepingRound r) s = .next { s with thm := { s.thm with
          maxRounds := counts,
          tripDue := s.thm.tripDue || (rawLocs r).any (·.trips) || counts.any (fun e => decide (e.2 ≥ 50)) } }) ∧
      (s.ink.firmwareRuns = true → s.ink.failoverAt = none → s.passed (some s.ink.roundDue) = true →
        let u : State := { s with thm := { s.thm with start := s.thm.nextStart, stop := s.thm.nextStop, busyW := s.thm.nextBusyW } }
        let v := u.roundVals r
        let p := (u.keepReadings r v).decidePlacement r v
        exec (.housekeepingRound r) s = .next ((((p.1.decideLimits v p.2).publishDies v).removeBlind v).takeFree).roundDone)) ∧
    (∀ value, let start := value / 2 ^ 8 % 2 ^ 8
      let stop := value % 2 ^ 8
      (start < 70 ∨ 95 < start ∨ stop < 60 ∨ start < stop + 3 → exec (.thmReliefWrite false value) s = .next s) ∧
      (70 ≤ start → start ≤ 95 → 60 ≤ stop → stop + 3 ≤ start → exec (.thmReliefWrite false value) s =
        .next { s with thm := { s.thm with nextStart := start, nextStop := stop } }) ∧
      exec (.thmReliefWrite true value) s = .next { s with thm := { s.thm with nextBusyW := stop } }) ∧
    (s.thm.therm = true → 100 ≤ s.thm.coolRounds → s.thm.tripped = false →
      exec .thermNRelease s = .next { s with thm := { s.thm with therm := false } }) ∧
    (∀ n, s.thm.broken.contains n = true → s.thm.reported.contains n = false →
      let u : State := { s with
        thm := { s.thm with broken := insertNew s.thm.broken n, reported := s.thm.reported ++ [n] },
        rel := { s.rel with spentSensors := s.rel.spentSensors + 1 } }
      exec (.sensorBroken n) s = .next (u.log (unitHousekeeping (sensorStack n)) 0x0F 0 0 0)) ∧
    (s.thm.tripDue = true → s.thm.tripped = false →
      exec .supervisorTrip s = .next ({ s with thm := { s.thm with tripped := true, therm := true } } : State).allOff)

/-- A takeover that is the next of its stack begins where its spare is left; with the spare spent, the column loses its core,
the row's bank asks for the spare bank, the slice is retired, or the channel is retired. While a lane is remapped the channel's
requests are held. The completion of the takeover that runs in a stack finishes it by its kind; a spare phase is taken over in
one step. A rescue trigger that is due enters rescue mode with its cause. -/
def Obligations.TakeoversRun : Prop :=
  ∀ (s : State),
    (∀ col t, s.startable .core col 0 0 = some t → exec (.coreTakeover col) s = .next
      (if s.rel.spareSpent.contains (clusterOf col) then (s.dropTakeover t).loseCore col else s.beginTakeover t)) ∧
    (∀ col bank row t, s.startable .row col bank row = some t → exec (.rowTakeover col bank row) s = .next
      (if (s.sliceAt col).rowsUsed bank < 32 then s.beginTakeover t else (s.dropTakeover t).askBank col bank)) ∧
    (∀ col bank t, s.startable .bank col bank 0 = some t → exec (.bankTakeover col bank) s = .next
      (if (s.sliceAt col).spareBank then (s.dropTakeover t).retireSlice col else s.beginTakeover t)) ∧
    (∀ ch t, s.startable .hbmLane ch 0 0 = some t →
      exec (.hbmLaneRemap ch true) s = .next ((s.beginTakeover t).modChannel ch (fun c => { c with repairing := true })) ∧
      exec (.hbmLaneRemap ch false) s = .next ((s.dropTakeover t).retireChannel ch)) ∧
    (∀ k t ok, s.running k = some t →
      (t.kind = .core → 10000 ≤ s.since (t.started.getD 0) → exec (.takeoverCompleted k true) s =
        .next ((s.takeColumn t.place).endTakeover t)) ∧
      (t.kind = .row → exec (.takeoverCompleted k true) s = .next ((s.takeRow t.place t.bank t.row).endTakeover t)) ∧
      (t.kind = .bank → 32768 ≤ s.since (t.started.getD 0) → exec (.takeoverCompleted k true) s =
        .next ((s.takeBank t.place t.bank).endTakeover t)) ∧
      (t.kind = .hbmLane → exec (.takeoverCompleted k false) s = .next ((s.dropTakeover t).retireChannel t.place)) ∧
      exec (.takeoverCompleted k ok) s = .next (s.finishTakeover t ok)) ∧
    (∀ k t ok, s.running k = none → s.nextTakeover k = some t → t.kind = .phase → s.takeoversOpen = true →
      exec (.takeoverCompleted k ok) s = .next ((s.beginTakeover t).endTakeover { t with started := some s.now })) ∧
    (∀ c, s.rel.rescueDue = some c → exec .rescueEntry s = .next (s.enterRescue c))

/-- With a pair left and one standby, a failover ends every mailbox operation in progress with 0x0501, starts, and is entered in the ledger;
with the last pair a trip is due. Its completion makes the standby active and answers what waited, once no higher duty is due (what is due:
the model's choice, log entry 150). Every 1 ms a checkpoint, at each telemetry interval, once no higher duty is due, a snapshot. A round
more than 5 ms late sets the 600 W hold, and ten rounds on time release it. Above 900 thousandths of a window spent the shed level rises to
at most 7, below 600 it falls. The fuses follow the booted SVN, the repair log its oldest waiting entry, once a round permits. PLDM and SPDM
requests on a transport that is up are answered, after those that waited, or wait for a higher duty. -/
def Obligations.InnkeeperCommandsRun : Prop :=
  ∀ (s : State),
    (s.ink.firmwareRuns = true → s.ink.pairsLeft = 1 → exec .innkeeperFailover s = .next { s with
      ink := { s.ink with pairsLeft := 0, standbyReady := false }, thm := { s.thm with tripDue := true } }) ∧
    (s.ink.firmwareRuns = true → 2 ≤ s.ink.pairsLeft →
      let u : State := s.mailOps.foldl (fun (s : State) (e : Nat × AdminOp) => s.failOp e.1 e.2) s
      exec .innkeeperFailover s = .next (({ u with ink := { u.ink with
        pairsLeft := 1, standbyReady := false, failoverAt := some u.now } } : State).log unitInnkeeper 0x0D innkeeperKind 0 0)) ∧
    (s.ink.failoverAt.isSome = true →
      let u : State := { s with ink := { s.ink with
        failoverAt := none, activeStack2 := true, roundDue := s.nextRoundDue, onTime := 0,
        carried := s.ink.carried.filter (fun (e : Nat × AdminOp) => e.2.opcode != 0x0F04 && e.2.opcode != 0x0F08) } }
      let u := u.log unitInnkeeper 0x0E innkeeperKind 0 0
      let u : State := { u with rel := { u.rel with takeovers := (u.rel.takeovers + 1) % 2 ^ 32 } }
      let u := u.raise 256 1
      (u.higherDuty = true → exec .failoverComplete s = .next u) ∧
      (u.higherDuty = false → exec .failoverComplete s = .next (u.ink.pldmWaiting.foldl (fun (v : State) (x : Nat × List Byte × Bool) =>
        v.pldmImage x.1 x.2.1 x.2.2) (u.ink.replies.foldl (fun (v : State) (r : Nat × List Nat) => v.emit (.mctp r.1 r.2))
          { u with ink := { u.ink with replies := [], pldmWaiting := [] } })))) ∧
    (s.ink.firmwareRuns = true → s.ink.failoverAt = none →
      (1000000 ≤ s.since s.ink.checkpointAt → exec .innkeeperCheckpoint s =
        .next { s with ink := { s.ink with checkpointAt := s.now, standbyReady := decide (s.ink.pairsLeft = 2) } }) ∧
      (s.telemetryWaits = false → telemetryInterval s.ink.shedLevel ≤ s.since s.ink.snapshotAt → exec .telemetrySnapshot s = .next { s with ink := { s.ink with
        snapshot := s.snapshotBytes, snapshotAt := s.now, pldmTemps := s.thm.locTemp, pldmPower := s.pwr.inputMw } })) ∧
    (s.ink.firmwareRuns = true → s.ink.supervisorHold = false → 5000000 < s.policyLateness → exec .supervisorHold s =
      .next { s with ink := { s.ink with
        supervisorHold := true, supervisorEvents := (s.ink.supervisorEvents + 1) % 2 ^ 32, onTime := 0 } }) ∧
    (s.ink.supervisorHold = true → 10 ≤ s.ink.onTime →
      exec .supervisorRelease s = .next { s with ink := { s.ink with supervisorHold := false } }) ∧
    (∀ p, let n := if 900 < p then min (s.ink.shedLevel + 1) 7 else if p < 600 then s.ink.shedLevel - 1 else s.ink.shedLevel
      exec (.shedWindow p) s = .next { s with ink := { s.ink with shedLevel := n } }) ∧
    (s.brd.ready = true → s.ink.fusedSvn < s.ink.bootSvn → s.thm.rounds ≠ 0 → s.dieOutside = none →
      exec .antiRollbackFuse s = .next { s with ink := { s.ink with fusedSvn := s.ink.bootSvn } }) ∧
    (∀ e r, s.ink.repairWaiting = e :: r → s.dieOutside = none → s.thm.rounds ≠ 0 → exec .repairLogWrite s =
      .next { s with ink := { s.ink with repairLog := s.ink.repairLog ++ [e], repairWaiting := r } }) ∧
    (s.ink.firmwareRuns = true → ∀ tr, s.transportUp tr = true →
      (s.ink.failoverAt = none → s.higherDuty = false → s.ink.replies = [] → s.ink.pldmWaiting = [] →
        (∀ xs, exec (.pldmPlatformRequest tr xs) s = .next ({ s with out := s.out ++ [.mctp tr (xs.map (fun k => s.sensorNum k))] } :
          State).takeFree) ∧
        (∀ img ok, s.romWaits = false → exec (.pldmFirmwareUpdate tr img ok) s = .next (s.pldmImage tr img ok)) ∧
        (∀ kind nonce, exec (.spdmRequest tr kind nonce) s = .next { s with out := s.out ++ [.mctp tr
          (Config.mctpReply kind (nonce ++ (if kind = 2 then s.measured else [])))] })) ∧
      ((s.ink.failoverAt.isSome = true ∨ s.higherDuty = true) →
        (∀ xs, exec (.pldmPlatformRequest tr xs) s = .next ({ s with ink := { s.ink with
          replies := s.ink.replies ++ [(tr, xs.map (fun k => s.sensorNum k))] } } : State).takeFree) ∧
        (∀ img ok, s.romWaits = false → exec (.pldmFirmwareUpdate tr img ok) s = .next { s with ink := { s.ink with
          pldmWaiting := s.ink.pldmWaiting ++ [(tr, img, ok)] } }) ∧
        (∀ kind nonce, exec (.spdmRequest tr kind nonce) s = .next { s with ink := { s.ink with replies := s.ink.replies ++ [(tr,
          Config.mctpReply kind (nonce ++ (if kind = 2 then s.measured else [])))] } })))

/-- In a lodging with a trace region: a header update writes the writer's two counts, little endian, at its quarter; a writer whose buffer
has no room drops the records that follow, and with room again and records dropped it writes one record of type 5 with their number. An
enabled counter that is assigned to a lodging is sampled once at a multiple of the period, into the lodging's trace. A host read completion
with data writes the load's destination and host memory; with EP the load is poisoned; an Unsupported Request halts the group with 0x0301; a
timeout or a Completer Abort delivers poison; each of the four is logged by the function that the read served. A host AtomicOp completion
with data delivers the old value and host memory holds the result. -/
def Obligations.TraceSamplesAndHostCompletions : Prop :=
  ∀ (s : State),
    (∀ lod k c, s.traceRegion lod = some c →
      let w := (s.lod lod).writer k
      let u := s.writeRange lod (c.traceBase + k * c.quarterBytes) (leBytes 8 w.written ++ leBytes 8 w.dropped) false (0, 0)
      exec (.traceHeaderUpdate lod k) s = .next (u.modLod lod (fun x => { x with trace := x.trace.set k { w with shown := w.written } })) ∧
      (let n := w.sinceDrop
       let v := s.putTrace lod k (traceBytes s.now 5 k 0 0 0 0 0 0 n)
       let set := fun (z : State) (full : Bool) (since : Nat) => z.modLod lod (fun x => { x with
         trace := x.trace.mod k TraceWriter.reset (fun (y : TraceWriter) => { y with full := full, sinceDrop := since }) })
       (n ≠ 0 → exec (.traceDropRecord lod k true) s = .next (set v false 0)) ∧
       (n = 0 → exec (.traceDropRecord lod k true) s = .next (set s false 0)) ∧
       (exec (.traceDropRecord lod k false) s = .next (s.modLod lod (fun x => { x with
         trace := x.trace.mod k TraceWriter.reset (fun (y : TraceWriter) => { y with full := true }) }))))) ∧
    (∀ i, let c := s.dbg.pmcCfg.get i PmcCfg.reset
      let u : State := { s with dbg := { s.dbg with pmcSampled := s.dbg.pmcSampled.set i s.now } }
      s.dbg.pmcPeriod ≠ 0 → s.now % (1000 * s.dbg.pmcPeriod) = 0 → c.en = true → c.lodgingEn = true →
      s.dbg.pmcSampled.any (fun e => e.1 == i && e.2 == s.now) = false →
      (u.traceRegion c.lodging = none → exec (.pmcSample i) s = .next u) ∧
      (∀ r, u.traceRegion c.lodging = some r → exec (.pmcSample i) s = .next (u.trace c.lodging (i / 512) (u.sampleRecord i)))) ∧
    (∀ id t blk grp thr dst n bytes, s.txn? id = some t → t.kind = .load blk grp thr dst n → placeOf t.addr = .host →
      let log := fun (code : Nat) => ({ s with out := s.out ++ [.aer (if t.lod < 256 then t.lod else 256) code] } : State)
      let u := s.addBytes (0x408 / 8) n
      exec (.hostReadCompletion id .data bytes) s = .next
        (({ u with mem := u.mem.put t.addr (slice bytes 0 n) } : State).loadArrives t (slice bytes 0 n) false) ∧
      exec (.hostReadCompletion id .ep bytes) s = .next (((log 1).addBytes (0x408 / 8) n).loadArrives t (slice bytes 0 n) true) ∧
      exec (.hostReadCompletion id .unsupported bytes) s = .next ((log 2).haltAccess t 0x0301 0xFFFE) ∧
      exec (.hostReadCompletion id .abort bytes) s = .next ((log 3).loadArrives t (s.mem.read t.addr n) true) ∧
      exec (.completionTimeout id) s = .next ((log 4).loadArrives t (s.mem.read t.addr n) true)) ∧
    (∀ id t blk grp thr a old, s.txn? id = some t → t.kind = .hostAtomic blk grp thr a → a.bad = false →
      exec (.hostAtomicCompletion id .data old) s = .next
        (({ s with mem := s.mem.put t.addr (leBytes a.size (atomApply a.op a.size (old % 2 ^ (8 * a.size)) a.src a.cmp)) } : State).atomicArrives
          t (old % 2 ^ (8 * a.size)) false) ∧
      exec (.hostAtomicCompletion id .unsupported old) s =
        .next (({ s with out := s.out ++ [.aer (if t.lod < 256 then t.lod else 256) 2] } : State).haltAccess t 0x0301 0xFFFE))

/-- COLD_START leaves the reset state but for what the queue, host memory, flash, fuses and the board's pins hold. Each start-up
step follows when what it waits for is there: step 1, firmware from a valid slot with PKG_EN, the wakes, HBM_EN once all soft
starts are over, the HBM4 rails, the repair log, the valid bitmap cleared, and the end. A rail not in range in its time, or one
that leaves it, switches everything off and names the rail. PERST_N, the loss of REFCLK and the loss of the link clock have the
effects of R437 and R439 on the link and the ports, and their return lets them train again. A link comes up with PD48 ON and
PERST_N released; start-up step 8 and the link make configuration ready. A lamp's period of less than 20 µs diagnoses nothing; a
longer one with a sink current below 2 mA counts one more failing diagnosis, any other clears the count and OPEN; two in a row
set OPEN and OPEN_EVENT; more than 200 mA turns an output that is on off and sets SHORT. -/
def Obligations.BoardCommandsRun : Prop :=
  ∀ (s : State), let b := s.brd
    exec .coldStart s = .next s.coldStarted ∧
    (let u := s.allOff
     exec .sysRstAssert s = .next { u with
       brd := { u.brd with pkgEn := false, hbmEn := false, sysRstLow := true, starting := false },
       ink := { u.ink with firmwareRuns := false } }) ∧
    (b.starting = true → b.sysRstLow = false → b.dead = false →
      (∀ v0 v1, (b.startStep = 0 ∨ b.startStep = 4) → exec (.startupStep v0 v1) s =
        .next { s with brd := { b with startStep := b.startStep + 1 } }) ∧
      (∀ v0 v1 i, b.startStep = 1 → s.bootChoice v0 v1 = some i → exec (.startupStep v0 v1) s = .next { s with
        brd := { b with startStep := 2, pkgEn := true },
        ink := { s.ink with
          firmwareRuns := true, bootSlot := i, bootSvn := field ((s.ink.slots.getD i Slot.reset).image) 4 4 % 2 ^ 7,
          roundDue := (s.now + 1000000) % 2 ^ 48, checkpointAt := s.now, snapshotAt := s.now } }) ∧
      (∀ v0 v1, b.startStep = 1 → s.bootChoice v0 v1 = none →
        exec (.startupStep v0 v1) s = .next { s with brd := { b with starting := false } }) ∧
      (∀ v0 v1, b.startStep = 2 → exec (.startupStep v0 v1) s = .next { s with
        pwr := { s.pwr with wakeQueue := (List.range 49).foldl insertNew s.pwr.wakeQueue }, brd := { b with startStep := 3 } }) ∧
      (∀ v0 v1, b.startStep = 3 → s.softStarted = true →
        exec (.startupStep v0 v1) s = .next { s with brd := { b with hbmEn := true, startStep := 4 } }) ∧
      (∀ v0 v1, b.startStep = 5 →
        let u := s.ink.repairLog.foldl (fun (v : State) (e : Nat × Nat) => v.applyRepair e) s
        exec (.startupStep v0 v1) s = .next { u with brd := { u.brd with startStep := 6 } }) ∧
      (∀ v0 v1, b.startStep = 6 → exec (.startupStep v0 v1) s =
        .next { s with hbm := { s.hbm with valid := [] }, brd := { b with startStep := 7 } }) ∧
      (∀ v0 v1, b.startStep = 7 → exec (.startupStep v0 v1) s = .next { s with brd := { b with starting := false, startStep := 8 } })) ∧
    (∀ rail, b.starting = true → ((rail = 1 ∧ b.startStep = 2) ∨ ((rail = 2 ∨ rail = 3) ∧ b.startStep = 4)) →
      let u := s.allOff
      exec (.startFail rail) s = .next { u with brd := { u.brd with
        starting := false, pkgEn := false, hbmEn := false, startFail := true, faultRail := rail } }) ∧
    (∀ rail, b.dead = false → ((rail = 1 ∧ 3 ≤ b.startStep) ∨ ((rail = 2 ∨ rail = 3) ∧ 5 ≤ b.startStep)) →
      let u := s.allOff
      exec (.railFault rail) s = .next { u with brd := { u.brd with
        starting := false, pkgEn := false, hbmEn := false, railFault := true, faultRail := rail } }) ∧
    (b.perst = false → let u := s.fundamentalReset
      exec .perstAssert s = .next { u with brd := { u.brd with perst := true } }) ∧
    exec .perstRelease s = .next { s with brd := { b with perst := false } } ∧
    (b.refclk = true → let u := if b.perst then s else s.fundamentalReset
      exec .refclkLoss s = .next { u with brd := { u.brd with refclk := false, refclkPerst := true } }) ∧
    exec .refclkReturn s = .next { s with brd := { b with refclk := true, refclkPerst := false } } ∧
    (let u := s.allPortsDown
     exec .linkRefclkLoss s = .next { u with brd := { u.brd with linkRefclk := false } }) ∧
    exec .linkRefclkReturn s = .next { s with brd := { b with linkRefclk := true } } ∧
    exec .xtalLoss s = .next { s with brd := { b with xtalLost := true } } ∧
    (∀ rate width, (s.domain 48).state = .on → b.perst = false → b.refclkPerst = false → b.dead = false →
      rate ∈ [64, 32, 16] → width ∈ [16, 8, 4] →
      exec (.pcieLinkUp rate width) s = .next { s with brd := { b with linkUp := true, linkRate := rate, linkWidth := width } }) ∧
    (b.startStep = 8 → b.linkUp = true → b.ready = false → b.dead = false →
      let u := if s.pwr.frac = 0 then s.firstReady else s
      exec .configReady s = .next { u with msix := [], brd := { u.brd with ready := true } }) ∧
    (∀ (j : Nat),
    let set := fun (g : Lamp → Lamp) => ({ s with brd := { s.brd with lamps := s.brd.lamps.mod j Lamp.reset g } } : State)
    let n := s.lampOnTime j
    (∀ ua, n < 20 → exec (.lampPeriod j ua) s = .next (set (fun l => { l with current := n }))) ∧
    (∀ ua, 20 ≤ n → ua < 2000 → exec (.lampPeriod j ua) s =
      .next (set (fun l => { l with current := n, failing := l.failing + 1 }))) ∧
    (∀ ua, 20 ≤ n → 2000 ≤ ua → exec (.lampPeriod j ua) s =
      .next (set (fun l => { l with current := n, failing := 0, isOpen := false }))) ∧
    (2 ≤ (s.lamp j).failing → (s.lamp j).isOpen = false →
      exec (.lampOpen j) s = .next ((set (fun l => { l with isOpen := true, openEvent := true })).setNow (.lampOpen j))) ∧
    (∀ ma, 200 < ma → (s.lamp j).current ≠ 0 →
      exec (.lampShort j ma) s = .next ((set (fun l => { l with current := 0, short := true })).setNow (.lampShort j))))
end

