-- ==== Sys2Proof/Laws/Fabric.lean ====
section
/-! SUPPORT. What a flit comes to where it is taken, what the return of credits leaves, and what becomes of management requests: the lemmas
that the statements about them cite. -/

namespace Sys2Proof.Machine

/-- What an open access adds to its request changes the address, payload, sectors and poison only: the flit keeps its operation, its
way and its owner. -/
theorem State.carried_same (s : State) (f : Flit) :
    (s.carried f).op = f.op ∧ (s.carried f).src = f.src ∧ (s.carried f).input = f.input ∧ (s.carried f).qclass = f.qclass ∧
      (s.carried f).own = f.own ∧ (s.carried f).lodging = f.lodging := by
  unfold State.carried
  split
  · simp
  · dsimp only
    split
    · split
      · simp
      · split <;> simp
    · split <;> simp
    · split <;> simp
    · simp

/-- A request that carries its access has the credit of the request. -/
theorem State.carried_credit (s : State) (f : Flit) : s.hasCredit (s.carried f) = s.hasCredit f := by
  obtain ⟨h1, -, h2, h3, -⟩ := s.carried_same f
  simp [State.hasCredit, h1, h2, h3]

/-- And its owner. -/
theorem State.carried_owner (s : State) (f : Flit) : flitOwner (s.carried f) = flitOwner f := by
  obtain ⟨-, -, -, -, h1, h2⟩ := s.carried_same f
  simp [flitOwner, h1, h2]

/-- A request with a credit, for an address that exists and that its slice does not refuse, is performed in the state in which it has left
its buffer and crossed its links. -/
theorem State.arrive_next (s : State) (g : Flit) (perform : State → Host.Outcome State Fault Refusal) (hc : s.hasCredit g = true)
    (hp : placeOf g.addr ≠ .hole ∧ placeOf g.addr ≠ .registers) (hr : s.refusedAt (flitOwner g) g.addr = none) :
    s.arrive g perform = perform ((s.takeFlit g).travel g (endStack g.src) (stackOf (s.sliceColumn g.addr))) := by
  unfold State.arrive
  simp only [hc, Bool.not_true]
  split <;> simp_all

/-- One that its slice refuses is answered with the status. -/
theorem State.arrive_refused (s : State) (g : Flit) (perform : State → Host.Outcome State Fault Refusal) (st : Nat)
    (hc : s.hasCredit g = true) (hp : placeOf g.addr ≠ .hole ∧ placeOf g.addr ≠ .registers)
    (hr : s.refusedAt (flitOwner g) g.addr = some st) :
    s.arrive g perform =
      .next (((s.takeFlit g).travel g (endStack g.src) (stackOf (s.sliceColumn g.addr))).faultFlit g st) := by
  unfold State.arrive
  simp only [hc, Bool.not_true]
  split <;> simp_all

/-- A request without a credit waits. -/
theorem State.arrive_waits (s : State) (g : Flit) (perform : State → Host.Outcome State Fault Refusal) (hc : s.hasCredit g = false) :
    s.arrive g perform = .next s := by
  simp [State.arrive, hc]

/-- The CREDIT flits of one timer leave at most 7 credits owed (R268). -/
theorem State.emitCredits_le (s : State) (input net cls n fuel : Nat) (h : n ≤ fuel) : (s.emitCredits input net cls n fuel).2 ≤ 7 := by
  induction fuel generalizing s n with
  | zero => simp [State.emitCredits]; omega
  | succ k ih =>
    simp only [State.emitCredits]
    split
    · exact ih _ _ (by omega)
    · simp; omega

/-- While a failover or a higher duty holds them, no management request is answered. -/
theorem State.serveRequests_held (s : State) (h : s.requestsWait = true) : s.serveRequests = s := by
  simp [State.serveRequests, h]

/-- With none waiting there is nothing to answer. -/
theorem State.serveRequests_none (s : State) (h1 : s.ink.replies = []) (h2 : s.ink.pldmWaiting = []) : s.serveRequests = s := by
  unfold State.serveRequests
  split
  · rfl
  · simp only [h1, h2, List.foldl_nil]
    conv_rhs => rw [show s = { s with ink := { s.ink with replies := s.ink.replies, pldmWaiting := s.ink.pldmWaiting } } from rfl, h1, h2]

end Sys2Proof.Machine
end

