-- ==== Sys2Proof/Laws/Galley.lean ====
section
/-! SUPPORT. What a galley command comes to where its porter fetches it: the lemmas that every statement about one cites. -/

namespace Sys2Proof.Machine

/-- Noting the rates of the lodging changes a command in its notices only. -/
theorem Cmd.rated_eq (c : Cmd) (b : Nat) : c.rated b = { c with notices := (c.rated b).notices } := by
  unfold Cmd.rated Cmd.notice
  split
  · rfl
  · split
    · split <;> rfl
    · rfl

/-- A command that runs differs from the fetched one in its notices, phase and `START`. -/
theorem State.started_eq (f : State) (c : Cmd) :
    f.started c = { c with notices := (c.rated (f.rateBits c.lod)).notices, phase := .running, start := f.now } := by
  unfold State.started
  rw [Cmd.rated_eq]

/-- Starting a command runs its operator in the state it has begun in. -/
theorem State.startCmd_eq (f : State) (c : Cmd) (ans : HostAns) :
    f.startCmd c ans = (f.begun c).startEffect (f.started c) ans := by
  have h : (f.started c).id = c.id := by rw [State.started_eq]
  unfold State.startCmd State.begun
  change ((f.modCmd (f.started c).id _).traceStart _).startEffect _ ans = _
  rw [h]
  rfl

/-- A fetched command that passes its checks and may start is started, and every porter goes on dispatching. -/
theorem State.fetchRow_of_fetchNext {s f : State} {lod g : Nat} {ans : HostAns} {c : Cmd} {want : Nat → Bool}
    (h : s.fetchNext lod g ans = some (c, f)) (hw : want c.opcode = true) :
    s.fetchRow lod g want ans = ((f.begun c).startEffect (f.started c) ans).startAll ans := by
  rw [← State.startCmd_eq]
  unfold State.fetchNext at h
  unfold State.fetchRow
  generalize s.grantFetch lod g = x at *
  generalize s.chain lod g = y at *
  rcases x with _ | p
  · simp at h
  · rcases y with ⟨t, (_ | _ | _ | ⟨b, used, bad⟩)⟩ <;> try (exfalso; simp at h; done)
    dsimp only at h ⊢
    generalize t.newCmd lod g b used = d at *
    generalize t.packetBad d bad = e at *
    rcases e with _ | e <;> dsimp only at h ⊢
    · split at h
      · rename_i hm
        generalize t.dispatchCheck d ans = r at *
        rcases r with ⟨w, rd, ps⟩ | ⟨w, _, _⟩ | w <;> dsimp only at h ⊢ <;> cases h
        have hn : ¬((!want d.opcode) = true) := by simpa using hw
        rw [if_neg hn, if_pos hm]
      · cases h
    · cases h

/-- A fetched packet that fails one of the first seven checks ends at fetch. -/
theorem State.fetchRow_of_packetBad {s t : State} {lod g used : Nat} {f : Status} {ans : HostAns} {p : Porter} {b : List Byte}
    {bad : Option Nat} {want : Nat → Bool} (hg : s.grantFetch lod g = some p) (hc : s.chain lod g = (t, .packets b used bad))
    (hw : want (t.newCmd lod g b used).opcode = true) (hk : t.packetBad (t.newCmd lod g b used) bad = some f) :
    s.fetchRow lod g want ans = t.refusedAtFetch p (t.newCmd lod g b used) f.1 f.2 used := by
  unfold State.fetchRow
  rw [hg, hc]
  dsimp only
  have hn : ¬((!want (t.newCmd lod g b used).opcode) = true) := by simpa using hw
  rw [hk, if_neg hn]

/-- A fetched packet that R40 lets start and that fails one of the last two checks ends at fetch. -/
theorem State.fetchRow_of_dispatchBad {s t w : State} {lod g used st d : Nat} {ans : HostAns} {p : Porter} {b : List Byte}
    {bad : Option Nat} {want : Nat → Bool} (hg : s.grantFetch lod g = some p) (hc : s.chain lod g = (t, .packets b used bad))
    (hw : want (t.newCmd lod g b used).opcode = true) (hk : t.packetBad (t.newCmd lod g b used) bad = none)
    (hm : t.mayStart (t.newCmd lod g b used) = true) (hd : t.dispatchCheck (t.newCmd lod g b used) ans = .bad w st d) :
    s.fetchRow lod g want ans = w.refusedAtFetch p (t.newCmd lod g b used) st d used := by
  unfold State.fetchRow
  rw [hg, hc]
  dsimp only
  have hn : ¬((!want (t.newCmd lod g b used).opcode) = true) := by simpa using hw
  rw [hk, if_neg hn]
  dsimp only
  rw [if_pos hm, hd]

/-- The first check decides for an opcode that no galley accepts (R37). -/
theorem State.packetBad_of_opcodeBad {s : State} {c : Cmd} {st : Status} (bad : Option Nat) (h : opcodeBad c.opcode = some st) :
    s.packetBad c bad = some st := by
  unfold State.packetBad
  rw [h]
  rfl

end Sys2Proof.Machine
end

