-- ==== Sys2Proof/Laws/Memory.lean ====
section
/-! SUPPORT. The memory: a read after a write, and the canonical form kept by every operation. -/

namespace Sys2Proof.Machine

/-! ### Sparse tables -/

/-- An entry that was set reads back. -/
@[simp] theorem Tab.get_set_self {α : Type} (t : Tab α) (k : Nat) (v d : α) : (t.set k v).get k d = v := by
  induction t with
  | nil => simp [Tab.set, Tab.get]
  | cons e r ih => by_cases h : e.1 = k <;> simp [Tab.set, Tab.get, h, ih]

/-- Another entry reads as before. -/
theorem Tab.get_set_ne {α : Type} (t : Tab α) {k j : Nat} (h : j ≠ k) (v d : α) : (t.set k v).get j d = t.get j d := by
  induction t with
  | nil => simp [Tab.set, Tab.get, Ne.symm h]
  | cons e r ih =>
    by_cases hk : e.1 = k
    · have hj : e.1 ≠ j := fun hh => h (hh.symm.trans hk)
      have hkj : k ≠ j := Ne.symm h
      simp [Tab.set, Tab.get, hk, hkj]
    · simp [Tab.set, Tab.get, hk, ih]

/-- A changed entry. -/
@[simp] theorem Tab.get_mod_self {α : Type} (t : Tab α) (k : Nat) (d : α) (f : α → α) :
    (t.mod k d f).get k d = f (t.get k d) := by simp [Tab.mod]

/-- Another entry than the changed one. -/
theorem Tab.get_mod_ne {α : Type} (t : Tab α) {k j : Nat} (h : j ≠ k) (d e : α) (f : α → α) :
    (t.mod k d f).get j e = t.get j e := Tab.get_set_ne t h _ _

/-! ### Reading what was written -/

/-- In a canonical list no listed byte is zero and the tail is canonical. -/
theorem cellsWf_cons {a : Nat} {b : Byte} {r : List Host.Cell} (h : cellsWf ((a, b) :: r) = true) :
    b ≠ 0#8 ∧ cellsWf r = true ∧ ∀ e ∈ r.head?, a < e.1 := by
  cases r with
  | nil => simpa [cellsWf] using h
  | cons e r => obtain ⟨a', b'⟩ := e; simpa [cellsWf, and_assoc, and_comm, and_left_comm] using h

/-- An address below the first listed one reads 0. -/
theorem cellGet_below {l : List Host.Cell} (h : cellsWf l = true) {k : Nat} (hk : ∀ e ∈ l.head?, k < e.1) : cellGet l k = 0 := by
  induction l with
  | nil => rfl
  | cons e r ih =>
    obtain ⟨a, b⟩ := e
    obtain ⟨-, hr, ha⟩ := cellsWf_cons h
    have hka : k < a := by simpa using hk
    have : a ≠ k := by omega
    simp only [cellGet, this, if_false]
    exact ih hr (fun e he => lt_trans hka (ha e he))

/-- Read after write of one byte in a canonical memory. -/
theorem cellGet_cellSet (l : List Host.Cell) (h : cellsWf l = true) (k j : Nat) (v : Byte) :
    cellGet (cellSet l k v) j = if j = k then v else cellGet l j := by
  induction l with
  | nil =>
    by_cases hv : v = 0#8
    · by_cases hj : j = k <;> simp [cellSet, cellGet, hv, hj]
    · by_cases hj : j = k
      · simp [cellSet, cellGet, hv, hj]
      · have hkj : k ≠ j := fun hh => hj hh.symm
        simp [cellSet, cellGet, hv, hj, hkj]
  | cons e r ih =>
    obtain ⟨a, b⟩ := e
    obtain ⟨-, hr, ha⟩ := cellsWf_cons h
    have hlow : k ≤ a → ∀ x ∈ r.head?, k < x.1 := fun hk x hx => lt_of_le_of_lt hk (ha x hx)
    rcases lt_trichotomy k a with hk | hk | hk
    · by_cases hv : v = 0#8
      · by_cases hj : j = k
        · subst hj
          have hl : cellGet ((a, b) :: r) j = 0 := cellGet_below h (by simpa using hk)
          simp [cellSet, hk, hv, hl]
        · simp [cellSet, hk, hv, hj]
      · by_cases hj : j = k
        · subst hj; simp [cellSet, cellGet, hk, hv]
        · have hkj : k ≠ j := fun hh => hj hh.symm
          simp [cellSet, cellGet, hk, hv, hj, hkj]
    · subst hk
      by_cases hv : v = 0#8
      · by_cases hj : j = k
        · subst hj
          simp [cellSet, hv, cellGet_below hr (hlow le_rfl)]
        · have hkj : k ≠ j := fun hh => hj hh.symm
          simp [cellSet, cellGet, hv, hj, hkj]
      · by_cases hj : j = k
        · subst hj; simp [cellSet, cellGet, hv]
        · have hkj : k ≠ j := fun hh => hj hh.symm
          simp [cellSet, cellGet, hv, hj, hkj]
    · have h1 : ¬ k < a := by omega
      have h2 : ¬ k = a := by omega
      by_cases hj : j = a
      · subst hj
        have : j ≠ k := fun hh => h2 hh.symm
        simp [cellSet, cellGet, h1, h2, this]
      · have : a ≠ j := fun hh => hj hh.symm
        simp [cellSet, cellGet, h1, h2, this, ih hr]

/-! ### The canonical form -/

/-- The head of a list after a write is the written address or the former head. -/
theorem cellSet_head (l : List Host.Cell) (k : Nat) (v : Byte) {n : Nat} (hk : n < k) (hl : cellsWf l = true)
    (h : ∀ e ∈ l.head?, n < e.1) : ∀ e ∈ (cellSet l k v).head?, n < e.1 := by
  cases l with
  | nil => by_cases hv : v = 0#8 <;> simp [cellSet, hv, hk]
  | cons e r =>
    obtain ⟨a, b⟩ := e
    have ha : n < a := by simpa using h
    obtain ⟨-, -, hr⟩ := cellsWf_cons hl
    have hr' : ∀ x ∈ r.head?, n < x.1 := fun x hx => lt_trans ha (hr x hx)
    unfold cellSet
    split <;> (try split) <;> (try split) <;> simp_all

/-- A canonical list stays canonical with a smaller byte in front. -/
theorem cellsWf_push {a : Nat} {b : Byte} {r : List Host.Cell} (hb : b ≠ 0#8) (hr : cellsWf r = true)
    (h : ∀ e ∈ r.head?, a < e.1) : cellsWf ((a, b) :: r) = true := by
  cases r with
  | nil => simp [cellsWf, hb]
  | cons e r => obtain ⟨a', b'⟩ := e; simp_all [cellsWf]

/-- A write of one byte keeps the canonical form. -/
theorem cellsWf_cellSet (l : List Host.Cell) (h : cellsWf l = true) (k : Nat) (v : Byte) : cellsWf (cellSet l k v) = true := by
  induction l with
  | nil => by_cases hv : v = 0#8 <;> simp [cellSet, cellsWf, hv]
  | cons e r ih =>
    obtain ⟨a, b⟩ := e
    obtain ⟨hb, hr, ha⟩ := cellsWf_cons h
    rcases lt_trichotomy k a with hk | hk | hk
    · by_cases hv : v = 0#8
      · simpa [cellSet, hk, hv] using h
      · simpa [cellSet, hk, hv] using cellsWf_push hv h (by simpa using hk)
    · subst hk
      by_cases hv : v = 0#8
      · simpa [cellSet, hv] using hr
      · simpa [cellSet, hv] using cellsWf_push hv hr ha
    · have h1 : ¬ k < a := by omega
      have h2 : ¬ k = a := by omega
      simpa [cellSet, h1, h2] using cellsWf_push hb (ih hr) (cellSet_head r k v hk hr ha)

/-- A rising list without its head rises, above the head. -/
theorem rising_cons {a : Nat} {r : List Nat} (h : rising (a :: r) = true) : rising r = true ∧ ∀ e ∈ r.head?, a < e := by
  cases r with
  | nil => simp [rising]
  | cons b r => simpa [rising, and_comm] using h

/-- A rising list with a smaller number in front. -/
theorem rising_push {a : Nat} {r : List Nat} (hr : rising r = true) (h : ∀ e ∈ r.head?, a < e) : rising (a :: r) = true := by
  cases r with
  | nil => simp [rising]
  | cons b r => simp_all [rising]

/-- The head after a mark is the marked number or the former head. -/
theorem markSet_head (l : List Nat) (k : Nat) (v : Bool) {n : Nat} (hk : n < k) (hl : rising l = true)
    (h : ∀ e ∈ l.head?, n < e) : ∀ e ∈ (markSet l k v).head?, n < e := by
  cases l with
  | nil => cases v <;> simp [markSet, hk]
  | cons a r =>
    have ha : n < a := by simpa using h
    obtain ⟨-, hr⟩ := rising_cons hl
    have hr' : ∀ x ∈ r.head?, n < x := fun x hx => lt_trans ha (hr x hx)
    unfold markSet
    split <;> (try split) <;> (try split) <;> simp_all

/-- A mark keeps the list rising. -/
theorem rising_markSet (l : List Nat) (h : rising l = true) (k : Nat) (v : Bool) : rising (markSet l k v) = true := by
  induction l with
  | nil => cases v <;> simp [markSet, rising]
  | cons a r ih =>
    obtain ⟨hr, ha⟩ := rising_cons h
    rcases lt_trichotomy k a with hk | hk | hk
    · cases v
      · simpa [markSet, hk] using h
      · simpa [markSet, hk] using rising_push h (by simpa using hk)
    · subst hk
      cases v
      · simpa [markSet] using hr
      · simpa [markSet] using rising_push hr ha
    · have h1 : ¬ k < a := by omega
      have h2 : ¬ k = a := by omega
      simpa [markSet, h1, h2] using rising_push (ih hr) (markSet_head r k v hk hr ha)

/-- A part of a canonical list of cells is canonical. -/
theorem cellsWf_filter (l : List Host.Cell) (h : cellsWf l = true) (p : Host.Cell → Bool) : cellsWf (l.filter p) = true := by
  have key : ∀ (l : List Host.Cell), cellsWf l = true → cellsWf (l.filter p) = true ∧
      ∀ n, (∀ e ∈ l.head?, n < e.1) → ∀ e ∈ (l.filter p).head?, n < e.1 := by
    intro l
    induction l with
    | nil => simp [cellsWf]
    | cons e r ih =>
      intro h
      obtain ⟨a, b⟩ := e
      obtain ⟨hb, hr, ha⟩ := cellsWf_cons h
      obtain ⟨h1, h2⟩ := ih hr
      by_cases hp : p (a, b) = true
      · refine ⟨by simpa [hp] using cellsWf_push hb h1 (h2 a ha), fun n hn => by simpa [hp] using hn⟩
      · refine ⟨by simpa [hp] using h1, fun n hn => ?_⟩
        have hna : n < a := by simpa using hn
        simpa [hp] using h2 n (fun e he => lt_trans hna (ha e he))
  exact (key l h).1

/-- A part of a rising list rises. -/
theorem rising_filter (l : List Nat) (h : rising l = true) (p : Nat → Bool) : rising (l.filter p) = true := by
  have key : ∀ (l : List Nat), rising l = true → rising (l.filter p) = true ∧
      ∀ n, (∀ e ∈ l.head?, n < e) → ∀ e ∈ (l.filter p).head?, n < e := by
    intro l
    induction l with
    | nil => simp [rising]
    | cons a r ih =>
      intro h
      obtain ⟨hr, ha⟩ := rising_cons h
      obtain ⟨h1, h2⟩ := ih hr
      by_cases hp : p a = true
      · refine ⟨by simpa [hp] using rising_push h1 (h2 a ha), fun n hn => by simpa [hp] using hn⟩
      · refine ⟨by simpa [hp] using h1, fun n hn => ?_⟩
        have hna : n < a := by simpa using hn
        simpa [hp] using h2 n (fun e he => lt_trans hna (ha e he))
  exact (key l h).1

/-- The two halves of the canonical form. -/
theorem Memory.wf_iff (m : Memory) : m.wf = true ↔ cellsWf m.cells = true ∧ rising m.poison = true := by simp [Memory.wf]

/-- A poison mark keeps the canonical form. -/
theorem Memory.wf_mark (m : Memory) (h : m.wf = true) (sector : Nat) (p : Bool) : (m.mark sector p).wf = true := by
  rw [Memory.wf_iff] at h ⊢; exact ⟨h.1, rising_markSet _ h.2 _ _⟩

/-- A write of bytes keeps the canonical form. -/
theorem Memory.wf_put (m : Memory) (h : m.wf = true) (a : Nat) (b : List Byte) : (m.put a b).wf = true := by
  induction b generalizing m a with
  | nil => exact h
  | cons x r ih =>
    refine ih _ ?_ _
    rw [Memory.wf_iff] at h ⊢; exact ⟨cellsWf_cellSet _ h.1 _ _, h.2⟩

/-- A write with its poison keeps the canonical form. -/
theorem Memory.wf_write (m : Memory) (h : m.wf = true) (a : Nat) (b : List Byte) (p : Bool) : (m.write a b p).wf = true := by
  unfold Memory.write
  have key : ∀ (l : List Nat) (x : Memory), x.wf = true →
      (l.foldl (fun m sec => m.mark sec (p || (m.poison.contains sec && !covers a b.length sec))) x).wf = true := by
    intro l
    induction l with
    | nil => exact fun _ hx => hx
    | cons _ _ ih => exact fun x hx => ih _ (Memory.wf_mark x hx _ _)
  exact key _ _ (Memory.wf_put m h a b)

/-- Keeping only some cells and some sectors keeps the canonical form. -/
theorem Memory.wf_filter (m : Memory) (h : m.wf = true) (p : Host.Cell → Bool) (q : Nat → Bool) :
    ({ cells := m.cells.filter p, poison := m.poison.filter q } : Memory).wf = true := by
  rw [Memory.wf_iff] at h ⊢; exact ⟨cellsWf_filter _ h.1 _, rising_filter _ h.2 _⟩

/-- A byte outside what was written reads as before. -/
theorem Memory.byte_put_outside (m : Memory) (h : m.wf = true) (a : Nat) (b : List Byte) (k : Nat)
    (hk : k < a ∨ a + b.length ≤ k) : (m.put a b).byte k = m.byte k := by
  induction b generalizing m a with
  | nil => rfl
  | cons x r ih =>
    have hw := (Memory.wf_iff m).1 h
    have hne : k ≠ a := by simp only [List.length_cons] at hk; omega
    have := ih { m with cells := cellSet m.cells a x } ((Memory.wf_iff _).2 ⟨cellsWf_cellSet _ hw.1 _ _, hw.2⟩) (a + 1)
      (by simp only [List.length_cons] at hk; omega)
    simpa [Memory.put, Memory.byte, cellGet_cellSet _ hw.1, hne] using this

/-- A byte that was written reads back. -/
theorem Memory.byte_put_inside (m : Memory) (h : m.wf = true) (a : Nat) (b : List Byte) (i : Nat) (hi : i < b.length) :
    (m.put a b).byte (a + i) = b[i] := by
  induction b generalizing m a i with
  | nil => simp at hi
  | cons x r ih =>
    have hw := (Memory.wf_iff m).1 h
    have hw' : ({ m with cells := cellSet m.cells a x } : Memory).wf = true :=
      (Memory.wf_iff _).2 ⟨cellsWf_cellSet _ hw.1 _ _, hw.2⟩
    cases i with
    | zero =>
      have := Memory.byte_put_outside _ hw' (a + 1) r a (Or.inl (Nat.lt_succ_self a))
      simpa [Memory.put, Memory.byte, cellGet_cellSet _ hw.1] using this
    | succ i =>
      have := ih _ hw' (a + 1) i (by simpa using hi)
      simpa [Memory.put, Nat.add_assoc, Nat.add_comm 1 i] using this

end Sys2Proof.Machine
end

