-- ==== Sys2Proof/Laws/Keeps.lean ====
section
/-! SUPPORT. The ground of the laws that every operation keeps a state sound, the queue as it is and the fuses blown: the predicate
over the results that operations answer, and the rules by which it passes through record updates, folds and matches. -/

namespace Sys2Proof.Machine

variable {q : List Instr} {n : Nat} {s t : State}

/-- What the predicate reads is unchanged. -/
theorem State.Keeps.congr (h : s.Keeps q n) (e1 : t.pending = s.pending) (e2 : t.mem = s.mem) (e3 : t.now = s.now)
    (e4 : t.quantumUs = s.quantumUs) (e5 : t.pwr = s.pwr) (e6 : t.thm = s.thm) (e7 : t.ink = s.ink) : t.Keeps q n := by
  obtain ⟨a, b, c⟩ := h
  refine ⟨e1 ▸ a, e7 ▸ b, ?_⟩
  obtain ⟨c1, c2, c3, c4, c5, c6, c7, c8, c9, c10⟩ := c
  exact ⟨e2 ▸ c1, e3 ▸ c2, e4 ▸ c3, e5 ▸ c4, e5 ▸ c5, e5 ▸ c6, e6 ▸ c7, e6 ▸ c8, e7 ▸ c9, e6 ▸ c10⟩

/-- The memory of a sound state is canonical. -/
theorem State.Keeps.memory_wf (h : s.Keeps q n) : s.mem.wf = true := h.sound.memory

/-- Only the memory changes, to a canonical one. -/
theorem State.Keeps.setMem (h : s.Keeps q n) {m : Memory} (hm : m.wf = true) : State.Keeps q n { s with mem := m } :=
  ⟨h.pending, h.fuses, hm, h.sound.clock, h.sound.quantum, h.sound.limit, h.sound.brake, h.sound.rates, h.sound.relief,
    h.sound.nextRelief, h.sound.shed, h.sound.trip⟩

/-- Power delivery changes outside its ranges' fields. -/
theorem State.Keeps.setPwr (h : s.Keeps q n) {p : Pwr} (h1 : p.limit = s.pwr.limit) (h2 : p.brakeWatts = s.pwr.brakeWatts)
    (h3 : p.frac = s.pwr.frac) (h4 : p.memCap = s.pwr.memCap) : State.Keeps q n { s with pwr := p } :=
  ⟨h.pending, h.fuses, h.sound.memory, h.sound.clock, h.sound.quantum, h1 ▸ h.sound.limit, h2 ▸ h.sound.brake,
    by simpa [h3, h4] using h.sound.rates, h.sound.relief, h.sound.nextRelief, h.sound.shed, h.sound.trip⟩

/-- Thermal sensing changes outside the thresholds and the trip. -/
theorem State.Keeps.setThm (h : s.Keeps q n) {x : Thm} (h1 : x.start = s.thm.start) (h2 : x.stop = s.thm.stop)
    (h3 : x.nextStart = s.thm.nextStart) (h4 : x.nextStop = s.thm.nextStop) (h5 : x.tripped = true → x.therm = true) :
    State.Keeps q n { s with thm := x } :=
  ⟨h.pending, h.fuses, h.sound.memory, h.sound.clock, h.sound.quantum, h.sound.limit, h.sound.brake, h.sound.rates,
    by simpa [h1, h2] using h.sound.relief, by simpa [h3, h4] using h.sound.nextRelief, h.sound.shed, h5⟩

/-- The Innkeeper changes, fuses only blown further. -/
theorem State.Keeps.setInk (h : s.Keeps q n) {i : Ink} (h1 : s.ink.fusedSvn ≤ i.fusedSvn) (h2 : i.shedLevel ≤ 7) :
    State.Keeps q n { s with ink := i } :=
  ⟨h.pending, le_trans h.fuses h1, h.sound.memory, h.sound.clock, h.sound.quantum, h.sound.limit, h.sound.brake, h.sound.rates,
    h.sound.relief, h.sound.nextRelief, h2, h.sound.trip⟩

/-- A record update that leaves what the predicate reads. -/
theorem State.Keeps.lit {holding' : Bool} {slow' : Nat} {lods' : Tab Lodging} {mail' : Tab Mailbox} {msix' : Tab MsixFn} {porters' : Tab Porter} {cmds' : List Cmd} {nextCmd' : Nat} {launches' : List Launch} {blocks' : List Block} {nextBlock' : Nat} {mats' : List MatOp} {attns' : List AttnOp} {cores' : Tab ColCore} {mxaTol' : Tab Nat} {mxaRetries' : Tab Nat} {mxaSuspected' : Tab Nat} {stn' : Stn} {hbm' : Hbm} {fab' : Fabric} {vch' : Vch} {d2d' : Tab D2d} {cyl' : Cyl} {dma' : Dma} {qos' : Qos} {turns' : Tab Turn} {rel' : Rel} {unlock' : Unlock} {dbg' : Dbg} {brd' : Brd} {out' : List Out} {fresh' : List Rw1c} {supp' : Tab Nat} {freeAt' : Nat}
    (h : s.Keeps q n) :
    State.Keeps q n ⟨s.pending, s.now, holding', slow', s.mem, lods', mail', msix', porters', cmds', nextCmd', launches', blocks', nextBlock', mats', attns', cores', mxaTol', mxaRetries', mxaSuspected', stn', hbm', fab', vch', d2d', cyl', dma', qos', turns', s.quantumUs, s.pwr, s.thm, rel', s.ink, unlock', dbg', brd', out', fresh', supp', freeAt'⟩ :=
  h.congr rfl rfl rfl rfl rfl rfl rfl

/-- The same as an equivalence, which rewrites record updates only. -/
theorem State.keeps_lit {holding' : Bool} {slow' : Nat} {lods' : Tab Lodging} {mail' : Tab Mailbox} {msix' : Tab MsixFn} {porters' : Tab Porter} {cmds' : List Cmd} {nextCmd' : Nat} {launches' : List Launch} {blocks' : List Block} {nextBlock' : Nat} {mats' : List MatOp} {attns' : List AttnOp} {cores' : Tab ColCore} {mxaTol' : Tab Nat} {mxaRetries' : Tab Nat} {mxaSuspected' : Tab Nat} {stn' : Stn} {hbm' : Hbm} {fab' : Fabric} {vch' : Vch} {d2d' : Tab D2d} {cyl' : Cyl} {dma' : Dma} {qos' : Qos} {turns' : Tab Turn} {rel' : Rel} {unlock' : Unlock} {dbg' : Dbg} {brd' : Brd} {out' : List Out} {fresh' : List Rw1c} {supp' : Tab Nat} {freeAt' : Nat} :
    State.Keeps q n ⟨s.pending, s.now, holding', slow', s.mem, lods', mail', msix', porters', cmds', nextCmd', launches', blocks', nextBlock', mats', attns', cores', mxaTol', mxaRetries', mxaSuspected', stn', hbm', fab', vch', d2d', cyl', dma', qos', turns', s.quantumUs, s.pwr, s.thm, rel', s.ink, unlock', dbg', brd', out', fresh', supp', freeAt'⟩ ↔ s.Keeps q n :=
  ⟨fun h => h.congr rfl rfl rfl rfl rfl rfl rfl, fun h => h.lit⟩

/-- A record update of the memory. -/
theorem State.Keeps.litMem {holding' : Bool} {slow' : Nat} {mem' : Memory} {lods' : Tab Lodging} {mail' : Tab Mailbox} {msix' : Tab MsixFn} {porters' : Tab Porter} {cmds' : List Cmd} {nextCmd' : Nat} {launches' : List Launch} {blocks' : List Block} {nextBlock' : Nat} {mats' : List MatOp} {attns' : List AttnOp} {cores' : Tab ColCore} {mxaTol' : Tab Nat} {mxaRetries' : Tab Nat} {mxaSuspected' : Tab Nat} {stn' : Stn} {hbm' : Hbm} {fab' : Fabric} {vch' : Vch} {d2d' : Tab D2d} {cyl' : Cyl} {dma' : Dma} {qos' : Qos} {turns' : Tab Turn} {rel' : Rel} {unlock' : Unlock} {dbg' : Dbg} {brd' : Brd} {out' : List Out} {fresh' : List Rw1c} {supp' : Tab Nat} {freeAt' : Nat}
    (h : s.Keeps q n) (hm : mem'.wf = true) :
    State.Keeps q n ⟨s.pending, s.now, holding', slow', mem', lods', mail', msix', porters', cmds', nextCmd', launches', blocks', nextBlock', mats', attns', cores', mxaTol', mxaRetries', mxaSuspected', stn', hbm', fab', vch', d2d', cyl', dma', qos', turns', s.quantumUs, s.pwr, s.thm, rel', s.ink, unlock', dbg', brd', out', fresh', supp', freeAt'⟩ :=
  (h.setMem hm).congr rfl rfl rfl rfl rfl rfl rfl

/-- A record update of power delivery outside its ranges. -/
theorem State.Keeps.litPwr {holding' : Bool} {slow' : Nat} {lods' : Tab Lodging} {mail' : Tab Mailbox} {msix' : Tab MsixFn} {porters' : Tab Porter} {cmds' : List Cmd} {nextCmd' : Nat} {launches' : List Launch} {blocks' : List Block} {nextBlock' : Nat} {mats' : List MatOp} {attns' : List AttnOp} {cores' : Tab ColCore} {mxaTol' : Tab Nat} {mxaRetries' : Tab Nat} {mxaSuspected' : Tab Nat} {stn' : Stn} {hbm' : Hbm} {fab' : Fabric} {vch' : Vch} {d2d' : Tab D2d} {cyl' : Cyl} {dma' : Dma} {qos' : Qos} {turns' : Tab Turn} {pwr' : Pwr} {rel' : Rel} {unlock' : Unlock} {dbg' : Dbg} {brd' : Brd} {out' : List Out} {fresh' : List Rw1c} {supp' : Tab Nat} {freeAt' : Nat}
    (h : s.Keeps q n) (h1 : pwr'.limit = s.pwr.limit)
    (h2 : pwr'.brakeWatts = s.pwr.brakeWatts) (h3 : pwr'.frac = s.pwr.frac) (h4 : pwr'.memCap = s.pwr.memCap) :
    State.Keeps q n ⟨s.pending, s.now, holding', slow', s.mem, lods', mail', msix', porters', cmds', nextCmd', launches', blocks', nextBlock', mats', attns', cores', mxaTol', mxaRetries', mxaSuspected', stn', hbm', fab', vch', d2d', cyl', dma', qos', turns', s.quantumUs, pwr', s.thm, rel', s.ink, unlock', dbg', brd', out', fresh', supp', freeAt'⟩ :=
  (h.setPwr h1 h2 h3 h4).congr rfl rfl rfl rfl rfl rfl rfl

/-- A record update of thermal sensing outside the thresholds and the trip. -/
theorem State.Keeps.litThm {holding' : Bool} {slow' : Nat} {lods' : Tab Lodging} {mail' : Tab Mailbox} {msix' : Tab MsixFn} {porters' : Tab Porter} {cmds' : List Cmd} {nextCmd' : Nat} {launches' : List Launch} {blocks' : List Block} {nextBlock' : Nat} {mats' : List MatOp} {attns' : List AttnOp} {cores' : Tab ColCore} {mxaTol' : Tab Nat} {mxaRetries' : Tab Nat} {mxaSuspected' : Tab Nat} {stn' : Stn} {hbm' : Hbm} {fab' : Fabric} {vch' : Vch} {d2d' : Tab D2d} {cyl' : Cyl} {dma' : Dma} {qos' : Qos} {turns' : Tab Turn} {thm' : Thm} {rel' : Rel} {unlock' : Unlock} {dbg' : Dbg} {brd' : Brd} {out' : List Out} {fresh' : List Rw1c} {supp' : Tab Nat} {freeAt' : Nat}
    (h : s.Keeps q n) (h1 : thm'.start = s.thm.start)
    (h2 : thm'.stop = s.thm.stop) (h3 : thm'.nextStart = s.thm.nextStart) (h4 : thm'.nextStop = s.thm.nextStop)
    (h5 : thm'.tripped = true → thm'.therm = true) :
    State.Keeps q n ⟨s.pending, s.now, holding', slow', s.mem, lods', mail', msix', porters', cmds', nextCmd', launches', blocks', nextBlock', mats', attns', cores', mxaTol', mxaRetries', mxaSuspected', stn', hbm', fab', vch', d2d', cyl', dma', qos', turns', s.quantumUs, s.pwr, thm', rel', s.ink, unlock', dbg', brd', out', fresh', supp', freeAt'⟩ :=
  (h.setThm h1 h2 h3 h4 h5).congr rfl rfl rfl rfl rfl rfl rfl

/-- A record update of the Innkeeper. -/
theorem State.Keeps.litInk {holding' : Bool} {slow' : Nat} {lods' : Tab Lodging} {mail' : Tab Mailbox} {msix' : Tab MsixFn} {porters' : Tab Porter} {cmds' : List Cmd} {nextCmd' : Nat} {launches' : List Launch} {blocks' : List Block} {nextBlock' : Nat} {mats' : List MatOp} {attns' : List AttnOp} {cores' : Tab ColCore} {mxaTol' : Tab Nat} {mxaRetries' : Tab Nat} {mxaSuspected' : Tab Nat} {stn' : Stn} {hbm' : Hbm} {fab' : Fabric} {vch' : Vch} {d2d' : Tab D2d} {cyl' : Cyl} {dma' : Dma} {qos' : Qos} {turns' : Tab Turn} {rel' : Rel} {ink' : Ink} {unlock' : Unlock} {dbg' : Dbg} {brd' : Brd} {out' : List Out} {fresh' : List Rw1c} {supp' : Tab Nat} {freeAt' : Nat}
    (h : s.Keeps q n) (h1 : s.ink.fusedSvn ≤ ink'.fusedSvn) (h2 : ink'.shedLevel ≤ 7) :
    State.Keeps q n ⟨s.pending, s.now, holding', slow', s.mem, lods', mail', msix', porters', cmds', nextCmd', launches', blocks', nextBlock', mats', attns', cores', mxaTol', mxaRetries', mxaSuspected', stn', hbm', fab', vch', d2d', cyl', dma', qos', turns', s.quantumUs, s.pwr, s.thm, rel', ink', unlock', dbg', brd', out', fresh', supp', freeAt'⟩ :=
  (h.setInk h1 h2).congr rfl rfl rfl rfl rfl rfl rfl

/-- A fold of operations that keep. -/
theorem State.Keeps.foldl {α : Type} {f : State → α → State} (h : s.Keeps q n)
    (hf : ∀ u a, State.Keeps q n u → State.Keeps q n (f u a)) (l : List α) : State.Keeps q n (l.foldl f s) := by
  induction l generalizing s with
  | nil => exact h
  | cons a r ih => exact ih (hf _ _ h)

/-- The state of a pair that is matched. -/
theorem State.Keeps.ofPair {α : Type} {x : State × α} {a : α} (h : State.Keeps q n x.1) (e : x = (t, a)) : t.Keeps q n := by
  subst e; exact h

/-- The states of an optional result. -/
def keepsOpt (q : List Instr) (n : Nat) : Option State → Prop
  | some s => s.Keeps q n
  | none => True

/-- The states of an optional pair. -/
def keepsOptPair {α : Type} (q : List Instr) (n : Nat) : Option (State × α) → Prop
  | some x => State.Keeps q n x.1
  | none => True

/-- The states of a result that carries a state in both outcomes. -/
def keepsExcept {α β : Type} (q : List Instr) (n : Nat) : Except (State × α) (State × β) → Prop
  | .ok x => State.Keeps q n x.1
  | .error x => State.Keeps q n x.1

/-- The states of a result that carries only a state where it succeeds. -/
def keepsExceptState {α : Type} (q : List Instr) (n : Nat) : Except (State × α) State → Prop
  | .ok s => s.Keeps q n
  | .error x => State.Keeps q n x.1

theorem keepsOpt_some {x : Option State} (h : keepsOpt q n x) (e : x = some t) : t.Keeps q n := by subst e; exact h

theorem keepsOptPair_some {α : Type} {x : Option (State × α)} {a : α} (h : keepsOptPair q n x) (e : x = some (t, a)) :
    t.Keeps q n := by subst e; exact h

theorem keepsExcept_ok {α β : Type} {x : Except (State × α) (State × β)} {b : β} (h : keepsExcept q n x) (e : x = .ok (t, b)) :
    t.Keeps q n := by subst e; exact h

theorem keepsExcept_error {α β : Type} {x : Except (State × α) (State × β)} {a : α} (h : keepsExcept q n x) (e : x = .error (t, a)) :
    t.Keeps q n := by subst e; exact h

theorem keepsExceptState_ok {α : Type} {x : Except (State × α) State} (h : keepsExceptState q n x) (e : x = .ok t) :
    t.Keeps q n := by subst e; exact h

theorem keepsExceptState_error {α : Type} {x : Except (State × α) State} {a : α} (h : keepsExceptState q n x) (e : x = .error (t, a)) :
    t.Keeps q n := by subst e; exact h

/-- Every state that a `RemoteRead` carries keeps. -/
def keepsRemoteRead (q : List Instr) (n : Nat) : RemoteRead → Prop
  | .bytes s _ _ => s.Keeps q n
  | .wait s => s.Keeps q n
  | .fault s _ _ => s.Keeps q n
  | .unreachable s => s.Keeps q n

theorem keepsRemoteRead_bytes {r : RemoteRead} (h : keepsRemoteRead q n r) {a' b'} (e : r = .bytes t a' b') : t.Keeps q n := by
  subst e; exact h

theorem keepsRemoteRead_wait {r : RemoteRead} (h : keepsRemoteRead q n r) (e : r = .wait t) : t.Keeps q n := by
  subst e; exact h

theorem keepsRemoteRead_fault {r : RemoteRead} (h : keepsRemoteRead q n r) {a' b'} (e : r = .fault t a' b') : t.Keeps q n := by
  subst e; exact h

theorem keepsRemoteRead_unreachable {r : RemoteRead} (h : keepsRemoteRead q n r) (e : r = .unreachable t) : t.Keeps q n := by
  subst e; exact h

/-- Every state that a `VRead` carries keeps. -/
def keepsVRead (q : List Instr) (n : Nat) : VRead → Prop
  | .fail s _ _ => s.Keeps q n
  | .wait s => s.Keeps q n
  | .ok s _ _ => s.Keeps q n

theorem keepsVRead_fail {r : VRead} (h : keepsVRead q n r) {a' b'} (e : r = .fail t a' b') : t.Keeps q n := by
  subst e; exact h

theorem keepsVRead_wait {r : VRead} (h : keepsVRead q n r) (e : r = .wait t) : t.Keeps q n := by
  subst e; exact h

theorem keepsVRead_ok {r : VRead} (h : keepsVRead q n r) {a' b'} (e : r = .ok t a' b') : t.Keeps q n := by
  subst e; exact h

/-- Every state that a `VWrite` carries keeps. -/
def keepsVWrite (q : List Instr) (n : Nat) : VWrite → Prop
  | .fail _ _ => True
  | .wait => True
  | .ok s _ => s.Keeps q n

theorem keepsVWrite_ok {r : VWrite} (h : keepsVWrite q n r) {a'} (e : r = .ok t a') : t.Keeps q n := by
  subst e; exact h

/-- Every state that a `Sent` carries keeps. -/
def keepsSent (q : List Instr) (n : Nat) : Sent → Prop
  | .unreachable => True
  | .held => True
  | .sent s => s.Keeps q n

theorem keepsSent_sent {r : Sent} (h : keepsSent q n r) (e : r = .sent t) : t.Keeps q n := by
  subst e; exact h

/-- Every state that a `CheckRes` carries keeps. -/
def keepsCheckRes (q : List Instr) (n : Nat) : CheckRes → Prop
  | .ok s _ _ => s.Keeps q n
  | .bad s _ _ => s.Keeps q n
  | .wait s => s.Keeps q n

theorem keepsCheckRes_ok {r : CheckRes} (h : keepsCheckRes q n r) {a' b'} (e : r = .ok t a' b') : t.Keeps q n := by
  subst e; exact h

theorem keepsCheckRes_bad {r : CheckRes} (h : keepsCheckRes q n r) {a' b'} (e : r = .bad t a' b') : t.Keeps q n := by
  subst e; exact h

theorem keepsCheckRes_wait {r : CheckRes} (h : keepsCheckRes q n r) (e : r = .wait t) : t.Keeps q n := by
  subst e; exact h

/-- Every state that a `MatRead` carries keeps. -/
def keepsMatRead (q : List Instr) (n : Nat) : MatRead → Prop
  | .fail s _ _ => s.Keeps q n
  | .wait s => s.Keeps q n
  | .ok s _ _ => s.Keeps q n

theorem keepsMatRead_fail {r : MatRead} (h : keepsMatRead q n r) {a' b'} (e : r = .fail t a' b') : t.Keeps q n := by
  subst e; exact h

theorem keepsMatRead_wait {r : MatRead} (h : keepsMatRead q n r) (e : r = .wait t) : t.Keeps q n := by
  subst e; exact h

theorem keepsMatRead_ok {r : MatRead} (h : keepsMatRead q n r) {a' b'} (e : r = .ok t a' b') : t.Keeps q n := by
  subst e; exact h

/-- Every state that a `PassRead` carries keeps. -/
def keepsPassRead (q : List Instr) (n : Nat) : PassRead → Prop
  | .fail s _ _ => s.Keeps q n
  | .wait s => s.Keeps q n
  | .ok s _ _ _ _ _ _ _ => s.Keeps q n

theorem keepsPassRead_fail {r : PassRead} (h : keepsPassRead q n r) {a' b'} (e : r = .fail t a' b') : t.Keeps q n := by
  subst e; exact h

theorem keepsPassRead_wait {r : PassRead} (h : keepsPassRead q n r) (e : r = .wait t) : t.Keeps q n := by
  subst e; exact h

theorem keepsPassRead_ok {r : PassRead} (h : keepsPassRead q n r) {a' b' c' d' e' f' g'} (e : r = .ok t a' b' c' d' e' f' g') : t.Keeps q n := by
  subst e; exact h

/-- Every state that a `PassResult` carries keeps. -/
def keepsPassResult (q : List Instr) (n : Nat) : PassResult → Prop
  | .nothing s => s.Keeps q n
  | .proven s _ _ => s.Keeps q n
  | .failed s _ _ => s.Keeps q n

theorem keepsPassResult_nothing {r : PassResult} (h : keepsPassResult q n r) (e : r = .nothing t) : t.Keeps q n := by
  subst e; exact h

theorem keepsPassResult_proven {r : PassResult} (h : keepsPassResult q n r) {u' c'} (e : r = .proven t u' c') : t.Keeps q n := by
  subst e; exact h

theorem keepsPassResult_failed {r : PassResult} (h : keepsPassResult q n r) {u' c'} (e : r = .failed t u' c') : t.Keeps q n := by
  subst e; exact h

/-- Every state that a `VecRead` carries keeps. -/
def keepsVecRead (q : List Instr) (n : Nat) : VecRead → Prop
  | .fail s _ _ => s.Keeps q n
  | .wait s => s.Keeps q n
  | .ok s _ _ => s.Keeps q n

theorem keepsVecRead_fail {r : VecRead} (h : keepsVecRead q n r) {a' b'} (e : r = .fail t a' b') : t.Keeps q n := by
  subst e; exact h

theorem keepsVecRead_wait {r : VecRead} (h : keepsVecRead q n r) (e : r = .wait t) : t.Keeps q n := by
  subst e; exact h

theorem keepsVecRead_ok {r : VecRead} (h : keepsVecRead q n r) {a' b'} (e : r = .ok t a' b') : t.Keeps q n := by
  subst e; exact h

/-- Every state that a `Access` carries keeps. -/
def keepsAccess {α : Type} (q : List Instr) (n : Nat) : Access α → Prop
  | .ok s _ => s.Keeps q n
  | .wait s => s.Keeps q n
  | .fault s _ _ => s.Keeps q n

theorem keepsAccess_ok {α : Type} {r : Access α} (h : keepsAccess q n r) {a'} (e : r = .ok t a') : t.Keeps q n := by
  subst e; exact h

theorem keepsAccess_wait {α : Type} {r : Access α} (h : keepsAccess q n r) (e : r = .wait t) : t.Keeps q n := by
  subst e; exact h

theorem keepsAccess_fault {α : Type} {r : Access α} (h : keepsAccess q n r) {a' b'} (e : r = .fault t a' b') : t.Keeps q n := by
  subst e; exact h

/-- Every state that a `Side` carries keeps. -/
def keepsSide {α : Type} (q : List Instr) (n : Nat) : Side α → Prop
  | .ok s _ => s.Keeps q n
  | .wait s => s.Keeps q n
  | .fail s => s.Keeps q n
  | .halt s _ _ => s.Keeps q n

theorem keepsSide_ok {α : Type} {r : Side α} (h : keepsSide q n r) {a'} (e : r = .ok t a') : t.Keeps q n := by
  subst e; exact h

theorem keepsSide_wait {α : Type} {r : Side α} (h : keepsSide q n r) (e : r = .wait t) : t.Keeps q n := by
  subst e; exact h

theorem keepsSide_fail {α : Type} {r : Side α} (h : keepsSide q n r) (e : r = .fail t) : t.Keeps q n := by
  subst e; exact h

theorem keepsSide_halt {α : Type} {r : Side α} (h : keepsSide q n r) {a' b'} (e : r = .halt t a' b') : t.Keeps q n := by
  subst e; exact h

/-- What a command answers where it answers a next state. -/
def keepsOutcome (q : List Instr) (n : Nat) : Host.Outcome State Fault Refusal → Prop
  | .next s => s.Keeps q n
  | .fault _ => True
  | .refused _ => True

end Sys2Proof.Machine
end

