-- ==== Sys2Proof/Laws/KeepsOps.lean ====
section
/-! SUPPORT. The operations of Machine/Ops.lean keep: sound states, the queue, the fuses. -/

namespace Sys2Proof.Machine

variable {q : List Instr} {n : Nat}

theorem State.modLod_keeps {s : State} {l : Nat} {f : Lodging → Lodging} (h : s.Keeps q n) :
    State.Keeps q n (State.modLod s l f) := by
  unfold State.modLod
  repeat' first
    | with_reducible assumption
    | with_reducible exact trivial
    | simp only [State.keeps_lit]

theorem State.modGalley_keeps {s : State} {l g : Nat} {f : Galley → Galley} (h : s.Keeps q n) :
    State.Keeps q n (State.modGalley s l g f) := by
  unfold State.modGalley
  repeat' first
    | with_reducible assumption
    | with_reducible exact trivial
    | with_reducible refine State.modLod_keeps ?_

theorem State.modCmd_keeps {s : State} {id : Nat} {f : Cmd → Cmd} (h : s.Keeps q n) :
    State.Keeps q n (State.modCmd s id f) := by
  unfold State.modCmd
  repeat' first
    | with_reducible assumption
    | with_reducible exact trivial
    | simp only [State.keeps_lit]

theorem State.modMbx_keeps {s : State} {fn : Fn} {f : Mailbox → Mailbox} (h : s.Keeps q n) :
    State.Keeps q n (State.modMbx s fn f) := by
  unfold State.modMbx
  repeat' first
    | with_reducible assumption
    | with_reducible exact trivial
    | simp only [State.keeps_lit]

theorem State.modPorter_keeps {s : State} {k : Nat} {f : Porter → Porter} (h : s.Keeps q n) :
    State.Keeps q n (State.modPorter s k f) := by
  unfold State.modPorter
  repeat' first
    | with_reducible assumption
    | with_reducible exact trivial
    | simp only [State.keeps_lit]

theorem State.modCore_keeps {s : State} {col : Nat} {f : ColCore → ColCore} (h : s.Keeps q n) :
    State.Keeps q n (State.modCore s col f) := by
  unfold State.modCore
  repeat' first
    | with_reducible assumption
    | with_reducible exact trivial
    | simp only [State.keeps_lit]

theorem State.modSlice_keeps {s : State} {col : Nat} {f : Slice → Slice} (h : s.Keeps q n) :
    State.Keeps q n (State.modSlice s col f) := by
  unfold State.modSlice
  repeat' first
    | with_reducible assumption
    | with_reducible exact trivial
    | simp only [State.keeps_lit]

theorem State.modStnRegs_keeps {s : State} {k : Nat} {f : StnRegs → StnRegs} (h : s.Keeps q n) :
    State.Keeps q n (State.modStnRegs s k f) := by
  unfold State.modStnRegs
  repeat' first
    | with_reducible assumption
    | with_reducible exact trivial
    | simp only [State.keeps_lit]

theorem State.modHbmRegs_keeps {s : State} {k : Nat} {f : HbmRegs → HbmRegs} (h : s.Keeps q n) :
    State.Keeps q n (State.modHbmRegs s k f) := by
  unfold State.modHbmRegs
  repeat' first
    | with_reducible assumption
    | with_reducible exact trivial
    | simp only [State.keeps_lit]

theorem State.modChannel_keeps {s : State} {col : Nat} {f : Channel → Channel} (h : s.Keeps q n) :
    State.Keeps q n (State.modChannel s col f) := by
  unfold State.modChannel
  repeat' first
    | with_reducible assumption
    | with_reducible exact trivial
    | simp only [State.keeps_lit]

theorem State.modLane_keeps {s : State} {l : Lane} {f : LaneSt → LaneSt} (h : s.Keeps q n) :
    State.Keeps q n (State.modLane s l f) := by
  unfold State.modLane
  repeat' first
    | with_reducible assumption
    | with_reducible exact trivial
    | simp only [State.keeps_lit]

theorem State.modDomain_keeps {s : State} {d : Nat} {f : Domain → Domain} (h : s.Keeps q n) :
    State.Keeps q n (State.modDomain s d f) := by
  unfold State.modDomain
  repeat' first
    | with_reducible assumption
    | with_reducible exact trivial
    | simp only [State.keeps_lit]
    | dsimp only
    | split
    | fail_if_no_progress with_reducible refine State.Keeps.litMem ?_ ?_
    | fail_if_no_progress with_reducible refine State.Keeps.litPwr ?_ ?_ ?_ ?_ ?_

theorem State.modPort_keeps {s : State} {p : Nat} {f : CytilPort → CytilPort} (h : s.Keeps q n) :
    State.Keeps q n (State.modPort s p f) := by
  unfold State.modPort
  repeat' first
    | with_reducible assumption
    | with_reducible exact trivial
    | simp only [State.keeps_lit]

theorem State.emit_keeps {s : State} {o : Out} (h : s.Keeps q n) :
    State.Keeps q n (State.emit s o) := by
  unfold State.emit
  repeat' first
    | with_reducible assumption
    | with_reducible exact trivial
    | simp only [State.keeps_lit]

theorem State.setNow_keeps {s : State} {b : Rw1c} (h : s.Keeps q n) : State.Keeps q n (State.setNow s b) := h.lit

theorem State.takeFree_keeps {s : State} (h : s.Keeps q n) :
    State.Keeps q n (State.takeFree s) := by
  unfold State.takeFree
  repeat' first
    | with_reducible assumption
    | with_reducible exact trivial
    | simp only [State.keeps_lit]

end Sys2Proof.Machine
end

