-- ==== Sys2Proof/Laws/KeepsFlags.lean ====
section
/-! SUPPORT. The operations of Machine/Flags.lean keep: sound states, the queue, the fuses. -/

namespace Sys2Proof.Machine

variable {q : List Instr} {n : Nat}

theorem State.failCmd_keeps {s : State} {id st d : Nat} (h : s.Keeps q n) :
    State.Keeps q n (State.failCmd s id st d) := by
  unfold State.failCmd
  repeat' first
    | with_reducible assumption
    | with_reducible exact trivial
    | with_reducible refine State.modCmd_keeps ?_

theorem State.noticeCmd_keeps {s : State} {id st d : Nat} (h : s.Keeps q n) :
    State.Keeps q n (State.noticeCmd s id st d) := by
  unfold State.noticeCmd
  repeat' first
    | with_reducible assumption
    | with_reducible exact trivial
    | with_reducible refine State.modCmd_keeps ?_

theorem State.raise_keeps {s : State} {k v : Nat} (h : s.Keeps q n) :
    State.Keeps q n (State.raise s k v) := by
  unfold State.raise
  repeat' first
    | with_reducible assumption
    | with_reducible exact trivial
    | with_reducible refine State.emit_keeps ?_
    | simp only [State.keeps_lit]
    | dsimp only
    | split

theorem State.releasePending_keeps {s : State} {k : Nat} (h : s.Keeps q n) :
    State.Keeps q n (State.releasePending s k) := by
  unfold State.releasePending
  repeat' first
    | with_reducible assumption
    | with_reducible exact trivial
    | simp only [State.keeps_lit]
    | dsimp only
    | split

theorem State.raiseGalley_keeps {s : State} {l g : Nat} (h : s.Keeps q n) :
    State.Keeps q n (State.raiseGalley s l g) := by
  unfold State.raiseGalley
  repeat' first
    | with_reducible assumption
    | with_reducible exact trivial
    | with_reducible refine State.raise_keeps ?_
    | simp only [State.keeps_lit]
    | dsimp only
    | split

theorem State.event_keeps {s : State} {l code resource detail : Nat} (h : s.Keeps q n) :
    State.Keeps q n (State.event s l code resource detail) := by
  unfold State.event
  repeat' first
    | with_reducible assumption
    | with_reducible exact trivial
    | with_reducible refine State.modLod_keeps ?_
    | with_reducible refine State.raise_keeps ?_

theorem State.log_keeps {s : State} {u code arg layer oper : Nat} (h : s.Keeps q n) :
    State.Keeps q n (State.log s u code arg layer oper) := by
  unfold State.log
  repeat' first
    | with_reducible assumption
    | with_reducible exact trivial
    | simp only [State.keeps_lit]

theorem State.askTakeover_keeps {s : State} {t : Takeover} (h : s.Keeps q n) :
    State.Keeps q n (State.askTakeover s t) := by
  unfold State.askTakeover
  repeat' first
    | with_reducible assumption
    | with_reducible exact trivial
    | simp only [State.keeps_lit]
    | dsimp only
    | split

theorem State.askCore_keeps {s : State} {col : Nat} (h : s.Keeps q n) :
    State.Keeps q n (State.askCore s col) := by
  unfold State.askCore
  repeat' first
    | with_reducible assumption
    | with_reducible exact trivial
    | with_reducible refine State.askTakeover_keeps ?_

theorem State.askBank_keeps {s : State} {col bank : Nat} (h : s.Keeps q n) :
    State.Keeps q n (State.askBank s col bank) := by
  unfold State.askBank
  repeat' first
    | with_reducible assumption
    | with_reducible exact trivial
    | with_reducible refine State.askTakeover_keeps ?_

theorem State.askRow_keeps {s : State} {col bank row : Nat} (h : s.Keeps q n) :
    State.Keeps q n (State.askRow s col bank row) := by
  unfold State.askRow
  repeat' first
    | with_reducible assumption
    | with_reducible exact trivial
    | with_reducible refine State.askTakeover_keeps ?_

theorem State.rowTest_keeps {s : State} {col bank row : Nat} (h : s.Keeps q n) :
    State.Keeps q n (State.rowTest s col bank row) := by
  unfold State.rowTest
  repeat' first
    | with_reducible assumption
    | with_reducible exact trivial
    | with_reducible refine State.modSlice_keeps ?_
    | with_reducible refine State.askBank_keeps ?_
    | with_reducible refine State.askRow_keeps ?_
    | simp only [State.keeps_lit]
    | dsimp only
    | split

theorem State.count_keeps {s : State} {stack event : Nat} {lod : Option Nat} {ids : Nat × Nat} {n0 : Nat} (h : s.Keeps q n) :
    State.Keeps q n (State.count s stack event lod ids n0) := by
  unfold State.count
  repeat' first
    | with_reducible assumption
    | with_reducible exact trivial
    | with_reducible refine State.Keeps.foldl ?_ (fun _ _ _ => ?_) _
    | with_reducible refine State.event_keeps ?_
    | simp only [State.keeps_lit]

theorem State.addBytes_keeps {s : State} {k n0 : Nat} (h : s.Keeps q n) :
    State.Keeps q n (State.addBytes s k n0) := by
  unfold State.addBytes
  repeat' first
    | with_reducible assumption
    | with_reducible exact trivial
    | simp only [State.keeps_lit]

theorem State.grant_keeps {s : State} {res lod cls n0 : Nat} (h : s.Keeps q n) :
    State.Keeps q n (State.grant s res lod cls n0) := by
  unfold State.grant
  repeat' first
    | with_reducible assumption
    | with_reducible exact trivial
    | simp only [State.keeps_lit]

theorem State.noticeIds_keeps {s : State} {lod : Nat} {ids : Nat × Nat} {st d : Nat} (h : s.Keeps q n) :
    State.Keeps q n (State.noticeIds s lod ids st d) := by
  unfold State.noticeIds
  repeat' first
    | with_reducible assumption
    | with_reducible exact trivial
    | simp only [State.keeps_lit]

theorem State.degraded_keeps {s : State} {lod : Nat} {ids : Nat × Nat} {b : Nat} (h : s.Keeps q n) :
    State.Keeps q n (State.degraded s lod ids b) := by
  unfold State.degraded
  repeat' first
    | with_reducible assumption
    | with_reducible exact trivial
    | with_reducible refine State.noticeIds_keeps ?_

end Sys2Proof.Machine
end

