-- ==== Sys2Proof/Laws/KeepsRemote.lean ====
section
/-! SUPPORT. The operations of Machine/Remote.lean keep: sound states, the queue, the fuses. -/

namespace Sys2Proof.Machine

variable {q : List Instr} {n : Nat}

theorem State.putTransfer_keeps {s : State} {p dst op addr tag : Nat} {bytes : List Byte} {txn : Option Nat} {poison : Bool} {head : Option XferHead} (h : s.Keeps q n) :
    State.Keeps q n (State.putTransfer s p dst op addr tag bytes txn poison head) := by
  unfold State.putTransfer
  repeat' first
    | with_reducible assumption
    | with_reducible exact trivial
    | with_reducible refine State.modPort_keeps ?_
    | with_reducible refine State.emit_keeps ?_
    | with_reducible refine State.addBytes_keeps ?_
    | with_reducible refine State.grant_keeps ?_

theorem State.newTxn_keeps {s : State} {lod addr : Nat} {kind : TxnKind} (h : s.Keeps q n) :
    State.Keeps q n (State.newTxn s lod addr kind).1 := by
  unfold State.newTxn
  repeat' first
    | with_reducible assumption
    | with_reducible exact trivial
    | simp only [State.keeps_lit]

theorem State.dropTxn_keeps {s : State} {id : Nat} (h : s.Keeps q n) :
    State.Keeps q n (State.dropTxn s id) := by
  unfold State.dropTxn
  repeat' first
    | with_reducible assumption
    | with_reducible exact trivial
    | simp only [State.keeps_lit]

end Sys2Proof.Machine
end

