-- ==== Sys2Proof/Laws/KeepsHome.lean ====
section
/-! SUPPORT. The operations of Machine/Home.lean keep: sound states, the queue, the fuses. -/

namespace Sys2Proof.Machine

variable {q : List Instr} {n : Nat}

theorem State.writeWord_keeps {s : State} {col key : Nat} (h : s.Keeps q n) :
    State.Keeps q n (State.writeWord s col key) := by
  unfold State.writeWord
  repeat' first
    | with_reducible assumption
    | with_reducible exact trivial
    | with_reducible refine State.modStnRegs_keeps ?_
    | simp only [State.keeps_lit]
    | dsimp only
    | split

theorem State.storeWords_keeps {s : State} {sector : Nat} {words : List Nat} (h : s.Keeps q n) :
    State.Keeps q n (State.storeWords s sector words) := by
  unfold State.storeWords
  repeat' first
    | with_reducible assumption
    | with_reducible exact trivial
    | with_reducible refine State.Keeps.foldl ?_ (fun _ _ _ => ?_) _
    | with_reducible refine State.writeWord_keeps ?_

theorem State.countVerdict_keeps {s : State} {col : Nat} {v : Verdict} {ids : Nat × Nat} (h : s.Keeps q n) :
    State.Keeps q n (State.countVerdict s col v ids) := by
  unfold State.countVerdict
  repeat' first
    | with_reducible assumption
    | with_reducible exact trivial
    | with_reducible refine State.modHbmRegs_keeps ?_
    | with_reducible refine State.modChannel_keeps ?_
    | with_reducible refine State.log_keeps ?_
    | simp only [State.keeps_lit]
    | dsimp only
    | split

theorem State.noteChannel_keeps {s : State} {lod sector : Nat} {ids : Nat × Nat} (h : s.Keeps q n) :
    State.Keeps q n (State.noteChannel s lod sector ids) := by
  unfold State.noteChannel
  dsimp only
  split
  · exact State.degraded_keeps h
  · exact h

theorem State.hbmRead_keeps {s : State} {lod sector : Nat} {ids : Nat × Nat} (h : s.Keeps q n) :
    State.Keeps q n (State.hbmRead s lod sector ids).1 := by
  unfold State.hbmRead
  repeat' first
    | with_reducible assumption
    | with_reducible exact trivial
    | with_reducible refine State.addBytes_keeps ?_
    | with_reducible refine State.grant_keeps ?_
    | with_reducible refine State.noteChannel_keeps ?_
    | with_reducible refine State.countVerdict_keeps ?_
    | simp only [State.keeps_lit]
    | dsimp only
    | split

theorem State.hbmFlip_keeps {s : State} {sector : Nat} (h : s.Keeps q n) :
    State.Keeps q n (State.hbmFlip s sector) := by
  unfold State.hbmFlip
  repeat' first
    | with_reducible assumption
    | with_reducible exact trivial
    | with_reducible refine State.modHbmRegs_keeps ?_
    | simp only [State.keeps_lit]
    | dsimp only
    | split

theorem State.hbmWrite_keeps {s : State} {lod sector : Nat} {ids : Nat × Nat} (h : s.Keeps q n) :
    State.Keeps q n (State.hbmWrite s lod sector ids) := by
  unfold State.hbmWrite
  repeat' first
    | with_reducible assumption
    | with_reducible exact trivial
    | with_reducible refine State.addBytes_keeps ?_
    | with_reducible refine State.grant_keeps ?_
    | with_reducible refine State.hbmFlip_keeps ?_
    | with_reducible refine State.noteChannel_keeps ?_
    | simp only [State.keeps_lit]

theorem State.useLine_keeps {s : State} {old new : CacheLine} (h : s.Keeps q n) :
    State.Keeps q n (State.useLine s old new) := by
  unfold State.useLine
  repeat' first
    | with_reducible assumption
    | with_reducible exact trivial
    | simp only [State.keeps_lit]

theorem State.addLine_keeps {s : State} {l : CacheLine} (h : s.Keeps q n) :
    State.Keeps q n (State.addLine s l) := by
  unfold State.addLine
  repeat' first
    | with_reducible assumption
    | with_reducible exact trivial
    | simp only [State.keeps_lit]

theorem State.purgeBuffers_keeps {s : State} {lod : Nat} (h : s.Keeps q n) :
    State.Keeps q n (State.purgeBuffers s lod) := by
  unfold State.purgeBuffers
  repeat' first
    | with_reducible assumption
    | with_reducible exact trivial
    | simp only [State.keeps_lit]
    | dsimp only
    | split

theorem State.removeLine_keeps {s : State} {l : CacheLine} (h : s.Keeps q n) :
    State.Keeps q n (State.removeLine s l) := by
  unfold State.removeLine
  repeat' first
    | with_reducible assumption
    | with_reducible exact trivial
    | simp only [State.keeps_lit]

theorem State.keepArray_keeps {s : State} {sector : Nat} (h : s.Keeps q n) : State.Keeps q n (State.keepArray s sector) := h.lit

theorem State.meetWord_keeps {s : State} {key col bank row : Nat} {ids : Nat × Nat} (h : s.Keeps q n) :
    State.Keeps q n (State.meetWord s key col bank row ids).1 := by
  have key : ∀ u : State, u.Keeps q n → u.takeFree.Keeps q n := fun u hu => hu.congr rfl rfl rfl rfl rfl rfl rfl
  unfold State.meetWord
  dsimp only
  split
  · exact h
  · split
    · exact State.modStnRegs_keeps h
    · exact key _ (State.rowTest_keeps (State.log_keeps (State.modStnRegs_keeps h)))

theorem State.checkWord_keeps {s : State} {sector w : Nat} {ids : Nat × Nat} (h : s.Keeps q n) :
    State.Keeps q n (State.checkWord s sector w ids) := by
  unfold State.checkWord
  split
  · exact h
  · have hr := State.meetWord_keeps (q := q) (n := n) (key := s.wordKey (32 * sector + 8 * w)) (col := s.wordColumn (32 * sector + 8 * w))
      (bank := s.wordBank (32 * sector + 8 * w)) (row := s.wordRow (32 * sector + 8 * w)) (ids := ids) h
    dsimp only
    split
    · split
      · exact State.Keeps.setMem (State.keepArray_keeps hr) (Memory.wf_mark _ hr.memory_wf _ _)
      · exact hr.setMem (Memory.wf_mark _ hr.memory_wf _ _)
    · exact hr

theorem State.checkWords_keeps {s : State} {sector : Nat} {ids : Nat × Nat} (h : s.Keeps q n) :
    State.Keeps q n (State.checkWords s sector ids) :=
  State.Keeps.foldl h (fun _ _ ht => State.checkWord_keeps ht) _

theorem State.restoreArray_keeps {s : State} {l : CacheLine} (h : s.Keeps q n) : State.Keeps q n (State.restoreArray s l) := by
  unfold State.restoreArray
  split
  · refine State.Keeps.foldl h (fun t i ht => ?_) _
    split
    · exact ht
    · exact ht.litMem (Memory.wf_mark _ (Memory.wf_put _ ht.memory_wf _ _) _ _)
  · exact h

theorem State.writeBack_keeps {s : State} {l : CacheLine} {ids : Nat × Nat} (h : s.Keeps q n) :
    State.Keeps q n (State.writeBack s l ids) := by
  unfold State.writeBack
  split
  · rename_i d _
    have hk := State.restoreArray_keeps (l := l) (State.Keeps.foldl (f := fun s i =>
      (s.checkWords (4 * l.line + i) (0, 0)).hbmWrite l.lod (4 * l.line + i) ids) h
      (fun _ _ ht => State.hbmWrite_keeps (State.checkWords_keeps ht)) (setBits d 4))
    dsimp only
    split
    · exact hk
    · exact hk.lit
  · exact h

theorem State.countHit_keeps {s : State} {lod sector : Nat} {ids : Nat × Nat} {hit : Bool} (h : s.Keeps q n) :
    State.Keeps q n (State.countHit s lod sector ids hit) := by
  unfold State.countHit
  repeat' first
    | with_reducible assumption
    | with_reducible exact trivial
    | with_reducible refine State.count_keeps ?_

end Sys2Proof.Machine
end

