-- ==== Sys2Proof/Laws/KeepsGalley.lean ====
section
/-! SUPPORT. The operations of Machine/Galley.lean keep: sound states, the queue, the fuses. -/

namespace Sys2Proof.Machine

variable {q : List Instr} {n : Nat}

theorem State.noteFault_keeps {s : State} {l g st d : Nat} (h : s.Keeps q n) :
    State.Keeps q n (State.noteFault s l g st d) := by
  unfold State.noteFault
  repeat' first
    | with_reducible assumption
    | with_reducible exact trivial
    | with_reducible refine State.setNow_keeps ?_
    | with_reducible refine State.modLod_keeps ?_

theorem State.abortFetched_keeps {s : State} {l g d : Nat} {but : Option Nat} (h : s.Keeps q n) :
    State.Keeps q n (State.abortFetched s l g d but) := by
  unfold State.abortFetched
  repeat' first
    | with_reducible assumption
    | with_reducible exact trivial
    | simp only [State.keeps_lit]

theorem State.stopOnly_keeps {s : State} {l g st seq : Nat} {but : Option Nat} (h : s.Keeps q n) :
    State.Keeps q n (State.stopOnly s l g st seq but) := by
  unfold State.stopOnly
  repeat' first
    | with_reducible assumption
    | with_reducible exact trivial
    | with_reducible refine State.raiseGalley_keeps ?_
    | with_reducible refine State.modGalley_keeps ?_
    | with_reducible refine State.abortFetched_keeps ?_
    | simp only [State.keeps_lit]
    | dsimp only
    | split

theorem State.endCmd_keeps {s : State} {id : Nat} (h : s.Keeps q n) :
    State.Keeps q n (State.endCmd s id) := by
  unfold State.endCmd
  repeat' first
    | with_reducible assumption
    | with_reducible exact trivial
    | with_reducible refine State.modCmd_keeps ?_

theorem State.endWith_keeps {s : State} {id st d : Nat} (h : s.Keeps q n) :
    State.Keeps q n (State.endWith s id st d) := by
  unfold State.endWith
  repeat' first
    | with_reducible assumption
    | with_reducible exact trivial
    | with_reducible refine State.failCmd_keeps ?_
    | with_reducible refine State.endCmd_keeps ?_

theorem State.finish_keeps {s : State} {id work : Nat} (h : s.Keeps q n) :
    State.Keeps q n (State.finish s id work) := by
  unfold State.finish
  repeat' first
    | with_reducible assumption
    | with_reducible exact trivial
    | with_reducible refine State.modCmd_keeps ?_
    | with_reducible refine State.endCmd_keeps ?_

theorem State.usePorter_keeps {s : State} {k : Nat} {p : Porter} (h : s.Keeps q n) : State.Keeps q n (State.usePorter s k p) :=
  State.modPorter_keeps h

theorem State.updateSignal_keeps {s : State} {l i : Nat} {f : Nat → Nat} (h : s.Keeps q n) :
    State.Keeps q n (State.updateSignal s l i f) := by
  unfold State.updateSignal
  repeat' first
    | with_reducible assumption
    | with_reducible exact trivial
    | with_reducible refine State.modLod_keeps ?_
    | with_reducible refine State.modPorter_keeps ?_
    | with_reducible refine State.log_keeps ?_
    | simp only [State.keeps_lit]
    | dsimp only
    | split

end Sys2Proof.Machine
end

