-- ==== Sys2Proof/Laws/KeepsColumns.lean ====
section
/-! SUPPORT. The operations of Machine/Columns.lean keep: sound states, the queue, the fuses. -/

namespace Sys2Proof.Machine

variable {q : List Instr} {n : Nat}

theorem State.requestWake_keeps {s : State} {d : Nat} (h : s.Keeps q n) :
    State.Keeps q n (State.requestWake s d) := by
  unfold State.requestWake
  repeat' first
    | with_reducible assumption
    | with_reducible exact trivial
    | simp only [State.keeps_lit]
    | dsimp only
    | split
    | fail_if_no_progress with_reducible refine State.Keeps.litMem ?_ ?_
    | fail_if_no_progress with_reducible refine State.Keeps.litPwr ?_ ?_ ?_ ?_ ?_

theorem State.touchDomain_keeps {s : State} {d : Nat} (h : s.Keeps q n) :
    State.Keeps q n (State.touchDomain s d) := by
  unfold State.touchDomain
  repeat' first
    | with_reducible assumption
    | with_reducible exact trivial
    | with_reducible refine State.modDomain_keeps ?_

theorem State.setRun_keeps {s : State} {col : Nat} {r : CoreRun} (h : s.Keeps q n) :
    State.Keeps q n (State.setRun s col r) := by
  unfold State.setRun
  repeat' first
    | with_reducible assumption
    | with_reducible exact trivial
    | with_reducible refine State.modCore_keeps ?_

theorem State.noteRates_keeps {s : State} (h : s.Keeps q n) :
    State.Keeps q n (State.noteRates s) := by
  unfold State.noteRates
  repeat' first
    | with_reducible assumption
    | with_reducible exact trivial
    | simp only [State.keeps_lit]

theorem State.noteColumn_keeps {s : State} {cmd col : Nat} (h : s.Keeps q n) :
    State.Keeps q n (State.noteColumn s cmd col) := by
  unfold State.noteColumn
  repeat' first
    | with_reducible assumption
    | with_reducible exact trivial
    | with_reducible refine State.modCmd_keeps ?_

theorem State.noteColumns_keeps {s : State} {cols : List Nat} (h : s.Keeps q n) :
    State.Keeps q n (State.noteColumns s cols) := by
  unfold State.noteColumns
  repeat' first
    | with_reducible assumption
    | with_reducible exact trivial
    | with_reducible refine State.Keeps.foldl ?_ (fun _ _ _ => ?_) _
    | with_reducible refine State.noteColumn_keeps ?_

end Sys2Proof.Machine
end

