-- ==== Sys2Proof/Laws/State.lean ====
section
/-! SUPPORT. What each update of one part of the state leaves in every other field, and what it reads back at the part it wrote:
true by reflexivity or by the laws of the sparse tables, for later proofs to rewrite with. -/

namespace Sys2Proof.Machine

variable (s : State)

/-! ### `modLod` -/

@[simp] theorem State.modLod_pending (l : Nat) (f : Lodging → Lodging) : (s.modLod l f).pending = s.pending := rfl
@[simp] theorem State.modLod_now (l : Nat) (f : Lodging → Lodging) : (s.modLod l f).now = s.now := rfl
@[simp] theorem State.modLod_holding (l : Nat) (f : Lodging → Lodging) : (s.modLod l f).holding = s.holding := rfl
@[simp] theorem State.modLod_slow (l : Nat) (f : Lodging → Lodging) : (s.modLod l f).slow = s.slow := rfl
@[simp] theorem State.modLod_mem (l : Nat) (f : Lodging → Lodging) : (s.modLod l f).mem = s.mem := rfl
@[simp] theorem State.modLod_mail (l : Nat) (f : Lodging → Lodging) : (s.modLod l f).mail = s.mail := rfl
@[simp] theorem State.modLod_msix (l : Nat) (f : Lodging → Lodging) : (s.modLod l f).msix = s.msix := rfl
@[simp] theorem State.modLod_porters (l : Nat) (f : Lodging → Lodging) : (s.modLod l f).porters = s.porters := rfl
@[simp] theorem State.modLod_cmds (l : Nat) (f : Lodging → Lodging) : (s.modLod l f).cmds = s.cmds := rfl
@[simp] theorem State.modLod_nextCmd (l : Nat) (f : Lodging → Lodging) : (s.modLod l f).nextCmd = s.nextCmd := rfl
@[simp] theorem State.modLod_launches (l : Nat) (f : Lodging → Lodging) : (s.modLod l f).launches = s.launches := rfl
@[simp] theorem State.modLod_blocks (l : Nat) (f : Lodging → Lodging) : (s.modLod l f).blocks = s.blocks := rfl
@[simp] theorem State.modLod_nextBlock (l : Nat) (f : Lodging → Lodging) : (s.modLod l f).nextBlock = s.nextBlock := rfl
@[simp] theorem State.modLod_mats (l : Nat) (f : Lodging → Lodging) : (s.modLod l f).mats = s.mats := rfl
@[simp] theorem State.modLod_attns (l : Nat) (f : Lodging → Lodging) : (s.modLod l f).attns = s.attns := rfl
@[simp] theorem State.modLod_cores (l : Nat) (f : Lodging → Lodging) : (s.modLod l f).cores = s.cores := rfl
@[simp] theorem State.modLod_mxaTol (l : Nat) (f : Lodging → Lodging) : (s.modLod l f).mxaTol = s.mxaTol := rfl
@[simp] theorem State.modLod_mxaRetries (l : Nat) (f : Lodging → Lodging) : (s.modLod l f).mxaRetries = s.mxaRetries := rfl
@[simp] theorem State.modLod_mxaSuspected (l : Nat) (f : Lodging → Lodging) : (s.modLod l f).mxaSuspected = s.mxaSuspected := rfl
@[simp] theorem State.modLod_stn (l : Nat) (f : Lodging → Lodging) : (s.modLod l f).stn = s.stn := rfl
@[simp] theorem State.modLod_hbm (l : Nat) (f : Lodging → Lodging) : (s.modLod l f).hbm = s.hbm := rfl
@[simp] theorem State.modLod_fab (l : Nat) (f : Lodging → Lodging) : (s.modLod l f).fab = s.fab := rfl
@[simp] theorem State.modLod_vch (l : Nat) (f : Lodging → Lodging) : (s.modLod l f).vch = s.vch := rfl
@[simp] theorem State.modLod_d2d (l : Nat) (f : Lodging → Lodging) : (s.modLod l f).d2d = s.d2d := rfl
@[simp] theorem State.modLod_cyl (l : Nat) (f : Lodging → Lodging) : (s.modLod l f).cyl = s.cyl := rfl
@[simp] theorem State.modLod_dma (l : Nat) (f : Lodging → Lodging) : (s.modLod l f).dma = s.dma := rfl
@[simp] theorem State.modLod_qos (l : Nat) (f : Lodging → Lodging) : (s.modLod l f).qos = s.qos := rfl
@[simp] theorem State.modLod_turns (l : Nat) (f : Lodging → Lodging) : (s.modLod l f).turns = s.turns := rfl
@[simp] theorem State.modLod_quantumUs (l : Nat) (f : Lodging → Lodging) : (s.modLod l f).quantumUs = s.quantumUs := rfl
@[simp] theorem State.modLod_pwr (l : Nat) (f : Lodging → Lodging) : (s.modLod l f).pwr = s.pwr := rfl
@[simp] theorem State.modLod_thm (l : Nat) (f : Lodging → Lodging) : (s.modLod l f).thm = s.thm := rfl
@[simp] theorem State.modLod_rel (l : Nat) (f : Lodging → Lodging) : (s.modLod l f).rel = s.rel := rfl
@[simp] theorem State.modLod_ink (l : Nat) (f : Lodging → Lodging) : (s.modLod l f).ink = s.ink := rfl
@[simp] theorem State.modLod_unlock (l : Nat) (f : Lodging → Lodging) : (s.modLod l f).unlock = s.unlock := rfl
@[simp] theorem State.modLod_dbg (l : Nat) (f : Lodging → Lodging) : (s.modLod l f).dbg = s.dbg := rfl
@[simp] theorem State.modLod_brd (l : Nat) (f : Lodging → Lodging) : (s.modLod l f).brd = s.brd := rfl
@[simp] theorem State.modLod_out (l : Nat) (f : Lodging → Lodging) : (s.modLod l f).out = s.out := rfl
@[simp] theorem State.modLod_fresh (l : Nat) (f : Lodging → Lodging) : (s.modLod l f).fresh = s.fresh := rfl
@[simp] theorem State.modLod_supp (l : Nat) (f : Lodging → Lodging) : (s.modLod l f).supp = s.supp := rfl
@[simp] theorem State.modLod_freeAt (l : Nat) (f : Lodging → Lodging) : (s.modLod l f).freeAt = s.freeAt := rfl

/-! ### `modGalley` -/

@[simp] theorem State.modGalley_pending (l g : Nat) (f : Galley → Galley) : (s.modGalley l g f).pending = s.pending := rfl
@[simp] theorem State.modGalley_now (l g : Nat) (f : Galley → Galley) : (s.modGalley l g f).now = s.now := rfl
@[simp] theorem State.modGalley_holding (l g : Nat) (f : Galley → Galley) : (s.modGalley l g f).holding = s.holding := rfl
@[simp] theorem State.modGalley_slow (l g : Nat) (f : Galley → Galley) : (s.modGalley l g f).slow = s.slow := rfl
@[simp] theorem State.modGalley_mem (l g : Nat) (f : Galley → Galley) : (s.modGalley l g f).mem = s.mem := rfl
@[simp] theorem State.modGalley_mail (l g : Nat) (f : Galley → Galley) : (s.modGalley l g f).mail = s.mail := rfl
@[simp] theorem State.modGalley_msix (l g : Nat) (f : Galley → Galley) : (s.modGalley l g f).msix = s.msix := rfl
@[simp] theorem State.modGalley_porters (l g : Nat) (f : Galley → Galley) : (s.modGalley l g f).porters = s.porters := rfl
@[simp] theorem State.modGalley_cmds (l g : Nat) (f : Galley → Galley) : (s.modGalley l g f).cmds = s.cmds := rfl
@[simp] theorem State.modGalley_nextCmd (l g : Nat) (f : Galley → Galley) : (s.modGalley l g f).nextCmd = s.nextCmd := rfl
@[simp] theorem State.modGalley_launches (l g : Nat) (f : Galley → Galley) : (s.modGalley l g f).launches = s.launches := rfl
@[simp] theorem State.modGalley_blocks (l g : Nat) (f : Galley → Galley) : (s.modGalley l g f).blocks = s.blocks := rfl
@[simp] theorem State.modGalley_nextBlock (l g : Nat) (f : Galley → Galley) : (s.modGalley l g f).nextBlock = s.nextBlock := rfl
@[simp] theorem State.modGalley_mats (l g : Nat) (f : Galley → Galley) : (s.modGalley l g f).mats = s.mats := rfl
@[simp] theorem State.modGalley_attns (l g : Nat) (f : Galley → Galley) : (s.modGalley l g f).attns = s.attns := rfl
@[simp] theorem State.modGalley_cores (l g : Nat) (f : Galley → Galley) : (s.modGalley l g f).cores = s.cores := rfl
@[simp] theorem State.modGalley_mxaTol (l g : Nat) (f : Galley → Galley) : (s.modGalley l g f).mxaTol = s.mxaTol := rfl
@[simp] theorem State.modGalley_mxaRetries (l g : Nat) (f : Galley → Galley) : (s.modGalley l g f).mxaRetries = s.mxaRetries := rfl
@[simp] theorem State.modGalley_mxaSuspected (l g : Nat) (f : Galley → Galley) : (s.modGalley l g f).mxaSuspected = s.mxaSuspected := rfl
@[simp] theorem State.modGalley_stn (l g : Nat) (f : Galley → Galley) : (s.modGalley l g f).stn = s.stn := rfl
@[simp] theorem State.modGalley_hbm (l g : Nat) (f : Galley → Galley) : (s.modGalley l g f).hbm = s.hbm := rfl
@[simp] theorem State.modGalley_fab (l g : Nat) (f : Galley → Galley) : (s.modGalley l g f).fab = s.fab := rfl
@[simp] theorem State.modGalley_vch (l g : Nat) (f : Galley → Galley) : (s.modGalley l g f).vch = s.vch := rfl
@[simp] theorem State.modGalley_d2d (l g : Nat) (f : Galley → Galley) : (s.modGalley l g f).d2d = s.d2d := rfl
@[simp] theorem State.modGalley_cyl (l g : Nat) (f : Galley → Galley) : (s.modGalley l g f).cyl = s.cyl := rfl
@[simp] theorem State.modGalley_dma (l g : Nat) (f : Galley → Galley) : (s.modGalley l g f).dma = s.dma := rfl
@[simp] theorem State.modGalley_qos (l g : Nat) (f : Galley → Galley) : (s.modGalley l g f).qos = s.qos := rfl
@[simp] theorem State.modGalley_turns (l g : Nat) (f : Galley → Galley) : (s.modGalley l g f).turns = s.turns := rfl
@[simp] theorem State.modGalley_quantumUs (l g : Nat) (f : Galley → Galley) : (s.modGalley l g f).quantumUs = s.quantumUs := rfl
@[simp] theorem State.modGalley_pwr (l g : Nat) (f : Galley → Galley) : (s.modGalley l g f).pwr = s.pwr := rfl
@[simp] theorem State.modGalley_thm (l g : Nat) (f : Galley → Galley) : (s.modGalley l g f).thm = s.thm := rfl
@[simp] theorem State.modGalley_rel (l g : Nat) (f : Galley → Galley) : (s.modGalley l g f).rel = s.rel := rfl
@[simp] theorem State.modGalley_ink (l g : Nat) (f : Galley → Galley) : (s.modGalley l g f).ink = s.ink := rfl
@[simp] theorem State.modGalley_unlock (l g : Nat) (f : Galley → Galley) : (s.modGalley l g f).unlock = s.unlock := rfl
@[simp] theorem State.modGalley_dbg (l g : Nat) (f : Galley → Galley) : (s.modGalley l g f).dbg = s.dbg := rfl
@[simp] theorem State.modGalley_brd (l g : Nat) (f : Galley → Galley) : (s.modGalley l g f).brd = s.brd := rfl
@[simp] theorem State.modGalley_out (l g : Nat) (f : Galley → Galley) : (s.modGalley l g f).out = s.out := rfl
@[simp] theorem State.modGalley_fresh (l g : Nat) (f : Galley → Galley) : (s.modGalley l g f).fresh = s.fresh := rfl
@[simp] theorem State.modGalley_supp (l g : Nat) (f : Galley → Galley) : (s.modGalley l g f).supp = s.supp := rfl
@[simp] theorem State.modGalley_freeAt (l g : Nat) (f : Galley → Galley) : (s.modGalley l g f).freeAt = s.freeAt := rfl

/-! ### `modCmd` -/

@[simp] theorem State.modCmd_pending (id : Nat) (f : Cmd → Cmd) : (s.modCmd id f).pending = s.pending := rfl
@[simp] theorem State.modCmd_now (id : Nat) (f : Cmd → Cmd) : (s.modCmd id f).now = s.now := rfl
@[simp] theorem State.modCmd_holding (id : Nat) (f : Cmd → Cmd) : (s.modCmd id f).holding = s.holding := rfl
@[simp] theorem State.modCmd_slow (id : Nat) (f : Cmd → Cmd) : (s.modCmd id f).slow = s.slow := rfl
@[simp] theorem State.modCmd_mem (id : Nat) (f : Cmd → Cmd) : (s.modCmd id f).mem = s.mem := rfl
@[simp] theorem State.modCmd_lods (id : Nat) (f : Cmd → Cmd) : (s.modCmd id f).lods = s.lods := rfl
@[simp] theorem State.modCmd_mail (id : Nat) (f : Cmd → Cmd) : (s.modCmd id f).mail = s.mail := rfl
@[simp] theorem State.modCmd_msix (id : Nat) (f : Cmd → Cmd) : (s.modCmd id f).msix = s.msix := rfl
@[simp] theorem State.modCmd_porters (id : Nat) (f : Cmd → Cmd) : (s.modCmd id f).porters = s.porters := rfl
@[simp] theorem State.modCmd_nextCmd (id : Nat) (f : Cmd → Cmd) : (s.modCmd id f).nextCmd = s.nextCmd := rfl
@[simp] theorem State.modCmd_launches (id : Nat) (f : Cmd → Cmd) : (s.modCmd id f).launches = s.launches := rfl
@[simp] theorem State.modCmd_blocks (id : Nat) (f : Cmd → Cmd) : (s.modCmd id f).blocks = s.blocks := rfl
@[simp] theorem State.modCmd_nextBlock (id : Nat) (f : Cmd → Cmd) : (s.modCmd id f).nextBlock = s.nextBlock := rfl
@[simp] theorem State.modCmd_mats (id : Nat) (f : Cmd → Cmd) : (s.modCmd id f).mats = s.mats := rfl
@[simp] theorem State.modCmd_attns (id : Nat) (f : Cmd → Cmd) : (s.modCmd id f).attns = s.attns := rfl
@[simp] theorem State.modCmd_cores (id : Nat) (f : Cmd → Cmd) : (s.modCmd id f).cores = s.cores := rfl
@[simp] theorem State.modCmd_mxaTol (id : Nat) (f : Cmd → Cmd) : (s.modCmd id f).mxaTol = s.mxaTol := rfl
@[simp] theorem State.modCmd_mxaRetries (id : Nat) (f : Cmd → Cmd) : (s.modCmd id f).mxaRetries = s.mxaRetries := rfl
@[simp] theorem State.modCmd_mxaSuspected (id : Nat) (f : Cmd → Cmd) : (s.modCmd id f).mxaSuspected = s.mxaSuspected := rfl
@[simp] theorem State.modCmd_stn (id : Nat) (f : Cmd → Cmd) : (s.modCmd id f).stn = s.stn := rfl
@[simp] theorem State.modCmd_hbm (id : Nat) (f : Cmd → Cmd) : (s.modCmd id f).hbm = s.hbm := rfl
@[simp] theorem State.modCmd_fab (id : Nat) (f : Cmd → Cmd) : (s.modCmd id f).fab = s.fab := rfl
@[simp] theorem State.modCmd_vch (id : Nat) (f : Cmd → Cmd) : (s.modCmd id f).vch = s.vch := rfl
@[simp] theorem State.modCmd_d2d (id : Nat) (f : Cmd → Cmd) : (s.modCmd id f).d2d = s.d2d := rfl
@[simp] theorem State.modCmd_cyl (id : Nat) (f : Cmd → Cmd) : (s.modCmd id f).cyl = s.cyl := rfl
@[simp] theorem State.modCmd_dma (id : Nat) (f : Cmd → Cmd) : (s.modCmd id f).dma = s.dma := rfl
@[simp] theorem State.modCmd_qos (id : Nat) (f : Cmd → Cmd) : (s.modCmd id f).qos = s.qos := rfl
@[simp] theorem State.modCmd_turns (id : Nat) (f : Cmd → Cmd) : (s.modCmd id f).turns = s.turns := rfl
@[simp] theorem State.modCmd_quantumUs (id : Nat) (f : Cmd → Cmd) : (s.modCmd id f).quantumUs = s.quantumUs := rfl
@[simp] theorem State.modCmd_pwr (id : Nat) (f : Cmd → Cmd) : (s.modCmd id f).pwr = s.pwr := rfl
@[simp] theorem State.modCmd_thm (id : Nat) (f : Cmd → Cmd) : (s.modCmd id f).thm = s.thm := rfl
@[simp] theorem State.modCmd_rel (id : Nat) (f : Cmd → Cmd) : (s.modCmd id f).rel = s.rel := rfl
@[simp] theorem State.modCmd_ink (id : Nat) (f : Cmd → Cmd) : (s.modCmd id f).ink = s.ink := rfl
@[simp] theorem State.modCmd_unlock (id : Nat) (f : Cmd → Cmd) : (s.modCmd id f).unlock = s.unlock := rfl
@[simp] theorem State.modCmd_dbg (id : Nat) (f : Cmd → Cmd) : (s.modCmd id f).dbg = s.dbg := rfl
@[simp] theorem State.modCmd_brd (id : Nat) (f : Cmd → Cmd) : (s.modCmd id f).brd = s.brd := rfl
@[simp] theorem State.modCmd_out (id : Nat) (f : Cmd → Cmd) : (s.modCmd id f).out = s.out := rfl
@[simp] theorem State.modCmd_fresh (id : Nat) (f : Cmd → Cmd) : (s.modCmd id f).fresh = s.fresh := rfl
@[simp] theorem State.modCmd_supp (id : Nat) (f : Cmd → Cmd) : (s.modCmd id f).supp = s.supp := rfl
@[simp] theorem State.modCmd_freeAt (id : Nat) (f : Cmd → Cmd) : (s.modCmd id f).freeAt = s.freeAt := rfl

/-! ### `modMbx` -/

@[simp] theorem State.modMbx_pending (fn : Fn) (f : Mailbox → Mailbox) : (s.modMbx fn f).pending = s.pending := rfl
@[simp] theorem State.modMbx_now (fn : Fn) (f : Mailbox → Mailbox) : (s.modMbx fn f).now = s.now := rfl
@[simp] theorem State.modMbx_holding (fn : Fn) (f : Mailbox → Mailbox) : (s.modMbx fn f).holding = s.holding := rfl
@[simp] theorem State.modMbx_slow (fn : Fn) (f : Mailbox → Mailbox) : (s.modMbx fn f).slow = s.slow := rfl
@[simp] theorem State.modMbx_mem (fn : Fn) (f : Mailbox → Mailbox) : (s.modMbx fn f).mem = s.mem := rfl
@[simp] theorem State.modMbx_lods (fn : Fn) (f : Mailbox → Mailbox) : (s.modMbx fn f).lods = s.lods := rfl
@[simp] theorem State.modMbx_msix (fn : Fn) (f : Mailbox → Mailbox) : (s.modMbx fn f).msix = s.msix := rfl
@[simp] theorem State.modMbx_porters (fn : Fn) (f : Mailbox → Mailbox) : (s.modMbx fn f).porters = s.porters := rfl
@[simp] theorem State.modMbx_cmds (fn : Fn) (f : Mailbox → Mailbox) : (s.modMbx fn f).cmds = s.cmds := rfl
@[simp] theorem State.modMbx_nextCmd (fn : Fn) (f : Mailbox → Mailbox) : (s.modMbx fn f).nextCmd = s.nextCmd := rfl
@[simp] theorem State.modMbx_launches (fn : Fn) (f : Mailbox → Mailbox) : (s.modMbx fn f).launches = s.launches := rfl
@[simp] theorem State.modMbx_blocks (fn : Fn) (f : Mailbox → Mailbox) : (s.modMbx fn f).blocks = s.blocks := rfl
@[simp] theorem State.modMbx_nextBlock (fn : Fn) (f : Mailbox → Mailbox) : (s.modMbx fn f).nextBlock = s.nextBlock := rfl
@[simp] theorem State.modMbx_mats (fn : Fn) (f : Mailbox → Mailbox) : (s.modMbx fn f).mats = s.mats := rfl
@[simp] theorem State.modMbx_attns (fn : Fn) (f : Mailbox → Mailbox) : (s.modMbx fn f).attns = s.attns := rfl
@[simp] theorem State.modMbx_cores (fn : Fn) (f : Mailbox → Mailbox) : (s.modMbx fn f).cores = s.cores := rfl
@[simp] theorem State.modMbx_mxaTol (fn : Fn) (f : Mailbox → Mailbox) : (s.modMbx fn f).mxaTol = s.mxaTol := rfl
@[simp] theorem State.modMbx_mxaRetries (fn : Fn) (f : Mailbox → Mailbox) : (s.modMbx fn f).mxaRetries = s.mxaRetries := rfl
@[simp] theorem State.modMbx_mxaSuspected (fn : Fn) (f : Mailbox → Mailbox) : (s.modMbx fn f).mxaSuspected = s.mxaSuspected := rfl
@[simp] theorem State.modMbx_stn (fn : Fn) (f : Mailbox → Mailbox) : (s.modMbx fn f).stn = s.stn := rfl
@[simp] theorem State.modMbx_hbm (fn : Fn) (f : Mailbox → Mailbox) : (s.modMbx fn f).hbm = s.hbm := rfl
@[simp] theorem State.modMbx_fab (fn : Fn) (f : Mailbox → Mailbox) : (s.modMbx fn f).fab = s.fab := rfl
@[simp] theorem State.modMbx_vch (fn : Fn) (f : Mailbox → Mailbox) : (s.modMbx fn f).vch = s.vch := rfl
@[simp] theorem State.modMbx_d2d (fn : Fn) (f : Mailbox → Mailbox) : (s.modMbx fn f).d2d = s.d2d := rfl
@[simp] theorem State.modMbx_cyl (fn : Fn) (f : Mailbox → Mailbox) : (s.modMbx fn f).cyl = s.cyl := rfl
@[simp] theorem State.modMbx_dma (fn : Fn) (f : Mailbox → Mailbox) : (s.modMbx fn f).dma = s.dma := rfl
@[simp] theorem State.modMbx_qos (fn : Fn) (f : Mailbox → Mailbox) : (s.modMbx fn f).qos = s.qos := rfl
@[simp] theorem State.modMbx_turns (fn : Fn) (f : Mailbox → Mailbox) : (s.modMbx fn f).turns = s.turns := rfl
@[simp] theorem State.modMbx_quantumUs (fn : Fn) (f : Mailbox → Mailbox) : (s.modMbx fn f).quantumUs = s.quantumUs := rfl
@[simp] theorem State.modMbx_pwr (fn : Fn) (f : Mailbox → Mailbox) : (s.modMbx fn f).pwr = s.pwr := rfl
@[simp] theorem State.modMbx_thm (fn : Fn) (f : Mailbox → Mailbox) : (s.modMbx fn f).thm = s.thm := rfl
@[simp] theorem State.modMbx_rel (fn : Fn) (f : Mailbox → Mailbox) : (s.modMbx fn f).rel = s.rel := rfl
@[simp] theorem State.modMbx_ink (fn : Fn) (f : Mailbox → Mailbox) : (s.modMbx fn f).ink = s.ink := rfl
@[simp] theorem State.modMbx_unlock (fn : Fn) (f : Mailbox → Mailbox) : (s.modMbx fn f).unlock = s.unlock := rfl
@[simp] theorem State.modMbx_dbg (fn : Fn) (f : Mailbox → Mailbox) : (s.modMbx fn f).dbg = s.dbg := rfl
@[simp] theorem State.modMbx_brd (fn : Fn) (f : Mailbox → Mailbox) : (s.modMbx fn f).brd = s.brd := rfl
@[simp] theorem State.modMbx_out (fn : Fn) (f : Mailbox → Mailbox) : (s.modMbx fn f).out = s.out := rfl
@[simp] theorem State.modMbx_fresh (fn : Fn) (f : Mailbox → Mailbox) : (s.modMbx fn f).fresh = s.fresh := rfl
@[simp] theorem State.modMbx_supp (fn : Fn) (f : Mailbox → Mailbox) : (s.modMbx fn f).supp = s.supp := rfl
@[simp] theorem State.modMbx_freeAt (fn : Fn) (f : Mailbox → Mailbox) : (s.modMbx fn f).freeAt = s.freeAt := rfl

/-! ### `modPorter` -/

@[simp] theorem State.modPorter_pending (k : Nat) (f : Porter → Porter) : (s.modPorter k f).pending = s.pending := rfl
@[simp] theorem State.modPorter_now (k : Nat) (f : Porter → Porter) : (s.modPorter k f).now = s.now := rfl
@[simp] theorem State.modPorter_holding (k : Nat) (f : Porter → Porter) : (s.modPorter k f).holding = s.holding := rfl
@[simp] theorem State.modPorter_slow (k : Nat) (f : Porter → Porter) : (s.modPorter k f).slow = s.slow := rfl
@[simp] theorem State.modPorter_mem (k : Nat) (f : Porter → Porter) : (s.modPorter k f).mem = s.mem := rfl
@[simp] theorem State.modPorter_lods (k : Nat) (f : Porter → Porter) : (s.modPorter k f).lods = s.lods := rfl
@[simp] theorem State.modPorter_mail (k : Nat) (f : Porter → Porter) : (s.modPorter k f).mail = s.mail := rfl
@[simp] theorem State.modPorter_msix (k : Nat) (f : Porter → Porter) : (s.modPorter k f).msix = s.msix := rfl
@[simp] theorem State.modPorter_cmds (k : Nat) (f : Porter → Porter) : (s.modPorter k f).cmds = s.cmds := rfl
@[simp] theorem State.modPorter_nextCmd (k : Nat) (f : Porter → Porter) : (s.modPorter k f).nextCmd = s.nextCmd := rfl
@[simp] theorem State.modPorter_launches (k : Nat) (f : Porter → Porter) : (s.modPorter k f).launches = s.launches := rfl
@[simp] theorem State.modPorter_blocks (k : Nat) (f : Porter → Porter) : (s.modPorter k f).blocks = s.blocks := rfl
@[simp] theorem State.modPorter_nextBlock (k : Nat) (f : Porter → Porter) : (s.modPorter k f).nextBlock = s.nextBlock := rfl
@[simp] theorem State.modPorter_mats (k : Nat) (f : Porter → Porter) : (s.modPorter k f).mats = s.mats := rfl
@[simp] theorem State.modPorter_attns (k : Nat) (f : Porter → Porter) : (s.modPorter k f).attns = s.attns := rfl
@[simp] theorem State.modPorter_cores (k : Nat) (f : Porter → Porter) : (s.modPorter k f).cores = s.cores := rfl
@[simp] theorem State.modPorter_mxaTol (k : Nat) (f : Porter → Porter) : (s.modPorter k f).mxaTol = s.mxaTol := rfl
@[simp] theorem State.modPorter_mxaRetries (k : Nat) (f : Porter → Porter) : (s.modPorter k f).mxaRetries = s.mxaRetries := rfl
@[simp] theorem State.modPorter_mxaSuspected (k : Nat) (f : Porter → Porter) : (s.modPorter k f).mxaSuspected = s.mxaSuspected := rfl
@[simp] theorem State.modPorter_stn (k : Nat) (f : Porter → Porter) : (s.modPorter k f).stn = s.stn := rfl
@[simp] theorem State.modPorter_hbm (k : Nat) (f : Porter → Porter) : (s.modPorter k f).hbm = s.hbm := rfl
@[simp] theorem State.modPorter_fab (k : Nat) (f : Porter → Porter) : (s.modPorter k f).fab = s.fab := rfl
@[simp] theorem State.modPorter_vch (k : Nat) (f : Porter → Porter) : (s.modPorter k f).vch = s.vch := rfl
@[simp] theorem State.modPorter_d2d (k : Nat) (f : Porter → Porter) : (s.modPorter k f).d2d = s.d2d := rfl
@[simp] theorem State.modPorter_cyl (k : Nat) (f : Porter → Porter) : (s.modPorter k f).cyl = s.cyl := rfl
@[simp] theorem State.modPorter_dma (k : Nat) (f : Porter → Porter) : (s.modPorter k f).dma = s.dma := rfl
@[simp] theorem State.modPorter_qos (k : Nat) (f : Porter → Porter) : (s.modPorter k f).qos = s.qos := rfl
@[simp] theorem State.modPorter_turns (k : Nat) (f : Porter → Porter) : (s.modPorter k f).turns = s.turns := rfl
@[simp] theorem State.modPorter_quantumUs (k : Nat) (f : Porter → Porter) : (s.modPorter k f).quantumUs = s.quantumUs := rfl
@[simp] theorem State.modPorter_pwr (k : Nat) (f : Porter → Porter) : (s.modPorter k f).pwr = s.pwr := rfl
@[simp] theorem State.modPorter_thm (k : Nat) (f : Porter → Porter) : (s.modPorter k f).thm = s.thm := rfl
@[simp] theorem State.modPorter_rel (k : Nat) (f : Porter → Porter) : (s.modPorter k f).rel = s.rel := rfl
@[simp] theorem State.modPorter_ink (k : Nat) (f : Porter → Porter) : (s.modPorter k f).ink = s.ink := rfl
@[simp] theorem State.modPorter_unlock (k : Nat) (f : Porter → Porter) : (s.modPorter k f).unlock = s.unlock := rfl
@[simp] theorem State.modPorter_dbg (k : Nat) (f : Porter → Porter) : (s.modPorter k f).dbg = s.dbg := rfl
@[simp] theorem State.modPorter_brd (k : Nat) (f : Porter → Porter) : (s.modPorter k f).brd = s.brd := rfl
@[simp] theorem State.modPorter_out (k : Nat) (f : Porter → Porter) : (s.modPorter k f).out = s.out := rfl
@[simp] theorem State.modPorter_fresh (k : Nat) (f : Porter → Porter) : (s.modPorter k f).fresh = s.fresh := rfl
@[simp] theorem State.modPorter_supp (k : Nat) (f : Porter → Porter) : (s.modPorter k f).supp = s.supp := rfl
@[simp] theorem State.modPorter_freeAt (k : Nat) (f : Porter → Porter) : (s.modPorter k f).freeAt = s.freeAt := rfl

/-! ### `modCore` -/

@[simp] theorem State.modCore_pending (col : Nat) (f : ColCore → ColCore) : (s.modCore col f).pending = s.pending := rfl
@[simp] theorem State.modCore_now (col : Nat) (f : ColCore → ColCore) : (s.modCore col f).now = s.now := rfl
@[simp] theorem State.modCore_holding (col : Nat) (f : ColCore → ColCore) : (s.modCore col f).holding = s.holding := rfl
@[simp] theorem State.modCore_slow (col : Nat) (f : ColCore → ColCore) : (s.modCore col f).slow = s.slow := rfl
@[simp] theorem State.modCore_mem (col : Nat) (f : ColCore → ColCore) : (s.modCore col f).mem = s.mem := rfl
@[simp] theorem State.modCore_lods (col : Nat) (f : ColCore → ColCore) : (s.modCore col f).lods = s.lods := rfl
@[simp] theorem State.modCore_mail (col : Nat) (f : ColCore → ColCore) : (s.modCore col f).mail = s.mail := rfl
@[simp] theorem State.modCore_msix (col : Nat) (f : ColCore → ColCore) : (s.modCore col f).msix = s.msix := rfl
@[simp] theorem State.modCore_porters (col : Nat) (f : ColCore → ColCore) : (s.modCore col f).porters = s.porters := rfl
@[simp] theorem State.modCore_cmds (col : Nat) (f : ColCore → ColCore) : (s.modCore col f).cmds = s.cmds := rfl
@[simp] theorem State.modCore_nextCmd (col : Nat) (f : ColCore → ColCore) : (s.modCore col f).nextCmd = s.nextCmd := rfl
@[simp] theorem State.modCore_launches (col : Nat) (f : ColCore → ColCore) : (s.modCore col f).launches = s.launches := rfl
@[simp] theorem State.modCore_blocks (col : Nat) (f : ColCore → ColCore) : (s.modCore col f).blocks = s.blocks := rfl
@[simp] theorem State.modCore_nextBlock (col : Nat) (f : ColCore → ColCore) : (s.modCore col f).nextBlock = s.nextBlock := rfl
@[simp] theorem State.modCore_mats (col : Nat) (f : ColCore → ColCore) : (s.modCore col f).mats = s.mats := rfl
@[simp] theorem State.modCore_attns (col : Nat) (f : ColCore → ColCore) : (s.modCore col f).attns = s.attns := rfl
@[simp] theorem State.modCore_mxaTol (col : Nat) (f : ColCore → ColCore) : (s.modCore col f).mxaTol = s.mxaTol := rfl
@[simp] theorem State.modCore_mxaRetries (col : Nat) (f : ColCore → ColCore) : (s.modCore col f).mxaRetries = s.mxaRetries := rfl
@[simp] theorem State.modCore_mxaSuspected (col : Nat) (f : ColCore → ColCore) : (s.modCore col f).mxaSuspected = s.mxaSuspected := rfl
@[simp] theorem State.modCore_stn (col : Nat) (f : ColCore → ColCore) : (s.modCore col f).stn = s.stn := rfl
@[simp] theorem State.modCore_hbm (col : Nat) (f : ColCore → ColCore) : (s.modCore col f).hbm = s.hbm := rfl
@[simp] theorem State.modCore_fab (col : Nat) (f : ColCore → ColCore) : (s.modCore col f).fab = s.fab := rfl
@[simp] theorem State.modCore_vch (col : Nat) (f : ColCore → ColCore) : (s.modCore col f).vch = s.vch := rfl
@[simp] theorem State.modCore_d2d (col : Nat) (f : ColCore → ColCore) : (s.modCore col f).d2d = s.d2d := rfl
@[simp] theorem State.modCore_cyl (col : Nat) (f : ColCore → ColCore) : (s.modCore col f).cyl = s.cyl := rfl
@[simp] theorem State.modCore_dma (col : Nat) (f : ColCore → ColCore) : (s.modCore col f).dma = s.dma := rfl
@[simp] theorem State.modCore_qos (col : Nat) (f : ColCore → ColCore) : (s.modCore col f).qos = s.qos := rfl
@[simp] theorem State.modCore_turns (col : Nat) (f : ColCore → ColCore) : (s.modCore col f).turns = s.turns := rfl
@[simp] theorem State.modCore_quantumUs (col : Nat) (f : ColCore → ColCore) : (s.modCore col f).quantumUs = s.quantumUs := rfl
@[simp] theorem State.modCore_pwr (col : Nat) (f : ColCore → ColCore) : (s.modCore col f).pwr = s.pwr := rfl
@[simp] theorem State.modCore_thm (col : Nat) (f : ColCore → ColCore) : (s.modCore col f).thm = s.thm := rfl
@[simp] theorem State.modCore_rel (col : Nat) (f : ColCore → ColCore) : (s.modCore col f).rel = s.rel := rfl
@[simp] theorem State.modCore_ink (col : Nat) (f : ColCore → ColCore) : (s.modCore col f).ink = s.ink := rfl
@[simp] theorem State.modCore_unlock (col : Nat) (f : ColCore → ColCore) : (s.modCore col f).unlock = s.unlock := rfl
@[simp] theorem State.modCore_dbg (col : Nat) (f : ColCore → ColCore) : (s.modCore col f).dbg = s.dbg := rfl
@[simp] theorem State.modCore_brd (col : Nat) (f : ColCore → ColCore) : (s.modCore col f).brd = s.brd := rfl
@[simp] theorem State.modCore_out (col : Nat) (f : ColCore → ColCore) : (s.modCore col f).out = s.out := rfl
@[simp] theorem State.modCore_fresh (col : Nat) (f : ColCore → ColCore) : (s.modCore col f).fresh = s.fresh := rfl
@[simp] theorem State.modCore_supp (col : Nat) (f : ColCore → ColCore) : (s.modCore col f).supp = s.supp := rfl
@[simp] theorem State.modCore_freeAt (col : Nat) (f : ColCore → ColCore) : (s.modCore col f).freeAt = s.freeAt := rfl

/-! ### `modSlice` -/

@[simp] theorem State.modSlice_pending (col : Nat) (f : Slice → Slice) : (s.modSlice col f).pending = s.pending := rfl
@[simp] theorem State.modSlice_now (col : Nat) (f : Slice → Slice) : (s.modSlice col f).now = s.now := rfl
@[simp] theorem State.modSlice_holding (col : Nat) (f : Slice → Slice) : (s.modSlice col f).holding = s.holding := rfl
@[simp] theorem State.modSlice_slow (col : Nat) (f : Slice → Slice) : (s.modSlice col f).slow = s.slow := rfl
@[simp] theorem State.modSlice_mem (col : Nat) (f : Slice → Slice) : (s.modSlice col f).mem = s.mem := rfl
@[simp] theorem State.modSlice_lods (col : Nat) (f : Slice → Slice) : (s.modSlice col f).lods = s.lods := rfl
@[simp] theorem State.modSlice_mail (col : Nat) (f : Slice → Slice) : (s.modSlice col f).mail = s.mail := rfl
@[simp] theorem State.modSlice_msix (col : Nat) (f : Slice → Slice) : (s.modSlice col f).msix = s.msix := rfl
@[simp] theorem State.modSlice_porters (col : Nat) (f : Slice → Slice) : (s.modSlice col f).porters = s.porters := rfl
@[simp] theorem State.modSlice_cmds (col : Nat) (f : Slice → Slice) : (s.modSlice col f).cmds = s.cmds := rfl
@[simp] theorem State.modSlice_nextCmd (col : Nat) (f : Slice → Slice) : (s.modSlice col f).nextCmd = s.nextCmd := rfl
@[simp] theorem State.modSlice_launches (col : Nat) (f : Slice → Slice) : (s.modSlice col f).launches = s.launches := rfl
@[simp] theorem State.modSlice_blocks (col : Nat) (f : Slice → Slice) : (s.modSlice col f).blocks = s.blocks := rfl
@[simp] theorem State.modSlice_nextBlock (col : Nat) (f : Slice → Slice) : (s.modSlice col f).nextBlock = s.nextBlock := rfl
@[simp] theorem State.modSlice_mats (col : Nat) (f : Slice → Slice) : (s.modSlice col f).mats = s.mats := rfl
@[simp] theorem State.modSlice_attns (col : Nat) (f : Slice → Slice) : (s.modSlice col f).attns = s.attns := rfl
@[simp] theorem State.modSlice_cores (col : Nat) (f : Slice → Slice) : (s.modSlice col f).cores = s.cores := rfl
@[simp] theorem State.modSlice_mxaTol (col : Nat) (f : Slice → Slice) : (s.modSlice col f).mxaTol = s.mxaTol := rfl
@[simp] theorem State.modSlice_mxaRetries (col : Nat) (f : Slice → Slice) : (s.modSlice col f).mxaRetries = s.mxaRetries := rfl
@[simp] theorem State.modSlice_mxaSuspected (col : Nat) (f : Slice → Slice) : (s.modSlice col f).mxaSuspected = s.mxaSuspected := rfl
@[simp] theorem State.modSlice_hbm (col : Nat) (f : Slice → Slice) : (s.modSlice col f).hbm = s.hbm := rfl
@[simp] theorem State.modSlice_fab (col : Nat) (f : Slice → Slice) : (s.modSlice col f).fab = s.fab := rfl
@[simp] theorem State.modSlice_vch (col : Nat) (f : Slice → Slice) : (s.modSlice col f).vch = s.vch := rfl
@[simp] theorem State.modSlice_d2d (col : Nat) (f : Slice → Slice) : (s.modSlice col f).d2d = s.d2d := rfl
@[simp] theorem State.modSlice_cyl (col : Nat) (f : Slice → Slice) : (s.modSlice col f).cyl = s.cyl := rfl
@[simp] theorem State.modSlice_dma (col : Nat) (f : Slice → Slice) : (s.modSlice col f).dma = s.dma := rfl
@[simp] theorem State.modSlice_qos (col : Nat) (f : Slice → Slice) : (s.modSlice col f).qos = s.qos := rfl
@[simp] theorem State.modSlice_turns (col : Nat) (f : Slice → Slice) : (s.modSlice col f).turns = s.turns := rfl
@[simp] theorem State.modSlice_quantumUs (col : Nat) (f : Slice → Slice) : (s.modSlice col f).quantumUs = s.quantumUs := rfl
@[simp] theorem State.modSlice_pwr (col : Nat) (f : Slice → Slice) : (s.modSlice col f).pwr = s.pwr := rfl
@[simp] theorem State.modSlice_thm (col : Nat) (f : Slice → Slice) : (s.modSlice col f).thm = s.thm := rfl
@[simp] theorem State.modSlice_rel (col : Nat) (f : Slice → Slice) : (s.modSlice col f).rel = s.rel := rfl
@[simp] theorem State.modSlice_ink (col : Nat) (f : Slice → Slice) : (s.modSlice col f).ink = s.ink := rfl
@[simp] theorem State.modSlice_unlock (col : Nat) (f : Slice → Slice) : (s.modSlice col f).unlock = s.unlock := rfl
@[simp] theorem State.modSlice_dbg (col : Nat) (f : Slice → Slice) : (s.modSlice col f).dbg = s.dbg := rfl
@[simp] theorem State.modSlice_brd (col : Nat) (f : Slice → Slice) : (s.modSlice col f).brd = s.brd := rfl
@[simp] theorem State.modSlice_out (col : Nat) (f : Slice → Slice) : (s.modSlice col f).out = s.out := rfl
@[simp] theorem State.modSlice_fresh (col : Nat) (f : Slice → Slice) : (s.modSlice col f).fresh = s.fresh := rfl
@[simp] theorem State.modSlice_supp (col : Nat) (f : Slice → Slice) : (s.modSlice col f).supp = s.supp := rfl
@[simp] theorem State.modSlice_freeAt (col : Nat) (f : Slice → Slice) : (s.modSlice col f).freeAt = s.freeAt := rfl

/-! ### `modStnRegs` -/

@[simp] theorem State.modStnRegs_pending (k : Nat) (f : StnRegs → StnRegs) : (s.modStnRegs k f).pending = s.pending := rfl
@[simp] theorem State.modStnRegs_now (k : Nat) (f : StnRegs → StnRegs) : (s.modStnRegs k f).now = s.now := rfl
@[simp] theorem State.modStnRegs_holding (k : Nat) (f : StnRegs → StnRegs) : (s.modStnRegs k f).holding = s.holding := rfl
@[simp] theorem State.modStnRegs_slow (k : Nat) (f : StnRegs → StnRegs) : (s.modStnRegs k f).slow = s.slow := rfl
@[simp] theorem State.modStnRegs_mem (k : Nat) (f : StnRegs → StnRegs) : (s.modStnRegs k f).mem = s.mem := rfl
@[simp] theorem State.modStnRegs_lods (k : Nat) (f : StnRegs → StnRegs) : (s.modStnRegs k f).lods = s.lods := rfl
@[simp] theorem State.modStnRegs_mail (k : Nat) (f : StnRegs → StnRegs) : (s.modStnRegs k f).mail = s.mail := rfl
@[simp] theorem State.modStnRegs_msix (k : Nat) (f : StnRegs → StnRegs) : (s.modStnRegs k f).msix = s.msix := rfl
@[simp] theorem State.modStnRegs_porters (k : Nat) (f : StnRegs → StnRegs) : (s.modStnRegs k f).porters = s.porters := rfl
@[simp] theorem State.modStnRegs_cmds (k : Nat) (f : StnRegs → StnRegs) : (s.modStnRegs k f).cmds = s.cmds := rfl
@[simp] theorem State.modStnRegs_nextCmd (k : Nat) (f : StnRegs → StnRegs) : (s.modStnRegs k f).nextCmd = s.nextCmd := rfl
@[simp] theorem State.modStnRegs_launches (k : Nat) (f : StnRegs → StnRegs) : (s.modStnRegs k f).launches = s.launches := rfl
@[simp] theorem State.modStnRegs_blocks (k : Nat) (f : StnRegs → StnRegs) : (s.modStnRegs k f).blocks = s.blocks := rfl
@[simp] theorem State.modStnRegs_nextBlock (k : Nat) (f : StnRegs → StnRegs) : (s.modStnRegs k f).nextBlock = s.nextBlock := rfl
@[simp] theorem State.modStnRegs_mats (k : Nat) (f : StnRegs → StnRegs) : (s.modStnRegs k f).mats = s.mats := rfl
@[simp] theorem State.modStnRegs_attns (k : Nat) (f : StnRegs → StnRegs) : (s.modStnRegs k f).attns = s.attns := rfl
@[simp] theorem State.modStnRegs_cores (k : Nat) (f : StnRegs → StnRegs) : (s.modStnRegs k f).cores = s.cores := rfl
@[simp] theorem State.modStnRegs_mxaTol (k : Nat) (f : StnRegs → StnRegs) : (s.modStnRegs k f).mxaTol = s.mxaTol := rfl
@[simp] theorem State.modStnRegs_mxaRetries (k : Nat) (f : StnRegs → StnRegs) : (s.modStnRegs k f).mxaRetries = s.mxaRetries := rfl
@[simp] theorem State.modStnRegs_mxaSuspected (k : Nat) (f : StnRegs → StnRegs) : (s.modStnRegs k f).mxaSuspected = s.mxaSuspected := rfl
@[simp] theorem State.modStnRegs_hbm (k : Nat) (f : StnRegs → StnRegs) : (s.modStnRegs k f).hbm = s.hbm := rfl
@[simp] theorem State.modStnRegs_fab (k : Nat) (f : StnRegs → StnRegs) : (s.modStnRegs k f).fab = s.fab := rfl
@[simp] theorem State.modStnRegs_vch (k : Nat) (f : StnRegs → StnRegs) : (s.modStnRegs k f).vch = s.vch := rfl
@[simp] theorem State.modStnRegs_d2d (k : Nat) (f : StnRegs → StnRegs) : (s.modStnRegs k f).d2d = s.d2d := rfl
@[simp] theorem State.modStnRegs_cyl (k : Nat) (f : StnRegs → StnRegs) : (s.modStnRegs k f).cyl = s.cyl := rfl
@[simp] theorem State.modStnRegs_dma (k : Nat) (f : StnRegs → StnRegs) : (s.modStnRegs k f).dma = s.dma := rfl
@[simp] theorem State.modStnRegs_qos (k : Nat) (f : StnRegs → StnRegs) : (s.modStnRegs k f).qos = s.qos := rfl
@[simp] theorem State.modStnRegs_turns (k : Nat) (f : StnRegs → StnRegs) : (s.modStnRegs k f).turns = s.turns := rfl
@[simp] theorem State.modStnRegs_quantumUs (k : Nat) (f : StnRegs → StnRegs) : (s.modStnRegs k f).quantumUs = s.quantumUs := rfl
@[simp] theorem State.modStnRegs_pwr (k : Nat) (f : StnRegs → StnRegs) : (s.modStnRegs k f).pwr = s.pwr := rfl
@[simp] theorem State.modStnRegs_thm (k : Nat) (f : StnRegs → StnRegs) : (s.modStnRegs k f).thm = s.thm := rfl
@[simp] theorem State.modStnRegs_rel (k : Nat) (f : StnRegs → StnRegs) : (s.modStnRegs k f).rel = s.rel := rfl
@[simp] theorem State.modStnRegs_ink (k : Nat) (f : StnRegs → StnRegs) : (s.modStnRegs k f).ink = s.ink := rfl
@[simp] theorem State.modStnRegs_unlock (k : Nat) (f : StnRegs → StnRegs) : (s.modStnRegs k f).unlock = s.unlock := rfl
@[simp] theorem State.modStnRegs_dbg (k : Nat) (f : StnRegs → StnRegs) : (s.modStnRegs k f).dbg = s.dbg := rfl
@[simp] theorem State.modStnRegs_brd (k : Nat) (f : StnRegs → StnRegs) : (s.modStnRegs k f).brd = s.brd := rfl
@[simp] theorem State.modStnRegs_out (k : Nat) (f : StnRegs → StnRegs) : (s.modStnRegs k f).out = s.out := rfl
@[simp] theorem State.modStnRegs_fresh (k : Nat) (f : StnRegs → StnRegs) : (s.modStnRegs k f).fresh = s.fresh := rfl
@[simp] theorem State.modStnRegs_supp (k : Nat) (f : StnRegs → StnRegs) : (s.modStnRegs k f).supp = s.supp := rfl
@[simp] theorem State.modStnRegs_freeAt (k : Nat) (f : StnRegs → StnRegs) : (s.modStnRegs k f).freeAt = s.freeAt := rfl

/-! ### `modHbmRegs` -/

@[simp] theorem State.modHbmRegs_pending (k : Nat) (f : HbmRegs → HbmRegs) : (s.modHbmRegs k f).pending = s.pending := rfl
@[simp] theorem State.modHbmRegs_now (k : Nat) (f : HbmRegs → HbmRegs) : (s.modHbmRegs k f).now = s.now := rfl
@[simp] theorem State.modHbmRegs_holding (k : Nat) (f : HbmRegs → HbmRegs) : (s.modHbmRegs k f).holding = s.holding := rfl
@[simp] theorem State.modHbmRegs_slow (k : Nat) (f : HbmRegs → HbmRegs) : (s.modHbmRegs k f).slow = s.slow := rfl
@[simp] theorem State.modHbmRegs_mem (k : Nat) (f : HbmRegs → HbmRegs) : (s.modHbmRegs k f).mem = s.mem := rfl
@[simp] theorem State.modHbmRegs_lods (k : Nat) (f : HbmRegs → HbmRegs) : (s.modHbmRegs k f).lods = s.lods := rfl
@[simp] theorem State.modHbmRegs_mail (k : Nat) (f : HbmRegs → HbmRegs) : (s.modHbmRegs k f).mail = s.mail := rfl
@[simp] theorem State.modHbmRegs_msix (k : Nat) (f : HbmRegs → HbmRegs) : (s.modHbmRegs k f).msix = s.msix := rfl
@[simp] theorem State.modHbmRegs_porters (k : Nat) (f : HbmRegs → HbmRegs) : (s.modHbmRegs k f).porters = s.porters := rfl
@[simp] theorem State.modHbmRegs_cmds (k : Nat) (f : HbmRegs → HbmRegs) : (s.modHbmRegs k f).cmds = s.cmds := rfl
@[simp] theorem State.modHbmRegs_nextCmd (k : Nat) (f : HbmRegs → HbmRegs) : (s.modHbmRegs k f).nextCmd = s.nextCmd := rfl
@[simp] theorem State.modHbmRegs_launches (k : Nat) (f : HbmRegs → HbmRegs) : (s.modHbmRegs k f).launches = s.launches := rfl
@[simp] theorem State.modHbmRegs_blocks (k : Nat) (f : HbmRegs → HbmRegs) : (s.modHbmRegs k f).blocks = s.blocks := rfl
@[simp] theorem State.modHbmRegs_nextBlock (k : Nat) (f : HbmRegs → HbmRegs) : (s.modHbmRegs k f).nextBlock = s.nextBlock := rfl
@[simp] theorem State.modHbmRegs_mats (k : Nat) (f : HbmRegs → HbmRegs) : (s.modHbmRegs k f).mats = s.mats := rfl
@[simp] theorem State.modHbmRegs_attns (k : Nat) (f : HbmRegs → HbmRegs) : (s.modHbmRegs k f).attns = s.attns := rfl
@[simp] theorem State.modHbmRegs_cores (k : Nat) (f : HbmRegs → HbmRegs) : (s.modHbmRegs k f).cores = s.cores := rfl
@[simp] theorem State.modHbmRegs_mxaTol (k : Nat) (f : HbmRegs → HbmRegs) : (s.modHbmRegs k f).mxaTol = s.mxaTol := rfl
@[simp] theorem State.modHbmRegs_mxaRetries (k : Nat) (f : HbmRegs → HbmRegs) : (s.modHbmRegs k f).mxaRetries = s.mxaRetries := rfl
@[simp] theorem State.modHbmRegs_mxaSuspected (k : Nat) (f : HbmRegs → HbmRegs) : (s.modHbmRegs k f).mxaSuspected = s.mxaSuspected := rfl
@[simp] theorem State.modHbmRegs_stn (k : Nat) (f : HbmRegs → HbmRegs) : (s.modHbmRegs k f).stn = s.stn := rfl
@[simp] theorem State.modHbmRegs_fab (k : Nat) (f : HbmRegs → HbmRegs) : (s.modHbmRegs k f).fab = s.fab := rfl
@[simp] theorem State.modHbmRegs_vch (k : Nat) (f : HbmRegs → HbmRegs) : (s.modHbmRegs k f).vch = s.vch := rfl
@[simp] theorem State.modHbmRegs_d2d (k : Nat) (f : HbmRegs → HbmRegs) : (s.modHbmRegs k f).d2d = s.d2d := rfl
@[simp] theorem State.modHbmRegs_cyl (k : Nat) (f : HbmRegs → HbmRegs) : (s.modHbmRegs k f).cyl = s.cyl := rfl
@[simp] theorem State.modHbmRegs_dma (k : Nat) (f : HbmRegs → HbmRegs) : (s.modHbmRegs k f).dma = s.dma := rfl
@[simp] theorem State.modHbmRegs_qos (k : Nat) (f : HbmRegs → HbmRegs) : (s.modHbmRegs k f).qos = s.qos := rfl
@[simp] theorem State.modHbmRegs_turns (k : Nat) (f : HbmRegs → HbmRegs) : (s.modHbmRegs k f).turns = s.turns := rfl
@[simp] theorem State.modHbmRegs_quantumUs (k : Nat) (f : HbmRegs → HbmRegs) : (s.modHbmRegs k f).quantumUs = s.quantumUs := rfl
@[simp] theorem State.modHbmRegs_pwr (k : Nat) (f : HbmRegs → HbmRegs) : (s.modHbmRegs k f).pwr = s.pwr := rfl
@[simp] theorem State.modHbmRegs_thm (k : Nat) (f : HbmRegs → HbmRegs) : (s.modHbmRegs k f).thm = s.thm := rfl
@[simp] theorem State.modHbmRegs_rel (k : Nat) (f : HbmRegs → HbmRegs) : (s.modHbmRegs k f).rel = s.rel := rfl
@[simp] theorem State.modHbmRegs_ink (k : Nat) (f : HbmRegs → HbmRegs) : (s.modHbmRegs k f).ink = s.ink := rfl
@[simp] theorem State.modHbmRegs_unlock (k : Nat) (f : HbmRegs → HbmRegs) : (s.modHbmRegs k f).unlock = s.unlock := rfl
@[simp] theorem State.modHbmRegs_dbg (k : Nat) (f : HbmRegs → HbmRegs) : (s.modHbmRegs k f).dbg = s.dbg := rfl
@[simp] theorem State.modHbmRegs_brd (k : Nat) (f : HbmRegs → HbmRegs) : (s.modHbmRegs k f).brd = s.brd := rfl
@[simp] theorem State.modHbmRegs_out (k : Nat) (f : HbmRegs → HbmRegs) : (s.modHbmRegs k f).out = s.out := rfl
@[simp] theorem State.modHbmRegs_fresh (k : Nat) (f : HbmRegs → HbmRegs) : (s.modHbmRegs k f).fresh = s.fresh := rfl
@[simp] theorem State.modHbmRegs_supp (k : Nat) (f : HbmRegs → HbmRegs) : (s.modHbmRegs k f).supp = s.supp := rfl
@[simp] theorem State.modHbmRegs_freeAt (k : Nat) (f : HbmRegs → HbmRegs) : (s.modHbmRegs k f).freeAt = s.freeAt := rfl

/-! ### `modChannel` -/

@[simp] theorem State.modChannel_pending (col : Nat) (f : Channel → Channel) : (s.modChannel col f).pending = s.pending := rfl
@[simp] theorem State.modChannel_now (col : Nat) (f : Channel → Channel) : (s.modChannel col f).now = s.now := rfl
@[simp] theorem State.modChannel_holding (col : Nat) (f : Channel → Channel) : (s.modChannel col f).holding = s.holding := rfl
@[simp] theorem State.modChannel_slow (col : Nat) (f : Channel → Channel) : (s.modChannel col f).slow = s.slow := rfl
@[simp] theorem State.modChannel_mem (col : Nat) (f : Channel → Channel) : (s.modChannel col f).mem = s.mem := rfl
@[simp] theorem State.modChannel_lods (col : Nat) (f : Channel → Channel) : (s.modChannel col f).lods = s.lods := rfl
@[simp] theorem State.modChannel_mail (col : Nat) (f : Channel → Channel) : (s.modChannel col f).mail = s.mail := rfl
@[simp] theorem State.modChannel_msix (col : Nat) (f : Channel → Channel) : (s.modChannel col f).msix = s.msix := rfl
@[simp] theorem State.modChannel_porters (col : Nat) (f : Channel → Channel) : (s.modChannel col f).porters = s.porters := rfl
@[simp] theorem State.modChannel_cmds (col : Nat) (f : Channel → Channel) : (s.modChannel col f).cmds = s.cmds := rfl
@[simp] theorem State.modChannel_nextCmd (col : Nat) (f : Channel → Channel) : (s.modChannel col f).nextCmd = s.nextCmd := rfl
@[simp] theorem State.modChannel_launches (col : Nat) (f : Channel → Channel) : (s.modChannel col f).launches = s.launches := rfl
@[simp] theorem State.modChannel_blocks (col : Nat) (f : Channel → Channel) : (s.modChannel col f).blocks = s.blocks := rfl
@[simp] theorem State.modChannel_nextBlock (col : Nat) (f : Channel → Channel) : (s.modChannel col f).nextBlock = s.nextBlock := rfl
@[simp] theorem State.modChannel_mats (col : Nat) (f : Channel → Channel) : (s.modChannel col f).mats = s.mats := rfl
@[simp] theorem State.modChannel_attns (col : Nat) (f : Channel → Channel) : (s.modChannel col f).attns = s.attns := rfl
@[simp] theorem State.modChannel_cores (col : Nat) (f : Channel → Channel) : (s.modChannel col f).cores = s.cores := rfl
@[simp] theorem State.modChannel_mxaTol (col : Nat) (f : Channel → Channel) : (s.modChannel col f).mxaTol = s.mxaTol := rfl
@[simp] theorem State.modChannel_mxaRetries (col : Nat) (f : Channel → Channel) : (s.modChannel col f).mxaRetries = s.mxaRetries := rfl
@[simp] theorem State.modChannel_mxaSuspected (col : Nat) (f : Channel → Channel) : (s.modChannel col f).mxaSuspected = s.mxaSuspected := rfl
@[simp] theorem State.modChannel_stn (col : Nat) (f : Channel → Channel) : (s.modChannel col f).stn = s.stn := rfl
@[simp] theorem State.modChannel_fab (col : Nat) (f : Channel → Channel) : (s.modChannel col f).fab = s.fab := rfl
@[simp] theorem State.modChannel_vch (col : Nat) (f : Channel → Channel) : (s.modChannel col f).vch = s.vch := rfl
@[simp] theorem State.modChannel_d2d (col : Nat) (f : Channel → Channel) : (s.modChannel col f).d2d = s.d2d := rfl
@[simp] theorem State.modChannel_cyl (col : Nat) (f : Channel → Channel) : (s.modChannel col f).cyl = s.cyl := rfl
@[simp] theorem State.modChannel_dma (col : Nat) (f : Channel → Channel) : (s.modChannel col f).dma = s.dma := rfl
@[simp] theorem State.modChannel_qos (col : Nat) (f : Channel → Channel) : (s.modChannel col f).qos = s.qos := rfl
@[simp] theorem State.modChannel_turns (col : Nat) (f : Channel → Channel) : (s.modChannel col f).turns = s.turns := rfl
@[simp] theorem State.modChannel_quantumUs (col : Nat) (f : Channel → Channel) : (s.modChannel col f).quantumUs = s.quantumUs := rfl
@[simp] theorem State.modChannel_pwr (col : Nat) (f : Channel → Channel) : (s.modChannel col f).pwr = s.pwr := rfl
@[simp] theorem State.modChannel_thm (col : Nat) (f : Channel → Channel) : (s.modChannel col f).thm = s.thm := rfl
@[simp] theorem State.modChannel_rel (col : Nat) (f : Channel → Channel) : (s.modChannel col f).rel = s.rel := rfl
@[simp] theorem State.modChannel_ink (col : Nat) (f : Channel → Channel) : (s.modChannel col f).ink = s.ink := rfl
@[simp] theorem State.modChannel_unlock (col : Nat) (f : Channel → Channel) : (s.modChannel col f).unlock = s.unlock := rfl
@[simp] theorem State.modChannel_dbg (col : Nat) (f : Channel → Channel) : (s.modChannel col f).dbg = s.dbg := rfl
@[simp] theorem State.modChannel_brd (col : Nat) (f : Channel → Channel) : (s.modChannel col f).brd = s.brd := rfl
@[simp] theorem State.modChannel_out (col : Nat) (f : Channel → Channel) : (s.modChannel col f).out = s.out := rfl
@[simp] theorem State.modChannel_fresh (col : Nat) (f : Channel → Channel) : (s.modChannel col f).fresh = s.fresh := rfl
@[simp] theorem State.modChannel_supp (col : Nat) (f : Channel → Channel) : (s.modChannel col f).supp = s.supp := rfl
@[simp] theorem State.modChannel_freeAt (col : Nat) (f : Channel → Channel) : (s.modChannel col f).freeAt = s.freeAt := rfl

/-! ### `modLane` -/

@[simp] theorem State.modLane_pending (l : Lane) (f : LaneSt → LaneSt) : (s.modLane l f).pending = s.pending := rfl
@[simp] theorem State.modLane_now (l : Lane) (f : LaneSt → LaneSt) : (s.modLane l f).now = s.now := rfl
@[simp] theorem State.modLane_holding (l : Lane) (f : LaneSt → LaneSt) : (s.modLane l f).holding = s.holding := rfl
@[simp] theorem State.modLane_slow (l : Lane) (f : LaneSt → LaneSt) : (s.modLane l f).slow = s.slow := rfl
@[simp] theorem State.modLane_mem (l : Lane) (f : LaneSt → LaneSt) : (s.modLane l f).mem = s.mem := rfl
@[simp] theorem State.modLane_lods (l : Lane) (f : LaneSt → LaneSt) : (s.modLane l f).lods = s.lods := rfl
@[simp] theorem State.modLane_mail (l : Lane) (f : LaneSt → LaneSt) : (s.modLane l f).mail = s.mail := rfl
@[simp] theorem State.modLane_msix (l : Lane) (f : LaneSt → LaneSt) : (s.modLane l f).msix = s.msix := rfl
@[simp] theorem State.modLane_porters (l : Lane) (f : LaneSt → LaneSt) : (s.modLane l f).porters = s.porters := rfl
@[simp] theorem State.modLane_cmds (l : Lane) (f : LaneSt → LaneSt) : (s.modLane l f).cmds = s.cmds := rfl
@[simp] theorem State.modLane_nextCmd (l : Lane) (f : LaneSt → LaneSt) : (s.modLane l f).nextCmd = s.nextCmd := rfl
@[simp] theorem State.modLane_launches (l : Lane) (f : LaneSt → LaneSt) : (s.modLane l f).launches = s.launches := rfl
@[simp] theorem State.modLane_blocks (l : Lane) (f : LaneSt → LaneSt) : (s.modLane l f).blocks = s.blocks := rfl
@[simp] theorem State.modLane_nextBlock (l : Lane) (f : LaneSt → LaneSt) : (s.modLane l f).nextBlock = s.nextBlock := rfl
@[simp] theorem State.modLane_mats (l : Lane) (f : LaneSt → LaneSt) : (s.modLane l f).mats = s.mats := rfl
@[simp] theorem State.modLane_attns (l : Lane) (f : LaneSt → LaneSt) : (s.modLane l f).attns = s.attns := rfl
@[simp] theorem State.modLane_cores (l : Lane) (f : LaneSt → LaneSt) : (s.modLane l f).cores = s.cores := rfl
@[simp] theorem State.modLane_mxaTol (l : Lane) (f : LaneSt → LaneSt) : (s.modLane l f).mxaTol = s.mxaTol := rfl
@[simp] theorem State.modLane_mxaRetries (l : Lane) (f : LaneSt → LaneSt) : (s.modLane l f).mxaRetries = s.mxaRetries := rfl
@[simp] theorem State.modLane_mxaSuspected (l : Lane) (f : LaneSt → LaneSt) : (s.modLane l f).mxaSuspected = s.mxaSuspected := rfl
@[simp] theorem State.modLane_stn (l : Lane) (f : LaneSt → LaneSt) : (s.modLane l f).stn = s.stn := rfl
@[simp] theorem State.modLane_hbm (l : Lane) (f : LaneSt → LaneSt) : (s.modLane l f).hbm = s.hbm := rfl
@[simp] theorem State.modLane_fab (l : Lane) (f : LaneSt → LaneSt) : (s.modLane l f).fab = s.fab := rfl
@[simp] theorem State.modLane_d2d (l : Lane) (f : LaneSt → LaneSt) : (s.modLane l f).d2d = s.d2d := rfl
@[simp] theorem State.modLane_cyl (l : Lane) (f : LaneSt → LaneSt) : (s.modLane l f).cyl = s.cyl := rfl
@[simp] theorem State.modLane_dma (l : Lane) (f : LaneSt → LaneSt) : (s.modLane l f).dma = s.dma := rfl
@[simp] theorem State.modLane_qos (l : Lane) (f : LaneSt → LaneSt) : (s.modLane l f).qos = s.qos := rfl
@[simp] theorem State.modLane_turns (l : Lane) (f : LaneSt → LaneSt) : (s.modLane l f).turns = s.turns := rfl
@[simp] theorem State.modLane_quantumUs (l : Lane) (f : LaneSt → LaneSt) : (s.modLane l f).quantumUs = s.quantumUs := rfl
@[simp] theorem State.modLane_pwr (l : Lane) (f : LaneSt → LaneSt) : (s.modLane l f).pwr = s.pwr := rfl
@[simp] theorem State.modLane_thm (l : Lane) (f : LaneSt → LaneSt) : (s.modLane l f).thm = s.thm := rfl
@[simp] theorem State.modLane_rel (l : Lane) (f : LaneSt → LaneSt) : (s.modLane l f).rel = s.rel := rfl
@[simp] theorem State.modLane_ink (l : Lane) (f : LaneSt → LaneSt) : (s.modLane l f).ink = s.ink := rfl
@[simp] theorem State.modLane_unlock (l : Lane) (f : LaneSt → LaneSt) : (s.modLane l f).unlock = s.unlock := rfl
@[simp] theorem State.modLane_dbg (l : Lane) (f : LaneSt → LaneSt) : (s.modLane l f).dbg = s.dbg := rfl
@[simp] theorem State.modLane_brd (l : Lane) (f : LaneSt → LaneSt) : (s.modLane l f).brd = s.brd := rfl
@[simp] theorem State.modLane_out (l : Lane) (f : LaneSt → LaneSt) : (s.modLane l f).out = s.out := rfl
@[simp] theorem State.modLane_fresh (l : Lane) (f : LaneSt → LaneSt) : (s.modLane l f).fresh = s.fresh := rfl
@[simp] theorem State.modLane_supp (l : Lane) (f : LaneSt → LaneSt) : (s.modLane l f).supp = s.supp := rfl
@[simp] theorem State.modLane_freeAt (l : Lane) (f : LaneSt → LaneSt) : (s.modLane l f).freeAt = s.freeAt := rfl

/-! ### `modDomain` -/

@[simp] theorem State.modDomain_pending (d : Nat) (f : Domain → Domain) : (s.modDomain d f).pending = s.pending := rfl
@[simp] theorem State.modDomain_now (d : Nat) (f : Domain → Domain) : (s.modDomain d f).now = s.now := rfl
@[simp] theorem State.modDomain_holding (d : Nat) (f : Domain → Domain) : (s.modDomain d f).holding = s.holding := rfl
@[simp] theorem State.modDomain_slow (d : Nat) (f : Domain → Domain) : (s.modDomain d f).slow = s.slow := rfl
@[simp] theorem State.modDomain_mem (d : Nat) (f : Domain → Domain) : (s.modDomain d f).mem = s.mem := rfl
@[simp] theorem State.modDomain_lods (d : Nat) (f : Domain → Domain) : (s.modDomain d f).lods = s.lods := rfl
@[simp] theorem State.modDomain_mail (d : Nat) (f : Domain → Domain) : (s.modDomain d f).mail = s.mail := rfl
@[simp] theorem State.modDomain_msix (d : Nat) (f : Domain → Domain) : (s.modDomain d f).msix = s.msix := rfl
@[simp] theorem State.modDomain_porters (d : Nat) (f : Domain → Domain) : (s.modDomain d f).porters = s.porters := rfl
@[simp] theorem State.modDomain_cmds (d : Nat) (f : Domain → Domain) : (s.modDomain d f).cmds = s.cmds := rfl
@[simp] theorem State.modDomain_nextCmd (d : Nat) (f : Domain → Domain) : (s.modDomain d f).nextCmd = s.nextCmd := rfl
@[simp] theorem State.modDomain_launches (d : Nat) (f : Domain → Domain) : (s.modDomain d f).launches = s.launches := rfl
@[simp] theorem State.modDomain_blocks (d : Nat) (f : Domain → Domain) : (s.modDomain d f).blocks = s.blocks := rfl
@[simp] theorem State.modDomain_nextBlock (d : Nat) (f : Domain → Domain) : (s.modDomain d f).nextBlock = s.nextBlock := rfl
@[simp] theorem State.modDomain_mats (d : Nat) (f : Domain → Domain) : (s.modDomain d f).mats = s.mats := rfl
@[simp] theorem State.modDomain_attns (d : Nat) (f : Domain → Domain) : (s.modDomain d f).attns = s.attns := rfl
@[simp] theorem State.modDomain_cores (d : Nat) (f : Domain → Domain) : (s.modDomain d f).cores = s.cores := rfl
@[simp] theorem State.modDomain_mxaTol (d : Nat) (f : Domain → Domain) : (s.modDomain d f).mxaTol = s.mxaTol := rfl
@[simp] theorem State.modDomain_mxaRetries (d : Nat) (f : Domain → Domain) : (s.modDomain d f).mxaRetries = s.mxaRetries := rfl
@[simp] theorem State.modDomain_mxaSuspected (d : Nat) (f : Domain → Domain) : (s.modDomain d f).mxaSuspected = s.mxaSuspected := rfl
@[simp] theorem State.modDomain_stn (d : Nat) (f : Domain → Domain) : (s.modDomain d f).stn = s.stn := rfl
@[simp] theorem State.modDomain_hbm (d : Nat) (f : Domain → Domain) : (s.modDomain d f).hbm = s.hbm := rfl
@[simp] theorem State.modDomain_fab (d : Nat) (f : Domain → Domain) : (s.modDomain d f).fab = s.fab := rfl
@[simp] theorem State.modDomain_vch (d : Nat) (f : Domain → Domain) : (s.modDomain d f).vch = s.vch := rfl
@[simp] theorem State.modDomain_d2d (d : Nat) (f : Domain → Domain) : (s.modDomain d f).d2d = s.d2d := rfl
@[simp] theorem State.modDomain_cyl (d : Nat) (f : Domain → Domain) : (s.modDomain d f).cyl = s.cyl := rfl
@[simp] theorem State.modDomain_dma (d : Nat) (f : Domain → Domain) : (s.modDomain d f).dma = s.dma := rfl
@[simp] theorem State.modDomain_qos (d : Nat) (f : Domain → Domain) : (s.modDomain d f).qos = s.qos := rfl
@[simp] theorem State.modDomain_turns (d : Nat) (f : Domain → Domain) : (s.modDomain d f).turns = s.turns := rfl
@[simp] theorem State.modDomain_quantumUs (d : Nat) (f : Domain → Domain) : (s.modDomain d f).quantumUs = s.quantumUs := rfl
@[simp] theorem State.modDomain_thm (d : Nat) (f : Domain → Domain) : (s.modDomain d f).thm = s.thm := rfl
@[simp] theorem State.modDomain_rel (d : Nat) (f : Domain → Domain) : (s.modDomain d f).rel = s.rel := rfl
@[simp] theorem State.modDomain_ink (d : Nat) (f : Domain → Domain) : (s.modDomain d f).ink = s.ink := rfl
@[simp] theorem State.modDomain_unlock (d : Nat) (f : Domain → Domain) : (s.modDomain d f).unlock = s.unlock := rfl
@[simp] theorem State.modDomain_dbg (d : Nat) (f : Domain → Domain) : (s.modDomain d f).dbg = s.dbg := rfl
@[simp] theorem State.modDomain_brd (d : Nat) (f : Domain → Domain) : (s.modDomain d f).brd = s.brd := rfl
@[simp] theorem State.modDomain_out (d : Nat) (f : Domain → Domain) : (s.modDomain d f).out = s.out := rfl
@[simp] theorem State.modDomain_fresh (d : Nat) (f : Domain → Domain) : (s.modDomain d f).fresh = s.fresh := rfl
@[simp] theorem State.modDomain_supp (d : Nat) (f : Domain → Domain) : (s.modDomain d f).supp = s.supp := rfl
@[simp] theorem State.modDomain_freeAt (d : Nat) (f : Domain → Domain) : (s.modDomain d f).freeAt = s.freeAt := rfl

/-! ### `modPort` -/

@[simp] theorem State.modPort_pending (p : Nat) (f : CytilPort → CytilPort) : (s.modPort p f).pending = s.pending := rfl
@[simp] theorem State.modPort_now (p : Nat) (f : CytilPort → CytilPort) : (s.modPort p f).now = s.now := rfl
@[simp] theorem State.modPort_holding (p : Nat) (f : CytilPort → CytilPort) : (s.modPort p f).holding = s.holding := rfl
@[simp] theorem State.modPort_slow (p : Nat) (f : CytilPort → CytilPort) : (s.modPort p f).slow = s.slow := rfl
@[simp] theorem State.modPort_mem (p : Nat) (f : CytilPort → CytilPort) : (s.modPort p f).mem = s.mem := rfl
@[simp] theorem State.modPort_lods (p : Nat) (f : CytilPort → CytilPort) : (s.modPort p f).lods = s.lods := rfl
@[simp] theorem State.modPort_mail (p : Nat) (f : CytilPort → CytilPort) : (s.modPort p f).mail = s.mail := rfl
@[simp] theorem State.modPort_msix (p : Nat) (f : CytilPort → CytilPort) : (s.modPort p f).msix = s.msix := rfl
@[simp] theorem State.modPort_porters (p : Nat) (f : CytilPort → CytilPort) : (s.modPort p f).porters = s.porters := rfl
@[simp] theorem State.modPort_cmds (p : Nat) (f : CytilPort → CytilPort) : (s.modPort p f).cmds = s.cmds := rfl
@[simp] theorem State.modPort_nextCmd (p : Nat) (f : CytilPort → CytilPort) : (s.modPort p f).nextCmd = s.nextCmd := rfl
@[simp] theorem State.modPort_launches (p : Nat) (f : CytilPort → CytilPort) : (s.modPort p f).launches = s.launches := rfl
@[simp] theorem State.modPort_blocks (p : Nat) (f : CytilPort → CytilPort) : (s.modPort p f).blocks = s.blocks := rfl
@[simp] theorem State.modPort_nextBlock (p : Nat) (f : CytilPort → CytilPort) : (s.modPort p f).nextBlock = s.nextBlock := rfl
@[simp] theorem State.modPort_mats (p : Nat) (f : CytilPort → CytilPort) : (s.modPort p f).mats = s.mats := rfl
@[simp] theorem State.modPort_attns (p : Nat) (f : CytilPort → CytilPort) : (s.modPort p f).attns = s.attns := rfl
@[simp] theorem State.modPort_cores (p : Nat) (f : CytilPort → CytilPort) : (s.modPort p f).cores = s.cores := rfl
@[simp] theorem State.modPort_mxaTol (p : Nat) (f : CytilPort → CytilPort) : (s.modPort p f).mxaTol = s.mxaTol := rfl
@[simp] theorem State.modPort_mxaRetries (p : Nat) (f : CytilPort → CytilPort) : (s.modPort p f).mxaRetries = s.mxaRetries := rfl
@[simp] theorem State.modPort_mxaSuspected (p : Nat) (f : CytilPort → CytilPort) : (s.modPort p f).mxaSuspected = s.mxaSuspected := rfl
@[simp] theorem State.modPort_stn (p : Nat) (f : CytilPort → CytilPort) : (s.modPort p f).stn = s.stn := rfl
@[simp] theorem State.modPort_hbm (p : Nat) (f : CytilPort → CytilPort) : (s.modPort p f).hbm = s.hbm := rfl
@[simp] theorem State.modPort_fab (p : Nat) (f : CytilPort → CytilPort) : (s.modPort p f).fab = s.fab := rfl
@[simp] theorem State.modPort_vch (p : Nat) (f : CytilPort → CytilPort) : (s.modPort p f).vch = s.vch := rfl
@[simp] theorem State.modPort_d2d (p : Nat) (f : CytilPort → CytilPort) : (s.modPort p f).d2d = s.d2d := rfl
@[simp] theorem State.modPort_dma (p : Nat) (f : CytilPort → CytilPort) : (s.modPort p f).dma = s.dma := rfl
@[simp] theorem State.modPort_qos (p : Nat) (f : CytilPort → CytilPort) : (s.modPort p f).qos = s.qos := rfl
@[simp] theorem State.modPort_turns (p : Nat) (f : CytilPort → CytilPort) : (s.modPort p f).turns = s.turns := rfl
@[simp] theorem State.modPort_quantumUs (p : Nat) (f : CytilPort → CytilPort) : (s.modPort p f).quantumUs = s.quantumUs := rfl
@[simp] theorem State.modPort_pwr (p : Nat) (f : CytilPort → CytilPort) : (s.modPort p f).pwr = s.pwr := rfl
@[simp] theorem State.modPort_thm (p : Nat) (f : CytilPort → CytilPort) : (s.modPort p f).thm = s.thm := rfl
@[simp] theorem State.modPort_rel (p : Nat) (f : CytilPort → CytilPort) : (s.modPort p f).rel = s.rel := rfl
@[simp] theorem State.modPort_ink (p : Nat) (f : CytilPort → CytilPort) : (s.modPort p f).ink = s.ink := rfl
@[simp] theorem State.modPort_unlock (p : Nat) (f : CytilPort → CytilPort) : (s.modPort p f).unlock = s.unlock := rfl
@[simp] theorem State.modPort_dbg (p : Nat) (f : CytilPort → CytilPort) : (s.modPort p f).dbg = s.dbg := rfl
@[simp] theorem State.modPort_brd (p : Nat) (f : CytilPort → CytilPort) : (s.modPort p f).brd = s.brd := rfl
@[simp] theorem State.modPort_out (p : Nat) (f : CytilPort → CytilPort) : (s.modPort p f).out = s.out := rfl
@[simp] theorem State.modPort_fresh (p : Nat) (f : CytilPort → CytilPort) : (s.modPort p f).fresh = s.fresh := rfl
@[simp] theorem State.modPort_supp (p : Nat) (f : CytilPort → CytilPort) : (s.modPort p f).supp = s.supp := rfl
@[simp] theorem State.modPort_freeAt (p : Nat) (f : CytilPort → CytilPort) : (s.modPort p f).freeAt = s.freeAt := rfl

/-! ### `emit` -/

@[simp] theorem State.emit_pending (o : Out) : (s.emit o).pending = s.pending := rfl
@[simp] theorem State.emit_now (o : Out) : (s.emit o).now = s.now := rfl
@[simp] theorem State.emit_holding (o : Out) : (s.emit o).holding = s.holding := rfl
@[simp] theorem State.emit_slow (o : Out) : (s.emit o).slow = s.slow := rfl
@[simp] theorem State.emit_mem (o : Out) : (s.emit o).mem = s.mem := rfl
@[simp] theorem State.emit_lods (o : Out) : (s.emit o).lods = s.lods := rfl
@[simp] theorem State.emit_mail (o : Out) : (s.emit o).mail = s.mail := rfl
@[simp] theorem State.emit_msix (o : Out) : (s.emit o).msix = s.msix := rfl
@[simp] theorem State.emit_porters (o : Out) : (s.emit o).porters = s.porters := rfl
@[simp] theorem State.emit_cmds (o : Out) : (s.emit o).cmds = s.cmds := rfl
@[simp] theorem State.emit_nextCmd (o : Out) : (s.emit o).nextCmd = s.nextCmd := rfl
@[simp] theorem State.emit_launches (o : Out) : (s.emit o).launches = s.launches := rfl
@[simp] theorem State.emit_blocks (o : Out) : (s.emit o).blocks = s.blocks := rfl
@[simp] theorem State.emit_nextBlock (o : Out) : (s.emit o).nextBlock = s.nextBlock := rfl
@[simp] theorem State.emit_mats (o : Out) : (s.emit o).mats = s.mats := rfl
@[simp] theorem State.emit_attns (o : Out) : (s.emit o).attns = s.attns := rfl
@[simp] theorem State.emit_cores (o : Out) : (s.emit o).cores = s.cores := rfl
@[simp] theorem State.emit_mxaTol (o : Out) : (s.emit o).mxaTol = s.mxaTol := rfl
@[simp] theorem State.emit_mxaRetries (o : Out) : (s.emit o).mxaRetries = s.mxaRetries := rfl
@[simp] theorem State.emit_mxaSuspected (o : Out) : (s.emit o).mxaSuspected = s.mxaSuspected := rfl
@[simp] theorem State.emit_stn (o : Out) : (s.emit o).stn = s.stn := rfl
@[simp] theorem State.emit_hbm (o : Out) : (s.emit o).hbm = s.hbm := rfl
@[simp] theorem State.emit_fab (o : Out) : (s.emit o).fab = s.fab := rfl
@[simp] theorem State.emit_vch (o : Out) : (s.emit o).vch = s.vch := rfl
@[simp] theorem State.emit_d2d (o : Out) : (s.emit o).d2d = s.d2d := rfl
@[simp] theorem State.emit_cyl (o : Out) : (s.emit o).cyl = s.cyl := rfl
@[simp] theorem State.emit_dma (o : Out) : (s.emit o).dma = s.dma := rfl
@[simp] theorem State.emit_qos (o : Out) : (s.emit o).qos = s.qos := rfl
@[simp] theorem State.emit_turns (o : Out) : (s.emit o).turns = s.turns := rfl
@[simp] theorem State.emit_quantumUs (o : Out) : (s.emit o).quantumUs = s.quantumUs := rfl
@[simp] theorem State.emit_pwr (o : Out) : (s.emit o).pwr = s.pwr := rfl
@[simp] theorem State.emit_thm (o : Out) : (s.emit o).thm = s.thm := rfl
@[simp] theorem State.emit_rel (o : Out) : (s.emit o).rel = s.rel := rfl
@[simp] theorem State.emit_ink (o : Out) : (s.emit o).ink = s.ink := rfl
@[simp] theorem State.emit_unlock (o : Out) : (s.emit o).unlock = s.unlock := rfl
@[simp] theorem State.emit_dbg (o : Out) : (s.emit o).dbg = s.dbg := rfl
@[simp] theorem State.emit_brd (o : Out) : (s.emit o).brd = s.brd := rfl
@[simp] theorem State.emit_fresh (o : Out) : (s.emit o).fresh = s.fresh := rfl
@[simp] theorem State.emit_supp (o : Out) : (s.emit o).supp = s.supp := rfl
@[simp] theorem State.emit_freeAt (o : Out) : (s.emit o).freeAt = s.freeAt := rfl

/-! ### `takeFree` -/

@[simp] theorem State.takeFree_pending : (s.takeFree ).pending = s.pending := rfl
@[simp] theorem State.takeFree_now : (s.takeFree ).now = s.now := rfl
@[simp] theorem State.takeFree_holding : (s.takeFree ).holding = s.holding := rfl
@[simp] theorem State.takeFree_slow : (s.takeFree ).slow = s.slow := rfl
@[simp] theorem State.takeFree_mem : (s.takeFree ).mem = s.mem := rfl
@[simp] theorem State.takeFree_lods : (s.takeFree ).lods = s.lods := rfl
@[simp] theorem State.takeFree_mail : (s.takeFree ).mail = s.mail := rfl
@[simp] theorem State.takeFree_msix : (s.takeFree ).msix = s.msix := rfl
@[simp] theorem State.takeFree_porters : (s.takeFree ).porters = s.porters := rfl
@[simp] theorem State.takeFree_cmds : (s.takeFree ).cmds = s.cmds := rfl
@[simp] theorem State.takeFree_nextCmd : (s.takeFree ).nextCmd = s.nextCmd := rfl
@[simp] theorem State.takeFree_launches : (s.takeFree ).launches = s.launches := rfl
@[simp] theorem State.takeFree_blocks : (s.takeFree ).blocks = s.blocks := rfl
@[simp] theorem State.takeFree_nextBlock : (s.takeFree ).nextBlock = s.nextBlock := rfl
@[simp] theorem State.takeFree_mats : (s.takeFree ).mats = s.mats := rfl
@[simp] theorem State.takeFree_attns : (s.takeFree ).attns = s.attns := rfl
@[simp] theorem State.takeFree_cores : (s.takeFree ).cores = s.cores := rfl
@[simp] theorem State.takeFree_mxaTol : (s.takeFree ).mxaTol = s.mxaTol := rfl
@[simp] theorem State.takeFree_mxaRetries : (s.takeFree ).mxaRetries = s.mxaRetries := rfl
@[simp] theorem State.takeFree_mxaSuspected : (s.takeFree ).mxaSuspected = s.mxaSuspected := rfl
@[simp] theorem State.takeFree_stn : (s.takeFree ).stn = s.stn := rfl
@[simp] theorem State.takeFree_hbm : (s.takeFree ).hbm = s.hbm := rfl
@[simp] theorem State.takeFree_fab : (s.takeFree ).fab = s.fab := rfl
@[simp] theorem State.takeFree_vch : (s.takeFree ).vch = s.vch := rfl
@[simp] theorem State.takeFree_d2d : (s.takeFree ).d2d = s.d2d := rfl
@[simp] theorem State.takeFree_cyl : (s.takeFree ).cyl = s.cyl := rfl
@[simp] theorem State.takeFree_dma : (s.takeFree ).dma = s.dma := rfl
@[simp] theorem State.takeFree_qos : (s.takeFree ).qos = s.qos := rfl
@[simp] theorem State.takeFree_turns : (s.takeFree ).turns = s.turns := rfl
@[simp] theorem State.takeFree_quantumUs : (s.takeFree ).quantumUs = s.quantumUs := rfl
@[simp] theorem State.takeFree_pwr : (s.takeFree ).pwr = s.pwr := rfl
@[simp] theorem State.takeFree_thm : (s.takeFree ).thm = s.thm := rfl
@[simp] theorem State.takeFree_rel : (s.takeFree ).rel = s.rel := rfl
@[simp] theorem State.takeFree_ink : (s.takeFree ).ink = s.ink := rfl
@[simp] theorem State.takeFree_unlock : (s.takeFree ).unlock = s.unlock := rfl
@[simp] theorem State.takeFree_dbg : (s.takeFree ).dbg = s.dbg := rfl
@[simp] theorem State.takeFree_brd : (s.takeFree ).brd = s.brd := rfl
@[simp] theorem State.takeFree_out : (s.takeFree ).out = s.out := rfl
@[simp] theorem State.takeFree_fresh : (s.takeFree ).fresh = s.fresh := rfl
@[simp] theorem State.takeFree_supp : (s.takeFree ).supp = s.supp := rfl

/-! ### `setNow` -/

@[simp] theorem State.setNow_pending (b : Rw1c) : (s.setNow b).pending = s.pending := rfl
@[simp] theorem State.setNow_now (b : Rw1c) : (s.setNow b).now = s.now := rfl
@[simp] theorem State.setNow_holding (b : Rw1c) : (s.setNow b).holding = s.holding := rfl
@[simp] theorem State.setNow_slow (b : Rw1c) : (s.setNow b).slow = s.slow := rfl
@[simp] theorem State.setNow_mem (b : Rw1c) : (s.setNow b).mem = s.mem := rfl
@[simp] theorem State.setNow_lods (b : Rw1c) : (s.setNow b).lods = s.lods := rfl
@[simp] theorem State.setNow_mail (b : Rw1c) : (s.setNow b).mail = s.mail := rfl
@[simp] theorem State.setNow_msix (b : Rw1c) : (s.setNow b).msix = s.msix := rfl
@[simp] theorem State.setNow_porters (b : Rw1c) : (s.setNow b).porters = s.porters := rfl
@[simp] theorem State.setNow_cmds (b : Rw1c) : (s.setNow b).cmds = s.cmds := rfl
@[simp] theorem State.setNow_nextCmd (b : Rw1c) : (s.setNow b).nextCmd = s.nextCmd := rfl
@[simp] theorem State.setNow_launches (b : Rw1c) : (s.setNow b).launches = s.launches := rfl
@[simp] theorem State.setNow_blocks (b : Rw1c) : (s.setNow b).blocks = s.blocks := rfl
@[simp] theorem State.setNow_nextBlock (b : Rw1c) : (s.setNow b).nextBlock = s.nextBlock := rfl
@[simp] theorem State.setNow_mats (b : Rw1c) : (s.setNow b).mats = s.mats := rfl
@[simp] theorem State.setNow_attns (b : Rw1c) : (s.setNow b).attns = s.attns := rfl
@[simp] theorem State.setNow_cores (b : Rw1c) : (s.setNow b).cores = s.cores := rfl
@[simp] theorem State.setNow_mxaTol (b : Rw1c) : (s.setNow b).mxaTol = s.mxaTol := rfl
@[simp] theorem State.setNow_mxaRetries (b : Rw1c) : (s.setNow b).mxaRetries = s.mxaRetries := rfl
@[simp] theorem State.setNow_mxaSuspected (b : Rw1c) : (s.setNow b).mxaSuspected = s.mxaSuspected := rfl
@[simp] theorem State.setNow_stn (b : Rw1c) : (s.setNow b).stn = s.stn := rfl
@[simp] theorem State.setNow_hbm (b : Rw1c) : (s.setNow b).hbm = s.hbm := rfl
@[simp] theorem State.setNow_fab (b : Rw1c) : (s.setNow b).fab = s.fab := rfl
@[simp] theorem State.setNow_vch (b : Rw1c) : (s.setNow b).vch = s.vch := rfl
@[simp] theorem State.setNow_d2d (b : Rw1c) : (s.setNow b).d2d = s.d2d := rfl
@[simp] theorem State.setNow_cyl (b : Rw1c) : (s.setNow b).cyl = s.cyl := rfl
@[simp] theorem State.setNow_dma (b : Rw1c) : (s.setNow b).dma = s.dma := rfl
@[simp] theorem State.setNow_qos (b : Rw1c) : (s.setNow b).qos = s.qos := rfl
@[simp] theorem State.setNow_turns (b : Rw1c) : (s.setNow b).turns = s.turns := rfl
@[simp] theorem State.setNow_quantumUs (b : Rw1c) : (s.setNow b).quantumUs = s.quantumUs := rfl
@[simp] theorem State.setNow_pwr (b : Rw1c) : (s.setNow b).pwr = s.pwr := rfl
@[simp] theorem State.setNow_thm (b : Rw1c) : (s.setNow b).thm = s.thm := rfl
@[simp] theorem State.setNow_rel (b : Rw1c) : (s.setNow b).rel = s.rel := rfl
@[simp] theorem State.setNow_ink (b : Rw1c) : (s.setNow b).ink = s.ink := rfl
@[simp] theorem State.setNow_unlock (b : Rw1c) : (s.setNow b).unlock = s.unlock := rfl
@[simp] theorem State.setNow_dbg (b : Rw1c) : (s.setNow b).dbg = s.dbg := rfl
@[simp] theorem State.setNow_brd (b : Rw1c) : (s.setNow b).brd = s.brd := rfl
@[simp] theorem State.setNow_out (b : Rw1c) : (s.setNow b).out = s.out := rfl
@[simp] theorem State.setNow_supp (b : Rw1c) : (s.setNow b).supp = s.supp := rfl
@[simp] theorem State.setNow_freeAt (b : Rw1c) : (s.setNow b).freeAt = s.freeAt := rfl

/-! ### `log` -/

@[simp] theorem State.log_pending (u code arg layer oper : Nat) : (s.log u code arg layer oper).pending = s.pending := rfl
@[simp] theorem State.log_now (u code arg layer oper : Nat) : (s.log u code arg layer oper).now = s.now := rfl
@[simp] theorem State.log_holding (u code arg layer oper : Nat) : (s.log u code arg layer oper).holding = s.holding := rfl
@[simp] theorem State.log_slow (u code arg layer oper : Nat) : (s.log u code arg layer oper).slow = s.slow := rfl
@[simp] theorem State.log_mem (u code arg layer oper : Nat) : (s.log u code arg layer oper).mem = s.mem := rfl
@[simp] theorem State.log_lods (u code arg layer oper : Nat) : (s.log u code arg layer oper).lods = s.lods := rfl
@[simp] theorem State.log_mail (u code arg layer oper : Nat) : (s.log u code arg layer oper).mail = s.mail := rfl
@[simp] theorem State.log_msix (u code arg layer oper : Nat) : (s.log u code arg layer oper).msix = s.msix := rfl
@[simp] theorem State.log_porters (u code arg layer oper : Nat) : (s.log u code arg layer oper).porters = s.porters := rfl
@[simp] theorem State.log_cmds (u code arg layer oper : Nat) : (s.log u code arg layer oper).cmds = s.cmds := rfl
@[simp] theorem State.log_nextCmd (u code arg layer oper : Nat) : (s.log u code arg layer oper).nextCmd = s.nextCmd := rfl
@[simp] theorem State.log_launches (u code arg layer oper : Nat) : (s.log u code arg layer oper).launches = s.launches := rfl
@[simp] theorem State.log_blocks (u code arg layer oper : Nat) : (s.log u code arg layer oper).blocks = s.blocks := rfl
@[simp] theorem State.log_nextBlock (u code arg layer oper : Nat) : (s.log u code arg layer oper).nextBlock = s.nextBlock := rfl
@[simp] theorem State.log_mats (u code arg layer oper : Nat) : (s.log u code arg layer oper).mats = s.mats := rfl
@[simp] theorem State.log_attns (u code arg layer oper : Nat) : (s.log u code arg layer oper).attns = s.attns := rfl
@[simp] theorem State.log_cores (u code arg layer oper : Nat) : (s.log u code arg layer oper).cores = s.cores := rfl
@[simp] theorem State.log_mxaTol (u code arg layer oper : Nat) : (s.log u code arg layer oper).mxaTol = s.mxaTol := rfl
@[simp] theorem State.log_mxaRetries (u code arg layer oper : Nat) : (s.log u code arg layer oper).mxaRetries = s.mxaRetries := rfl
@[simp] theorem State.log_mxaSuspected (u code arg layer oper : Nat) : (s.log u code arg layer oper).mxaSuspected = s.mxaSuspected := rfl
@[simp] theorem State.log_stn (u code arg layer oper : Nat) : (s.log u code arg layer oper).stn = s.stn := rfl
@[simp] theorem State.log_hbm (u code arg layer oper : Nat) : (s.log u code arg layer oper).hbm = s.hbm := rfl
@[simp] theorem State.log_fab (u code arg layer oper : Nat) : (s.log u code arg layer oper).fab = s.fab := rfl
@[simp] theorem State.log_vch (u code arg layer oper : Nat) : (s.log u code arg layer oper).vch = s.vch := rfl
@[simp] theorem State.log_d2d (u code arg layer oper : Nat) : (s.log u code arg layer oper).d2d = s.d2d := rfl
@[simp] theorem State.log_cyl (u code arg layer oper : Nat) : (s.log u code arg layer oper).cyl = s.cyl := rfl
@[simp] theorem State.log_dma (u code arg layer oper : Nat) : (s.log u code arg layer oper).dma = s.dma := rfl
@[simp] theorem State.log_qos (u code arg layer oper : Nat) : (s.log u code arg layer oper).qos = s.qos := rfl
@[simp] theorem State.log_turns (u code arg layer oper : Nat) : (s.log u code arg layer oper).turns = s.turns := rfl
@[simp] theorem State.log_quantumUs (u code arg layer oper : Nat) : (s.log u code arg layer oper).quantumUs = s.quantumUs := rfl
@[simp] theorem State.log_pwr (u code arg layer oper : Nat) : (s.log u code arg layer oper).pwr = s.pwr := rfl
@[simp] theorem State.log_thm (u code arg layer oper : Nat) : (s.log u code arg layer oper).thm = s.thm := rfl
@[simp] theorem State.log_rel (u code arg layer oper : Nat) : (s.log u code arg layer oper).rel = s.rel := rfl
@[simp] theorem State.log_ink (u code arg layer oper : Nat) : (s.log u code arg layer oper).ink = s.ink := rfl
@[simp] theorem State.log_unlock (u code arg layer oper : Nat) : (s.log u code arg layer oper).unlock = s.unlock := rfl
@[simp] theorem State.log_brd (u code arg layer oper : Nat) : (s.log u code arg layer oper).brd = s.brd := rfl
@[simp] theorem State.log_out (u code arg layer oper : Nat) : (s.log u code arg layer oper).out = s.out := rfl
@[simp] theorem State.log_fresh (u code arg layer oper : Nat) : (s.log u code arg layer oper).fresh = s.fresh := rfl
@[simp] theorem State.log_supp (u code arg layer oper : Nat) : (s.log u code arg layer oper).supp = s.supp := rfl
@[simp] theorem State.log_freeAt (u code arg layer oper : Nat) : (s.log u code arg layer oper).freeAt = s.freeAt := rfl

/-! ### `addBytes` -/

@[simp] theorem State.addBytes_pending (k n : Nat) : (s.addBytes k n).pending = s.pending := rfl
@[simp] theorem State.addBytes_now (k n : Nat) : (s.addBytes k n).now = s.now := rfl
@[simp] theorem State.addBytes_holding (k n : Nat) : (s.addBytes k n).holding = s.holding := rfl
@[simp] theorem State.addBytes_slow (k n : Nat) : (s.addBytes k n).slow = s.slow := rfl
@[simp] theorem State.addBytes_mem (k n : Nat) : (s.addBytes k n).mem = s.mem := rfl
@[simp] theorem State.addBytes_lods (k n : Nat) : (s.addBytes k n).lods = s.lods := rfl
@[simp] theorem State.addBytes_mail (k n : Nat) : (s.addBytes k n).mail = s.mail := rfl
@[simp] theorem State.addBytes_msix (k n : Nat) : (s.addBytes k n).msix = s.msix := rfl
@[simp] theorem State.addBytes_porters (k n : Nat) : (s.addBytes k n).porters = s.porters := rfl
@[simp] theorem State.addBytes_cmds (k n : Nat) : (s.addBytes k n).cmds = s.cmds := rfl
@[simp] theorem State.addBytes_nextCmd (k n : Nat) : (s.addBytes k n).nextCmd = s.nextCmd := rfl
@[simp] theorem State.addBytes_launches (k n : Nat) : (s.addBytes k n).launches = s.launches := rfl
@[simp] theorem State.addBytes_blocks (k n : Nat) : (s.addBytes k n).blocks = s.blocks := rfl
@[simp] theorem State.addBytes_nextBlock (k n : Nat) : (s.addBytes k n).nextBlock = s.nextBlock := rfl
@[simp] theorem State.addBytes_mats (k n : Nat) : (s.addBytes k n).mats = s.mats := rfl
@[simp] theorem State.addBytes_attns (k n : Nat) : (s.addBytes k n).attns = s.attns := rfl
@[simp] theorem State.addBytes_cores (k n : Nat) : (s.addBytes k n).cores = s.cores := rfl
@[simp] theorem State.addBytes_mxaTol (k n : Nat) : (s.addBytes k n).mxaTol = s.mxaTol := rfl
@[simp] theorem State.addBytes_mxaRetries (k n : Nat) : (s.addBytes k n).mxaRetries = s.mxaRetries := rfl
@[simp] theorem State.addBytes_mxaSuspected (k n : Nat) : (s.addBytes k n).mxaSuspected = s.mxaSuspected := rfl
@[simp] theorem State.addBytes_stn (k n : Nat) : (s.addBytes k n).stn = s.stn := rfl
@[simp] theorem State.addBytes_hbm (k n : Nat) : (s.addBytes k n).hbm = s.hbm := rfl
@[simp] theorem State.addBytes_fab (k n : Nat) : (s.addBytes k n).fab = s.fab := rfl
@[simp] theorem State.addBytes_vch (k n : Nat) : (s.addBytes k n).vch = s.vch := rfl
@[simp] theorem State.addBytes_d2d (k n : Nat) : (s.addBytes k n).d2d = s.d2d := rfl
@[simp] theorem State.addBytes_cyl (k n : Nat) : (s.addBytes k n).cyl = s.cyl := rfl
@[simp] theorem State.addBytes_dma (k n : Nat) : (s.addBytes k n).dma = s.dma := rfl
@[simp] theorem State.addBytes_qos (k n : Nat) : (s.addBytes k n).qos = s.qos := rfl
@[simp] theorem State.addBytes_turns (k n : Nat) : (s.addBytes k n).turns = s.turns := rfl
@[simp] theorem State.addBytes_quantumUs (k n : Nat) : (s.addBytes k n).quantumUs = s.quantumUs := rfl
@[simp] theorem State.addBytes_pwr (k n : Nat) : (s.addBytes k n).pwr = s.pwr := rfl
@[simp] theorem State.addBytes_thm (k n : Nat) : (s.addBytes k n).thm = s.thm := rfl
@[simp] theorem State.addBytes_rel (k n : Nat) : (s.addBytes k n).rel = s.rel := rfl
@[simp] theorem State.addBytes_ink (k n : Nat) : (s.addBytes k n).ink = s.ink := rfl
@[simp] theorem State.addBytes_unlock (k n : Nat) : (s.addBytes k n).unlock = s.unlock := rfl
@[simp] theorem State.addBytes_brd (k n : Nat) : (s.addBytes k n).brd = s.brd := rfl
@[simp] theorem State.addBytes_out (k n : Nat) : (s.addBytes k n).out = s.out := rfl
@[simp] theorem State.addBytes_fresh (k n : Nat) : (s.addBytes k n).fresh = s.fresh := rfl
@[simp] theorem State.addBytes_supp (k n : Nat) : (s.addBytes k n).supp = s.supp := rfl
@[simp] theorem State.addBytes_freeAt (k n : Nat) : (s.addBytes k n).freeAt = s.freeAt := rfl

/-! ### `count` -/

@[simp] theorem State.count_pending (stack event : Nat) (lod : Option Nat) (ids : Nat × Nat) (n : Nat) : (s.count stack event lod ids n).pending = s.pending := rfl
@[simp] theorem State.count_now (stack event : Nat) (lod : Option Nat) (ids : Nat × Nat) (n : Nat) : (s.count stack event lod ids n).now = s.now := rfl
@[simp] theorem State.count_holding (stack event : Nat) (lod : Option Nat) (ids : Nat × Nat) (n : Nat) : (s.count stack event lod ids n).holding = s.holding := rfl
@[simp] theorem State.count_slow (stack event : Nat) (lod : Option Nat) (ids : Nat × Nat) (n : Nat) : (s.count stack event lod ids n).slow = s.slow := rfl
@[simp] theorem State.count_mem (stack event : Nat) (lod : Option Nat) (ids : Nat × Nat) (n : Nat) : (s.count stack event lod ids n).mem = s.mem := rfl
@[simp] theorem State.count_lods (stack event : Nat) (lod : Option Nat) (ids : Nat × Nat) (n : Nat) : (s.count stack event lod ids n).lods = s.lods := rfl
@[simp] theorem State.count_mail (stack event : Nat) (lod : Option Nat) (ids : Nat × Nat) (n : Nat) : (s.count stack event lod ids n).mail = s.mail := rfl
@[simp] theorem State.count_msix (stack event : Nat) (lod : Option Nat) (ids : Nat × Nat) (n : Nat) : (s.count stack event lod ids n).msix = s.msix := rfl
@[simp] theorem State.count_porters (stack event : Nat) (lod : Option Nat) (ids : Nat × Nat) (n : Nat) : (s.count stack event lod ids n).porters = s.porters := rfl
@[simp] theorem State.count_cmds (stack event : Nat) (lod : Option Nat) (ids : Nat × Nat) (n : Nat) : (s.count stack event lod ids n).cmds = s.cmds := rfl
@[simp] theorem State.count_nextCmd (stack event : Nat) (lod : Option Nat) (ids : Nat × Nat) (n : Nat) : (s.count stack event lod ids n).nextCmd = s.nextCmd := rfl
@[simp] theorem State.count_launches (stack event : Nat) (lod : Option Nat) (ids : Nat × Nat) (n : Nat) : (s.count stack event lod ids n).launches = s.launches := rfl
@[simp] theorem State.count_blocks (stack event : Nat) (lod : Option Nat) (ids : Nat × Nat) (n : Nat) : (s.count stack event lod ids n).blocks = s.blocks := rfl
@[simp] theorem State.count_nextBlock (stack event : Nat) (lod : Option Nat) (ids : Nat × Nat) (n : Nat) : (s.count stack event lod ids n).nextBlock = s.nextBlock := rfl
@[simp] theorem State.count_mats (stack event : Nat) (lod : Option Nat) (ids : Nat × Nat) (n : Nat) : (s.count stack event lod ids n).mats = s.mats := rfl
@[simp] theorem State.count_attns (stack event : Nat) (lod : Option Nat) (ids : Nat × Nat) (n : Nat) : (s.count stack event lod ids n).attns = s.attns := rfl
@[simp] theorem State.count_cores (stack event : Nat) (lod : Option Nat) (ids : Nat × Nat) (n : Nat) : (s.count stack event lod ids n).cores = s.cores := rfl
@[simp] theorem State.count_mxaTol (stack event : Nat) (lod : Option Nat) (ids : Nat × Nat) (n : Nat) : (s.count stack event lod ids n).mxaTol = s.mxaTol := rfl
@[simp] theorem State.count_mxaRetries (stack event : Nat) (lod : Option Nat) (ids : Nat × Nat) (n : Nat) : (s.count stack event lod ids n).mxaRetries = s.mxaRetries := rfl
@[simp] theorem State.count_mxaSuspected (stack event : Nat) (lod : Option Nat) (ids : Nat × Nat) (n : Nat) : (s.count stack event lod ids n).mxaSuspected = s.mxaSuspected := rfl
@[simp] theorem State.count_stn (stack event : Nat) (lod : Option Nat) (ids : Nat × Nat) (n : Nat) : (s.count stack event lod ids n).stn = s.stn := rfl
@[simp] theorem State.count_hbm (stack event : Nat) (lod : Option Nat) (ids : Nat × Nat) (n : Nat) : (s.count stack event lod ids n).hbm = s.hbm := rfl
@[simp] theorem State.count_fab (stack event : Nat) (lod : Option Nat) (ids : Nat × Nat) (n : Nat) : (s.count stack event lod ids n).fab = s.fab := rfl
@[simp] theorem State.count_vch (stack event : Nat) (lod : Option Nat) (ids : Nat × Nat) (n : Nat) : (s.count stack event lod ids n).vch = s.vch := rfl
@[simp] theorem State.count_d2d (stack event : Nat) (lod : Option Nat) (ids : Nat × Nat) (n : Nat) : (s.count stack event lod ids n).d2d = s.d2d := rfl
@[simp] theorem State.count_cyl (stack event : Nat) (lod : Option Nat) (ids : Nat × Nat) (n : Nat) : (s.count stack event lod ids n).cyl = s.cyl := rfl
@[simp] theorem State.count_dma (stack event : Nat) (lod : Option Nat) (ids : Nat × Nat) (n : Nat) : (s.count stack event lod ids n).dma = s.dma := rfl
@[simp] theorem State.count_qos (stack event : Nat) (lod : Option Nat) (ids : Nat × Nat) (n : Nat) : (s.count stack event lod ids n).qos = s.qos := rfl
@[simp] theorem State.count_turns (stack event : Nat) (lod : Option Nat) (ids : Nat × Nat) (n : Nat) : (s.count stack event lod ids n).turns = s.turns := rfl
@[simp] theorem State.count_quantumUs (stack event : Nat) (lod : Option Nat) (ids : Nat × Nat) (n : Nat) : (s.count stack event lod ids n).quantumUs = s.quantumUs := rfl
@[simp] theorem State.count_pwr (stack event : Nat) (lod : Option Nat) (ids : Nat × Nat) (n : Nat) : (s.count stack event lod ids n).pwr = s.pwr := rfl
@[simp] theorem State.count_thm (stack event : Nat) (lod : Option Nat) (ids : Nat × Nat) (n : Nat) : (s.count stack event lod ids n).thm = s.thm := rfl
@[simp] theorem State.count_rel (stack event : Nat) (lod : Option Nat) (ids : Nat × Nat) (n : Nat) : (s.count stack event lod ids n).rel = s.rel := rfl
@[simp] theorem State.count_ink (stack event : Nat) (lod : Option Nat) (ids : Nat × Nat) (n : Nat) : (s.count stack event lod ids n).ink = s.ink := rfl
@[simp] theorem State.count_unlock (stack event : Nat) (lod : Option Nat) (ids : Nat × Nat) (n : Nat) : (s.count stack event lod ids n).unlock = s.unlock := rfl
@[simp] theorem State.count_brd (stack event : Nat) (lod : Option Nat) (ids : Nat × Nat) (n : Nat) : (s.count stack event lod ids n).brd = s.brd := rfl
@[simp] theorem State.count_out (stack event : Nat) (lod : Option Nat) (ids : Nat × Nat) (n : Nat) : (s.count stack event lod ids n).out = s.out := rfl
@[simp] theorem State.count_fresh (stack event : Nat) (lod : Option Nat) (ids : Nat × Nat) (n : Nat) : (s.count stack event lod ids n).fresh = s.fresh := rfl
@[simp] theorem State.count_supp (stack event : Nat) (lod : Option Nat) (ids : Nat × Nat) (n : Nat) : (s.count stack event lod ids n).supp = s.supp := rfl
@[simp] theorem State.count_freeAt (stack event : Nat) (lod : Option Nat) (ids : Nat × Nat) (n : Nat) : (s.count stack event lod ids n).freeAt = s.freeAt := rfl

/-! ### `grant` -/

@[simp] theorem State.grant_pending (res lod cls n : Nat) : (s.grant res lod cls n).pending = s.pending := rfl
@[simp] theorem State.grant_now (res lod cls n : Nat) : (s.grant res lod cls n).now = s.now := rfl
@[simp] theorem State.grant_holding (res lod cls n : Nat) : (s.grant res lod cls n).holding = s.holding := rfl
@[simp] theorem State.grant_slow (res lod cls n : Nat) : (s.grant res lod cls n).slow = s.slow := rfl
@[simp] theorem State.grant_mem (res lod cls n : Nat) : (s.grant res lod cls n).mem = s.mem := rfl
@[simp] theorem State.grant_lods (res lod cls n : Nat) : (s.grant res lod cls n).lods = s.lods := rfl
@[simp] theorem State.grant_mail (res lod cls n : Nat) : (s.grant res lod cls n).mail = s.mail := rfl
@[simp] theorem State.grant_msix (res lod cls n : Nat) : (s.grant res lod cls n).msix = s.msix := rfl
@[simp] theorem State.grant_porters (res lod cls n : Nat) : (s.grant res lod cls n).porters = s.porters := rfl
@[simp] theorem State.grant_cmds (res lod cls n : Nat) : (s.grant res lod cls n).cmds = s.cmds := rfl
@[simp] theorem State.grant_nextCmd (res lod cls n : Nat) : (s.grant res lod cls n).nextCmd = s.nextCmd := rfl
@[simp] theorem State.grant_launches (res lod cls n : Nat) : (s.grant res lod cls n).launches = s.launches := rfl
@[simp] theorem State.grant_blocks (res lod cls n : Nat) : (s.grant res lod cls n).blocks = s.blocks := rfl
@[simp] theorem State.grant_nextBlock (res lod cls n : Nat) : (s.grant res lod cls n).nextBlock = s.nextBlock := rfl
@[simp] theorem State.grant_mats (res lod cls n : Nat) : (s.grant res lod cls n).mats = s.mats := rfl
@[simp] theorem State.grant_attns (res lod cls n : Nat) : (s.grant res lod cls n).attns = s.attns := rfl
@[simp] theorem State.grant_cores (res lod cls n : Nat) : (s.grant res lod cls n).cores = s.cores := rfl
@[simp] theorem State.grant_mxaTol (res lod cls n : Nat) : (s.grant res lod cls n).mxaTol = s.mxaTol := rfl
@[simp] theorem State.grant_mxaRetries (res lod cls n : Nat) : (s.grant res lod cls n).mxaRetries = s.mxaRetries := rfl
@[simp] theorem State.grant_mxaSuspected (res lod cls n : Nat) : (s.grant res lod cls n).mxaSuspected = s.mxaSuspected := rfl
@[simp] theorem State.grant_stn (res lod cls n : Nat) : (s.grant res lod cls n).stn = s.stn := rfl
@[simp] theorem State.grant_hbm (res lod cls n : Nat) : (s.grant res lod cls n).hbm = s.hbm := rfl
@[simp] theorem State.grant_fab (res lod cls n : Nat) : (s.grant res lod cls n).fab = s.fab := rfl
@[simp] theorem State.grant_vch (res lod cls n : Nat) : (s.grant res lod cls n).vch = s.vch := rfl
@[simp] theorem State.grant_d2d (res lod cls n : Nat) : (s.grant res lod cls n).d2d = s.d2d := rfl
@[simp] theorem State.grant_cyl (res lod cls n : Nat) : (s.grant res lod cls n).cyl = s.cyl := rfl
@[simp] theorem State.grant_dma (res lod cls n : Nat) : (s.grant res lod cls n).dma = s.dma := rfl
@[simp] theorem State.grant_turns (res lod cls n : Nat) : (s.grant res lod cls n).turns = s.turns := rfl
@[simp] theorem State.grant_quantumUs (res lod cls n : Nat) : (s.grant res lod cls n).quantumUs = s.quantumUs := rfl
@[simp] theorem State.grant_pwr (res lod cls n : Nat) : (s.grant res lod cls n).pwr = s.pwr := rfl
@[simp] theorem State.grant_thm (res lod cls n : Nat) : (s.grant res lod cls n).thm = s.thm := rfl
@[simp] theorem State.grant_rel (res lod cls n : Nat) : (s.grant res lod cls n).rel = s.rel := rfl
@[simp] theorem State.grant_ink (res lod cls n : Nat) : (s.grant res lod cls n).ink = s.ink := rfl
@[simp] theorem State.grant_unlock (res lod cls n : Nat) : (s.grant res lod cls n).unlock = s.unlock := rfl
@[simp] theorem State.grant_dbg (res lod cls n : Nat) : (s.grant res lod cls n).dbg = s.dbg := rfl
@[simp] theorem State.grant_brd (res lod cls n : Nat) : (s.grant res lod cls n).brd = s.brd := rfl
@[simp] theorem State.grant_out (res lod cls n : Nat) : (s.grant res lod cls n).out = s.out := rfl
@[simp] theorem State.grant_fresh (res lod cls n : Nat) : (s.grant res lod cls n).fresh = s.fresh := rfl
@[simp] theorem State.grant_supp (res lod cls n : Nat) : (s.grant res lod cls n).supp = s.supp := rfl
@[simp] theorem State.grant_freeAt (res lod cls n : Nat) : (s.grant res lod cls n).freeAt = s.freeAt := rfl

/-! ### Reading back -/

@[simp] theorem State.modLod_lod_self (l : Nat) (f : Lodging → Lodging) : (s.modLod l f).lod l = f (s.lod l) := Tab.get_mod_self ..
theorem State.modLod_lod_ne {l j : Nat} (f : Lodging → Lodging) (h : j ≠ l) : (s.modLod l f).lod j = s.lod j := by
  simp only [State.modLod, State.lod, Tab.mod]
  exact Tab.get_set_ne _ h _ _
@[simp] theorem State.modPorter_porter_self (k : Nat) (f : Porter → Porter) : (s.modPorter k f).porter k = f (s.porter k) := Tab.get_mod_self ..
theorem State.modPorter_porter_ne {k j : Nat} (f : Porter → Porter) (h : j ≠ k) : (s.modPorter k f).porter j = s.porter j := by
  simp only [State.modPorter, State.porter, Tab.mod]
  exact Tab.get_set_ne _ h _ _
@[simp] theorem State.modCore_core_self (k : Nat) (f : ColCore → ColCore) : (s.modCore k f).core k = f (s.core k) := Tab.get_mod_self ..
theorem State.modCore_core_ne {k j : Nat} (f : ColCore → ColCore) (h : j ≠ k) : (s.modCore k f).core j = s.core j := by
  simp only [State.modCore, State.core, Tab.mod]
  exact Tab.get_set_ne _ h _ _
@[simp] theorem State.modSlice_sliceAt_self (k : Nat) (f : Slice → Slice) : (s.modSlice k f).sliceAt k = f (s.sliceAt k) := Tab.get_mod_self ..
theorem State.modSlice_sliceAt_ne {k j : Nat} (f : Slice → Slice) (h : j ≠ k) : (s.modSlice k f).sliceAt j = s.sliceAt j := by
  simp only [State.modSlice, State.sliceAt, Tab.mod]
  exact Tab.get_set_ne _ h _ _
@[simp] theorem State.modStnRegs_stnRegs_self (k : Nat) (f : StnRegs → StnRegs) : (s.modStnRegs k f).stnRegs k = f (s.stnRegs k) := Tab.get_mod_self ..
theorem State.modStnRegs_stnRegs_ne {k j : Nat} (f : StnRegs → StnRegs) (h : j ≠ k) : (s.modStnRegs k f).stnRegs j = s.stnRegs j := by
  simp only [State.modStnRegs, State.stnRegs, Tab.mod]
  exact Tab.get_set_ne _ h _ _
@[simp] theorem State.modHbmRegs_hbmRegs_self (k : Nat) (f : HbmRegs → HbmRegs) : (s.modHbmRegs k f).hbmRegs k = f (s.hbmRegs k) := Tab.get_mod_self ..
theorem State.modHbmRegs_hbmRegs_ne {k j : Nat} (f : HbmRegs → HbmRegs) (h : j ≠ k) : (s.modHbmRegs k f).hbmRegs j = s.hbmRegs j := by
  simp only [State.modHbmRegs, State.hbmRegs, Tab.mod]
  exact Tab.get_set_ne _ h _ _
@[simp] theorem State.modChannel_channel_self (k : Nat) (f : Channel → Channel) : (s.modChannel k f).channel k = f (s.channel k) := Tab.get_mod_self ..
theorem State.modChannel_channel_ne {k j : Nat} (f : Channel → Channel) (h : j ≠ k) : (s.modChannel k f).channel j = s.channel j := by
  simp only [State.modChannel, State.channel, Tab.mod]
  exact Tab.get_set_ne _ h _ _
@[simp] theorem State.modDomain_domain_self (k : Nat) (f : Domain → Domain) : (s.modDomain k f).domain k = f (s.domain k) := Tab.get_mod_self ..
theorem State.modDomain_domain_ne {k j : Nat} (f : Domain → Domain) (h : j ≠ k) : (s.modDomain k f).domain j = s.domain j := by
  simp only [State.modDomain, State.domain, Tab.mod]
  exact Tab.get_set_ne _ h _ _
@[simp] theorem State.modPort_port_self (k : Nat) (f : CytilPort → CytilPort) : (s.modPort k f).port k = f (s.port k) := Tab.get_mod_self ..
theorem State.modPort_port_ne {k j : Nat} (f : CytilPort → CytilPort) (h : j ≠ k) : (s.modPort k f).port j = s.port j := by
  simp only [State.modPort, State.port, Tab.mod]
  exact Tab.get_set_ne _ h _ _

end Sys2Proof.Machine
end

