-- ==== Sys2Proof/Tests/Slice0.lean ====
section
/-! SUPPORT. Small tests: each check of WellFormed on both sides, the worked examples of the spec (their numbers are the spec's), and, for
every statement that has hypotheses, a small state and operands that meet them, at the ends of their ranges. -/

open Sys2Proof Sys2Proof.Machine

namespace Sys2Proof.Tests

-- one test after the other: each evaluates a whole step in the kernel
set_option Elab.async false

/-! ### A small machine -/

/-- A contract: cluster 0 dedicated, GiB 0 of HBM4, every command channel of stack 0, a trace region of 1 MiB. -/
def contract3 : Contract :=
  { dedicated := 1, shared := 0, weight := 1, domainTag := 0, tableMib := 1, extents := [(0, 1)], affSlices := [0, 0, 0, 0],
    affFirst := [0, 0, 0, 0], affRows := [0, 0, 0, 0], hashFirst := [0, 0, 0, 0], hashRows := [0, 0, 0, 0],
    cacheFrames := [1, 1, 1, 1], floor := [], latencyUs := 0, latClasses := 0, portShare := List.replicate 12 0,
    dmaCh := [0xFFFFFF, 0, 0, 0], traceMib := 1 }

/-- Lodging 3, its galley 0 ACTIVE with a ring at virtual address 0x101000, one record each at 0x102000; 64 KiB of host memory from
0x100000 and 1 MiB of HBM4 from 0x400000. -/
def lodging3 (tail : Nat) : Lodging :=
  { Lodging.reset with
    state := .active, contract := some contract3, key := some 1, gdtBase := 0x100000,
    maps := [{ va := 0x100000, pa := 2 ^ 51 + 0x100000, size := 65536, count := 1, perm := 7, region := none, desc := 0 },
             { va := 0x400000, pa := 0x400000, size := 65536, count := 16, perm := 7, region := none, desc := 0 }],
    galleys := [(0, { Galley.reset with
      state := .active, tail := tail,
      desc := descOf (leBytes 8 0x101000 ++ leBytes 8 0x102000 ++ [4, 0, 0, 0] ++ List.replicate 20 0) })] }

/-- A device that is ready, 5 µs after its cold start, its next Innkeeper round due at 1 ms, with every domain ON and lodging 3. -/
def running (tail : Nat) : State :=
  let s := State.reset
  { s with
    lods := [(3, lodging3 tail)], now := 5000, brd := { s.brd with startStep := 8, ready := true },
    ink := { s.ink with firmwareRuns := true, pairsLeft := 2, roundDue := 10 ^ 6 },
    pwr := { s.pwr with frac := 64, memCap := 8, domains := (List.range 50).map (fun d => (d, { Domain.reset d with state := .on })) } }

/-- Bytes placed in host memory at a virtual address of lodging 3. -/
def hostPut (s : State) (va : Nat) (b : List Byte) : State := { s with mem := s.mem.put (2 ^ 51 + va) b }

/-- Values at byte offsets of a block of n bytes: offset, width, value. -/
def layout (n : Nat) (xs : List (Nat × Nat × Nat)) : List Byte :=
  xs.foldl (fun b x => patch b x.1 (leBytes x.2.1 x.2.2)) (List.replicate n 0)

/-- The machine with a command of one packet in the ring of lodging 3: its opcode, and its fields. -/
def sent (op : Nat) (xs : List (Nat × Nat × Nat)) : State := hostPut (running 1) 0x101000 (layout 64 ((0, 2, op) :: xs))

/-- The same with one continuation packet. -/
def sentTwo (op : Nat) (xs : List (Nat × Nat × Nat)) : State :=
  hostPut (running 2) 0x101000 (layout 128 ((0, 2, op) :: (2, 1, 0x40) :: (64, 2, 0xFFFE) :: (67, 1, 1) :: xs))

/-- What holds of the command that the porter fetches, of the state that holds it, and of the state in which it runs. -/
def fetches (s : State) (ans : HostAns) (op : Nat) (p : State → Cmd → Bool) : Bool :=
  match s.fetchNext 3 0 ans with
  | some (c, f) => c.opcode == op && p (f.begun c) (f.started c)
  | none => false

/-- The state that a command leaves. -/
def after (c : Instr) (s : State) : State := match exec c s with | .next t => t | _ => s

/-! ### The porter's commands -/

/-- NOP, SIGNAL_WRITE to its own device and to another, SIGNAL_WAIT that holds, that fails with TIMEOUT_US 0, and that waits. -/
theorem witness_nop_and_signals :
    (fetches (sent 0x0000 []) .data 0x0000 (fun _ _ => true) &&
    fetches (sent 0x0601 [(16, 2, 4095), (24, 8, 7)]) .data 0x0601 (fun _ x => !bit (x.f 19 1) 0) &&
    fetches (sent 0x0601 [(19, 1, 1), (20, 2, 5)]) .data 0x0601 (fun _ x => bit (x.f 19 1) 0) &&
    fetches (sent 0x0602 [(24, 8, 0)]) .data 0x0602 (fun b x => x.satisfied (b.signal x.lod (x.f 16 2))) &&
    fetches (sent 0x0602 [(24, 8, 1)]) .data 0x0602 (fun b x => !x.satisfied (b.signal x.lod (x.f 16 2)) && x.f 32 4 == 0) &&
    fetches (sent 0x0602 [(24, 8, 1), (32, 4, 1)]) .data 0x0602
      (fun b x => !x.satisfied (b.signal x.lod (x.f 16 2)) && x.f 32 4 != 0)) = true := by
  decide +kernel

/-- The four commands of one product, and a group of one entry. -/
theorem witness_matrix_commands :
    let product := [(16, 8, 0x400000), (24, 8, 0x410000), (32, 8, 0x420000), (40, 4, 33), (44, 4, 17), (48, 4, 32),
      (100, 4, 256), (104, 4, 256), (112, 4, 256)]
    (fetches (sentTwo 0x0101 product) .data 0x0101 (fun _ _ => true) &&
    fetches (sentTwo 0x0103 ((52, 2, 0x0DDD) :: product)) .data 0x0103 (fun _ _ => true) &&
    fetches (sentTwo 0x0104 product) .data 0x0104 (fun _ _ => true) &&
    fetches (sentTwo 0x0120 [(16, 8, 0x400000), (24, 8, 0x410000), (32, 8, 0x420000), (40, 4, 33), (44, 4, 17),
      (100, 4, 256), (104, 4, 256), (112, 4, 256)]) .data 0x0120 (fun _ _ => true) &&
    fetches (sentTwo 0x0102 [(16, 8, 0x108000), (24, 4, 1)]) .data 0x0102 (fun _ x =>
      x.read.length == 128 && x.readPoison == [false])) = true := by
  decide +kernel

/-- The attention commands with one sequence, and KV_APPEND with one and with none. -/
theorem witness_attention_commands :
    let heads := [(28, 2, 8), (30, 2, 1), (32, 2, 256), (44, 2, 256), (48, 4, 0x461C4000)]
    let table := (16, 8, 0x108000) :: (24, 4, 1) :: heads
    let reads := fun (_ : State) (x : Cmd) =>
      ((attnParams x).entries x.read x.readPoison).length == (attnParams x).seqCount
    (fetches (sent 0x0201 table) .data 0x0201 reads && fetches (sentTwo 0x0202 table) .data 0x0202 reads &&
    fetches (sent 0x0203 table) .data 0x0203 reads && fetches (sent 0x0204 table) .data 0x0204 (fun _ _ => true) &&
    fetches (sent 0x0204 heads) .data 0x0204 (fun b x => (attnParams x).seqCount == 0 && reads b x && b.attn? x.id == none &&
      (attnParams x).appendSteps ((attnParams x).entries x.read x.readPoison) == [])) = true := by
  decide +kernel

/-- A launch with an empty grid, and the three copies. -/
theorem witness_launch_and_copies :
    (fetches (hostPut (sent 0x0301 [(16, 8, 0x108000)]) 0x108000 (layout 64 [(0, 8, 0x400000), (8, 1, 1), (9, 1, 1)])) .data 0x0301
      (fun b x => b.launch? x.id == none && (launchOf x x.read).code == 0x400000 && (launchOf x x.read).total == 0 &&
        !b.blocks.any (fun y => y.cmd == x.id)) &&
    fetches (sent 0x0401 [(16, 8, 0x400000), (24, 8, 0x410000), (32, 8, 64)]) .data 0x0401 (fun _ _ => true) &&
    fetches (sent 0x0402 [(24, 8, 0x410000), (32, 8, 1), (48, 8, 255)]) .data 0x0402 (fun _ _ => true) &&
    fetches (sent 0x0403 [(16, 8, 0x400000), (24, 8, 0x410000), (32, 8, 0)]) .data 0x0403 (fun _ _ => true)) = true := by
  decide +kernel

/-- Lodging 3 with an addF32 reduction region of one 4 KiB page at 0x200000, described at 0x108000. -/
def withRegion (s : State) : State :=
  let s := hostPut s 0x108000 (layout 32 [])
  s.modLod 3 (fun l => { l with
    maps := { va := 0x200000, pa := 0x200000, size := 4096, count := 1, perm := 3, region := some 0x108000, desc := 0 } :: l.maps })

/-- REDUCE_PUSH of no element and of two, EPOCH_FLUSH and EPOCH_INVALIDATE. -/
theorem witness_reduction_commands :
    (fetches (sent 0x0501 []) .data 0x0501 (fun _ x => x.f 32 8 == 0) &&
    fetches (withRegion (sent 0x0501 [(16, 8, 0x400000), (24, 8, 0x200000), (32, 8, 2)])) .data 0x0501 (fun b x =>
      x.f 32 8 != 0 &&
      (match (b.lod x.lod).mapping? (x.f 24 8) with
       | some m => m.region.isSome && m.reduction.isSome
       | none => false)) &&
    fetches (sent 0x0502 []) .data 0x0502 (fun _ _ => true) && fetches (sent 0x0503 []) .data 0x0503 (fun _ _ => true)) = true := by
  decide +kernel

/-- MAP of one page, UNMAP of all of HBM4's, DIGEST_READ without and with a record, TRACE_MARK with COUNTERS. -/
theorem witness_maps_and_records :
    (fetches (sent 0x0701 [(16, 8, 0x200000), (24, 8, 0x200000), (32, 8, 4096), (41, 1, 3)]) .data 0x0701
      (fun b x => (b.installMap x.lod (mapParams x) x.read).2 == false) &&
    fetches (sent 0x0702 [(16, 8, 0x400000), (32, 8, 0x100000)]) .data 0x0702
      (fun b x => (b.removePages x.lod (mapParams x).va (mapParams x).len).lod x.lod != b.lod x.lod) &&
    fetches (sent 0x0801 [(16, 8, 0x108000)]) .data 0x0801 (fun b x =>
      (b.lod x.lod).digests.reverse.find? (fun r => field r 4 2 == x.f 24 2 % 1024 && field r 0 4 == x.f 28 4) == none) &&
    fetches ((sent 0x0801 [(16, 8, 0x108000), (24, 2, 7), (28, 4, 9)]).modLod 3 (fun l =>
        { l with digests := [layout 64 [(0, 4, 9), (4, 2, 7)]] })) .data 0x0801 (fun b x =>
      match (b.lod x.lod).digests.reverse.find? (fun r => field r 4 2 == x.f 24 2 % 1024 && field r 0 4 == x.f 28 4) with
      | some r => match b.vwrite x.lod (x.f 16 8) 0 r false (some x.id) x.ids with | .ok _ _ => true | _ => false
      | none => false) &&
    fetches (sent 0x0E01 [(24, 1, 1)]) .data 0x0E01 (fun _ _ => true)) = true := by
  decide +kernel

/-- A packet of no command, an admin opcode, a poisoned slot, a first and a continuation slot that the host answers for, and a ring that is
not mapped. -/
theorem witness_refused_packets :
    let read := fun (s : State) (p : Nat → Bool) => (s.grantFetch 3 0).isSome &&
      (match s.chain 3 0 with | (t, .packets b used none) => p (t.newCmd 3 0 b used).opcode | _ => false)
    (read (sent 0x0000 []) (fun op => op == 0 && (sent 0x0000 []).hostSlot 3 0 0) && (sentTwo 0x0101 []).hostSlot 3 0 1 &&
    !(sentTwo 0x0101 []).hostSlot 3 0 2 &&
    read (sent 0xFFFF []) (fun op => !galleyOpcodes.contains op && !adminOpcode op) &&
    read (sent 0x0F01 []) adminOpcode && read (sent 0x0F09 []) adminOpcode && hostPoisons .ep &&
    (let s := (sent 0x0000 []).modLod 3 (fun l => { l with maps := [] })
     (s.grantFetch 3 0).isSome && !s.hostSlot 3 0 0 && (match s.chain 3 0 with | (_, .fault st _) => st == 0x0300 | _ => false)) &&
    (let s := (running 1).modGalley 3 0 (fun x => { x with desc := { x.desc with base := 0x400000 } })
     let s : State := { s with mem := { cells := [], poison := [0x400000 / 32] }, hbm := { s.hbm with valid := [0x400000 / 4096] } }
     (s.grantFetch 3 0).isSome && !hostPoisons .data && (match s.chain 3 0 with | (_, .poisoned _ used) => used == 1 | _ => false))) = true := by
  decide +kernel

/-! ### The window, the mailboxes and the admin operations -/

/-- A NOP that has ended, and a SIGNAL_WAIT of galley 0 for signal 0 = 1 within 1 µs that runs. -/
def nopEnded : State := after (.nop 3 0) (sent 0x0000 [])
/-- The wait. -/
def waiting : State := after (.signalWait 3 0) (sent 0x0602 [(24, 8, 1), (32, 4, 1)])

/-- A command that has ended, a wait that an update ends, and one whose time is over at the tick of 6 µs. -/
theorem witness_completion_and_waits :
    ((match nopEnded.cmd? 0 with | some c => c.phase == .ended && c.acks == 0 && c.status == 0 | none => false) &&
    (match waiting.cmd? 0 with
     | some c => c.opcode == 0x0602 && c.lod == 3 && c.f 16 2 == 0 && c.phase == .running && c.satisfied 1
     | none => false) &&
    (let s := { waiting with now := 6500 }
     match s.cmd? 0 with
     | some c => c.phase == .running && decide (c.f 32 4 * 1000 ≤ elapsed c.start 6000 ∧ 500 ≤ elapsed c.start s.now)
     | none => false) &&
    ((running 1).lod 3).state == .active && 0x8000 % 8 == 0) = true := by
  decide +kernel

/-- Doorbells from 1 up to 2^4 packets, at the same TAIL, and past either end; a write that is not one. -/
theorem witness_doorbells :
    let s := running 1
    (s.windowOpen 3 && (s.galley 3 0).state == .active && (s.galley 3 0).head == 0 && (s.galley 3 0).tail == 1 &&
    (s.galley 3 0).desc.log2Size == 4 && after (.galleyDoorbell 3 0 8 1 false) s == s &&
    ((after (.galleyDoorbell 3 0 8 16 false) s).galley 3 0).tail == 16 &&
    ((after (.galleyDoorbell 3 0 8 17 false) s).galley 3 0).errStatus == 0x0207 &&
    ((after (.galleyDoorbell 3 0 8 0 false) s).galley 3 0).state == .stopped &&
    ((after (.galleyDoorbell 3 0 4 2 false) s).lod 3).dbDrops == 1 &&
    ((after (.galleyDoorbell 3 8 8 2 false) s).lod 3).dbDrops == 1) = true := by
  decide +kernel

/-- Lodging 3 with its galley in a state and no command left. -/
def galleyIn (st : GState) : State := (running 1).modGalley 3 0 (fun x => { x with state := st })

/-- A galley in each state; a descriptor that is read; GDT_BASE with a galley that is not DISABLED, and with none. -/
theorem witness_galley_control :
    ((running 1).rel.mode != 2 && ((running 1).lod 3).state == .active &&
    (match (galleyIn .disabled).readDesc 3 0 .data with | (_, .ok b) => !descReserved b | _ => false) &&
    ((galleyIn .disabled).galley 3 0).state == .disabled && ((galleyIn .stopped).galley 3 0).state == .stopped &&
    !((galleyIn .stopped).galley 3 0).enableStop && ((galleyIn .draining).galley 3 0).state == .draining &&
    ((galleyIn .draining).galleyCmds 3 0).isEmpty &&
    ((running 1).lod 3).galleys.any (fun e => e.2.state != .disabled) &&
    ((galleyIn .disabled).lod 3).galleys.all (fun e => e.2.state == .disabled) &&
    (after (.gdtBaseWrite 3 (2 ^ 57 + 2 ^ 16 + 5) false) (galleyIn .disabled)).lod 3 ==
      { (galleyIn .disabled).lod 3 with gdtBase := 2 ^ 16 }) = true := by
  decide +kernel

/-- A machine whose mailbox fn holds an operation with a packet of the fields given; w: it waits for commands. -/
def asked (fn : Fn) (w : Bool) (xs : List (Nat × Nat × Nat)) (s : State) : State :=
  let p := layout 64 xs
  let o : AdminOp := { opcode := field p 0 2, packet := p, start := 0, endT := 0, status := 0, detail := 0, work := 0,
                       decided := false, waiting := w, asked := s.now }
  s.modMbx fn (fun m => { m with cmd := p, busy := true, op := some o })

/-- Mailboxes idle and busy; a doorbell that steps 1 to 3 refuse, one that they let pass, and one that waits for a failover; an
operation that is decided. -/
theorem witness_mailbox :
    let s := running 1
    let held : State := { s with ink := { s.ink with failoverAt := some 4000 } }
    let rescue := s.modMbx .pf (fun m => { m with cmd := layout 64 [(0, 2, 0x0F09)] })
    (!s.mbxBusy .pf && (after (.mbxDoorbell .pf false) rescue).mbxBusy .pf && s.serviceOpen && !held.serviceOpen &&
    s.adminGate 256 (s.mbx .pf).cmd == some (0x0200, 1) && rescue.adminGate 256 (rescue.mbx .pf).cmd == none &&
    (match ((after (.mbxDoorbell .pf false) s).mbx .pf).op with | some q => q.decided | none => false) &&
    ((after (.mbxOperationEnd .pf) (after (.mbxDoorbell .pf false) s)).mbx .pf).done &&
    (after (.mbxCmdWrite .pf 0x213F [0xAB] false) s).mbx .pf ==
      { s.mbx .pf with cmd := List.replicate 63 0 ++ [0xAB] }) = true := by
  decide +kernel

/-- The operation of an opcode that the Innkeeper may serve, and what its checks give. -/
def serves (s : State) (fn : Fn) (op : Nat) (p : AdminOp → Option Status → Bool) : Bool :=
  match s.adminReady fn op with
  | some o => p o (s.adminCheck (fnKey fn) o)
  | none => false

/-- Each of the nine operations, refused by one of its checks. -/
theorem witness_admin_refused :
    ([(0x0F01, [(16, 1, 3)]), (0x0F02, [(16, 1, 4)]), (0x0F03, [(16, 1, 4)]), (0x0F04, [(2, 1, 0x20)]), (0x0F05, [(40, 4, 1)]),
      (0x0F06, [(46, 2, 0)]), (0x0F07, [(24, 8, 255)]), (0x0F08, [(32, 4, 1023)]), (0x0F09, [(55, 1, 1)])].all (fun x =>
        serves (asked .pf false ((0, 2, x.1) :: x.2) (running 1)) .pf x.1 (fun o st => !o.waiting && st.isSome)) &&
    (running 1).ink.carried.isEmpty) = true := by
  decide +kernel

/-- A contract that asks for cluster 1 and 1 MiB of translation table: weight 1, extent GiB 8. -/
def contractBytes : List Byte := layout 256 [(0, 4, 2), (8, 2, 1), (12, 4, 1), (16, 4, 0x10008)]

/-- Creation of lodging 4 and a new contract for lodging 3; a destruction and a reset of lodging 3 whose commands are all over, at
their first service and after a wait. -/
theorem witness_lodging_operations :
    let s := hostPut (running 0) 0x108000 contractBytes
    let made := fun (l : Nat) (op : Nat) =>
      let t := asked .pf false [(0, 2, op), (16, 1, l), (24, 8, 0x108000)] s
      serves t .pf op (fun o st => !o.waiting && st == none &&
        (match t.adminRead (field o.packet 24 8) 256 .data with
         | (u, .ok b) => u.contractCheck l b == none
         | _ => false))
    let ending := fun (w : Bool) (op : Nat) (st : LState) => asked .pf w [(0, 2, op), (16, 1, 3)] (s.modLod 3 (fun l => { l with state := st }))
    (made 4 0x0F01 && made 3 0x0F07 &&
    serves (ending false 0x0F02 .active) .pf 0x0F02 (fun o st => !o.waiting && st == none) &&
    (((((ending false 0x0F02 .active).beginReset 3 .destroying).1).modOp .pf
      (fun o => { o with waiting := true, start := s.now, work := 2 ^ 18 })).finishDestroy 3).2 &&
    serves (ending true 0x0F02 .destroying) .pf 0x0F02 (fun o _ => o.waiting) && ((ending true 0x0F02 .destroying).finishDestroy 3).2 &&
    serves (ending false 0x0F03 .active) .pf 0x0F03 (fun o st => !o.waiting && st == none) &&
    (((((ending false 0x0F03 .active).beginReset 3 .resetting).1).modOp .pf
      (fun o => { o with waiting := true, start := s.now, work := 0 })).finishReset 3).2 &&
    serves (ending true 0x0F03 .resetting) .pf 0x0F03 (fun o _ => o.waiting) && ((ending true 0x0F03 .resetting).finishReset 3).2) = true := by
  decide +kernel

/-- FW_UPDATE, BIST_RUN, SECURE_ERASE, TELEMETRY_READ of the PF and of VF 3, and RESCUE_ENTER, each passing its checks. -/
theorem witness_device_operations :
    let s := running 0
    let passes := fun (fn : Fn) (op : Nat) (xs : List (Nat × Nat × Nat)) (p : State → AdminOp → Bool) =>
      let t := asked fn false ((0, 2, op) :: xs) s
      serves t fn op (fun o st => !o.waiting && st == none && p t o)
    (passes .pf 0x0F04 [(32, 4, 64)] (fun t o =>
      t.ink.carried.isEmpty && (match t.adminRead (field o.packet 24 8) 64 .data with | (_, .ok _) => true | _ => false)) &&
    passes .pf 0x0F05 [(40, 4, 2)] (fun _ _ => true) && passes .pf 0x0F06 [(44, 2, 510), (46, 2, 1)] (fun _ _ => true) &&
    passes .pf 0x0F08 [(32, 4, 4096), (36, 1, 1)] (fun t o => decide (field o.packet 24 8 + (t.telemetry 0 1).length ≤ 2 ^ 51)) &&
    passes (.vf 3) 0x0F08 [(24, 8, 0x108000), (32, 4, 1024)] (fun t o =>
      match t.vwrite 3 (field o.packet 24 8) 0 (t.telemetry 3 0) false none (0, 0) with | .ok _ _ => true | _ => false) &&
    passes .pf 0x0F09 [] (fun _ _ => true)) = true := by
  decide +kernel

/-- A lodging ABSENT, ACTIVE and free, ACTIVE and held, and RESETTING. -/
theorem witness_function_level_reset :
    let s := running 0
    let held := (asked .pf false [(0, 2, 0x0F07), (16, 1, 3)] s).modOp .pf (fun o => { o with decided := true })
    ((s.lod 4).state == .absent && (s.lod 3).state == .active && (s.holder (.lodging 3)).isNone &&
    (held.holder (.lodging 3)).isSome && (held.lod 3).state == .active) = true := by
  decide +kernel

/-! ### Core code, units and key blocks -/

/-- A command of lodging 3 that runs, number 0, with the packet of an opcode and fields. -/
def runs (op : Nat) (n : Nat) (xs : List (Nat × Nat × Nat)) (s : State) : State :=
  { s with cmds := [{ s.newCmd 3 0 (layout n ((0, 2, op) :: xs)) 1 with id := 0, phase := .running, issued := false }], nextCmd := 1 }

/-- A launch of one block of one group of 64 threads, code at 0x400000, 8 registers, with a timeout in microseconds. -/
def launched (us : Nat) (s : State) : State :=
  let s := runs 0x0301 64 [(16, 8, 0x108000), (32, 4, 1), (36, 2, 1), (38, 2, 1)] s
  let l : Launch := { cmd := 0, lod := 3, code := 0x400000, args := 0, groups := 1, regsPerThread := 8, scratchKib := 1,
                      exclusive := false, gridX := 1, gridY := 1, gridZ := 1, timeoutUs := us, next := 0, normal := 0,
                      cleaned := [] }
  { s with launches := [l] }

/-- The block resident on column 0 with its first line of code in the instruction cache, its threads as given. -/
def resident (f : Nat → Thread → Thread) (feeds : List FeederXfer) (s : State) : State :=
  let s := launched 0 s
  let gs := (s.newGroups 0 1 8 0x400000).map (fun g => { g with threads := g.threads.map (fun t => (t.1, f t.1 t.2)) })
  let b : Block := { id := 0, cmd := 0, lod := 3, col := 0, index := 0, regsPerThread := 8, scratchKib := 1,
                     scratch := { cells := [], poison := [] }, groups := gs, counters := [], feeds := feeds, nextFeed := 0,
                     stopping := false, saved := false }
  let line : ILine := { lod := 3, line := 0x400000 / 128, bytes := List.replicate 128 0, poison := List.replicate 4 false }
  { s with launches := s.launches.map (fun l => { l with next := 1 }), nextBlock := 1, blocks := [b],
           cores := [(0, { ColCore.reset with icache := [line] })] }

/-- Threads 0 and 1 left, the others ended; register 2 of each holds an address, and register 7 is poisoned. -/
def two (va : Nat) (t : Nat) (x : Thread) : Thread :=
  { x with regs := [(2, va + 4 * t)], poison := [7], wait := if t < 2 then .ready else .exited }

/-- What holds of the issue of group 0 of block 0. -/
def issues (s : State) (p : Issue → Bool) : Bool := match s.issue 0 0 with | some x => p x | none => false

/-- The same with one access of thread 0 open: a load into register 2, or a store. -/
def opened (kind : TxnKind) (addr : Nat) (s : State) : State :=
  { s with fab := { s.fab with txns := [{ id := 5, lod := 3, addr := addr, issued := s.now, kind := kind, got := [], cmd := none, mark := 0 }] } }

/-- An issue with an unpoisoned and a poisoned condition, with and without an open access that writes register 2, and a last thread
whose exit ends the block. -/
theorem witness_core_issue :
    let s := resident (two 0x400200) [] (running 0)
    let o := opened (.load 0 0 0 2 4) 0x400200 s
    (issues s (fun x => !x.p.ts.any (fun t => (x.thread t).poisoned [2]) && x.p.ts.any (fun t => (x.thread t).poisoned [7]) &&
      x.p.ts.length == 2 && x.p.ts.all (fun t => (s.regHolds x t [2, 7]).isEmpty) &&
      (match ((s.commit x true).modThreads 0 0 x.p.ts (fun t => { t with wait := .exited })).block? 0 with
        | some b => b.groups.all (·.over)
        | none => false)) &&
    issues o (fun x => !x.p.ts.all (fun t => (o.regHolds x t [2]).isEmpty) && x.p.ts.all (fun t => (o.regHolds x t [7]).isEmpty)) &&
    issues (resident (fun _ t => t) [] (running 0)) (fun x => x.p.ts.length == 64)) = true := by
  decide +kernel

/-- An access of size bytes at the address in register 2. -/
def accessOf (size : Nat) (late : Bool) : CoreAcc :=
  { size := size, areg := 2, off := 0, scratch := false, next := 0x400010, late := late, spin := false, ans := .data }

/-- The machine with two threads that may access memory of a valid page, and what holds of an access of 4 bytes that needs a permission and
names registers 2, 3 and more: none of them is written by an open access, nothing refuses it, and it awaits nothing. -/
def twoThreads : State :=
  let s := resident (two 0x400200) [] (running 0)
  { s with hbm := { s.hbm with valid := [1024], keyOf := [(0x400200 / 32, s.keyTag 3)] } }
/-- The premises. -/
def free (x : Issue) (rs : List Nat) (need : Nat) : Bool :=
  x.p.ts.all (fun u => (twoThreads.regHolds x u (2 :: 3 :: rs)).isEmpty) && twoThreads.firstFault x (accessOf 4 false) need == none &&
  x.p.ts.all (fun u => (twoThreads.accHolds x (accessOf 4 false) need u).isEmpty) && !twoThreads.quiesced x.b.col

/-- A load of 4 bytes, performed at once and left to later flits. -/
theorem witness_core_load :
    issues twoThreads (fun x => free x [3] permRead && twoThreads.allNear x (accessOf 4 true) permRead true &&
      (match twoThreads.loadThreads x 3 (accessOf 4 false) x.p.ts with | .ok _ vs => vs.length == 2 | _ => false)) = true := by
  decide +kernel

/-- A store of 4 bytes, performed at once and left to later flits. -/
theorem witness_core_store :
    issues twoThreads (fun x => free x [3] permWrite && twoThreads.allNear x (accessOf 4 true) permWrite false &&
      (match twoThreads.storeThreads x 3 (accessOf 4 false) x.p.ts with | .ok _ _ => true | _ => false)) = true := by
  decide +kernel

/-- An add of 4 bytes, relaxed and of any order; an atomic of 1 byte; and a misaligned access. -/
theorem witness_core_atomic :
    let g : AtomArgs := { dst := 3, src := 4, cmp := 5, op := .add, order := .relaxed, scope := .device }
    let odd := resident (two 0x400201) [] (running 0)
    (issues twoThreads (fun x => (atomWidths .add).contains 4 && free x [3, 4] 3 && twoThreads.atomFault x .add (accessOf 4 false) == none &&
      x.p.ts.all (fun u => (twoThreads.covered 0 0 u .device).isEmpty) &&
      (match twoThreads.atomicThreads x g (accessOf 4 false) x.p.ts with | .ok _ _ => true | _ => false)) &&
    issues twoThreads (fun _ => !(atomWidths .add).contains 1) &&
    issues odd (fun x => (odd.firstFault x (accessOf 4 false) permRead).isSome && (odd.firstFault x (accessOf 4 false) permWrite).isSome)) =
      true := by
  decide +kernel

/-- Two threads that hand over a descriptor of a copy of 4 bytes into scratch memory, and its transfer: no piece of it, and its last. -/
theorem witness_feeder :
    let desc : Nat → Thread → Thread := fun t x =>
      { x with regs := [(0, 0x400200), (2, 0), (3, 2 ^ 31), (4, 0x10004)], wait := if t < 2 then .ready else .exited }
    let s := resident desc [] (running 0)
    let b : FeederXfer := feederOf ((match s.issue 0 0 with | some x => x.thread 0 | none => Thread.reset 0).descBytes 0) 0 0
    let t := resident desc [b] (running 0)
    let moved := fun (n row : Nat) => match t.block? 0 with
      | some b => !b.saved && !t.quiesced b.col && (match b.feeds.find? (fun y => y.idx == 0) with
        | some f => f.rows == 1 && (match t.feedPieces b .data (t.idsOf b.cmd) f n with
          | .ok _ g => g.row == row && g.acks == 0
          | _ => false)
        | none => false)
      | none => false
    (issues s (fun x => x.p.ts.all (fun t => (s.regHolds x t ((List.range 8).map (· + 0))).isEmpty) &&
      (x.p.ts.take (16 - ((s.blocksOn x.b.col).map (fun b => b.feeds.length)).sum)).length == 2 &&
      x.p.ts.all (fun u => !(x.thread u).poisoned ((List.range 8).map (· + 0)) && !feederRefused ((x.thread u).descBytes 0) &&
        (s.reads x.b.id x.i u).isEmpty)) &&
    issues (resident (two 0x400200) [] (running 0)) (fun x => x.p.ts.any (fun u =>
      (x.thread u).poisoned ((List.range 8).map (· + 0)))) &&
    issues (resident (fun t x => { x with wait := if t < 2 then .ready else .exited }) [] (running 0)) (fun x =>
      x.p.ts.any (fun u => feederRefused ((x.thread u).descBytes 0)) &&
      !x.p.ts.any (fun u => (x.thread u).poisoned ((List.range 8).map (· + 0)))) &&
    moved 0 0 && moved 1 1) = true := by
  decide +kernel

/-- A block to place with its cluster's domain ON and OFF, the line to fetch, and a launch whose 1 µs is over. -/
theorem witness_placement :
    let s := launched 0 (running 0)
    let off := s.modDomain 0 (fun d => { d with state := .off })
    let can := fun (u : State) => match u.launch? 0 with
      | some l => u.opLive 0 && decide (l.next < l.total) && (u.displaced l).isNone && u.assigned l.lod (clusterOf 7) &&
          u.clusterServes (clusterOf 7) && u.blockRoom l.lod 7 l.groups l.regsPerThread l.scratchKib l.exclusive 0
      | none => false
    let r := resident (fun _ t => t) [] (running 0)
    (can s && (s.domain (clusterOf 7)).state == .on && can off && (off.domain (clusterOf 7)).state != .on &&
    (match r.block? 0 with
     | some b => r.blockRuns b && (match b.groups[0]? with | some g => g.sets.any (fun y => y.1 == 0x400000) | none => false) &&
       (match r.vread b.lod (alignDown 0x400000 128) 128 permExec 0xFFFE .data (r.idsOf b.cmd) with | .ok _ _ p => !anyPoison p | _ => false)
     | none => false) &&
    (let l := { launched 1 (running 0) with now := 6000 }
     match l.launch? 0, l.cmd? 0 with
     | some y, some c => y.timeoutUs != 0 && c.phase == .running && l.expired c.start (y.timeoutUs * 1000)
     | _, _ => false)) = true := by
  decide +kernel

/-- A product of 33 by 17 by 1 in segs K segments that runs, its command number 0. -/
def product (segs : Nat) (s : State) : State :=
  let s := runs 0x0101 128 [(16, 8, 0x400000), (24, 8, 0x410000), (32, 8, 0x420000), (40, 4, 33), (44, 4, 17), (48, 4, 1),
    (55, 1, segs - 1), (100, 4, 32), (104, 4, 64), (112, 4, 64)] s
  match s.cmds with
  | c :: _ => { s with mats := [{ cmd := 0, lod := 3, par := gemmParams c, entries := [gemmEntry c], parts := [], totals := [],
                                  written := [], passes := 0, saturated := 0, elems := [] }] }
  | [] => s

/-- The unit of its one block on column 7, with a failed pass on array 1 where bad. -/
def onArrays (bad : Bool) : State :=
  let s := product 1 (running 0)
  match s.mats with
  | m :: _ => match m.entries with
    | e :: _ =>
      let u := m.unit e { cmd := 0, entry := 0, mb := 0, nb := 0, seg := 0 } (s.arrays 7) 8
      s.setRun 7 (.mat (if bad then { u with chunks := u.chunks.map (fun c => if c.array = 1 then { c with failed := some 1 } else c) } else u))
    | [] => s
  | [] => s

/-- A part of the block of the product. -/
def partOf (seg : Nat) : Part := { key := { cmd := 0, entry := 0, mb := 0, nb := 0, seg := seg }, col := 7, chunks := [], tiles := 0 }

/-- A unit to dispatch, a pass and a recomputation with a good and a bad proof, two segments to combine, and an epilogue. -/
theorem witness_units :
    let big : List PassErr := [{ blk := 0, m := 0, n := 0, mant := 1, exp := 20 }]
    let pass := fun (s : State) (errs : List PassErr) (again : Bool) => match s.runPass 7 1 errs .data again with
      | .proven .. => 1 | .failed .. => 2 | _ => 0
    let two := (product 2 (running 0)).modMat 0 (fun m => { m with parts := [partOf 0, partOf 1] })
    let one := (product 1 (running 0)).modMat 0 (fun m => { m with parts := [partOf 0] })
    ((let s := product 1 (running 0)
     match s.mat? 0 with
     | some m => (match m.entries[0]? with
       | some e => s.opLive 0 && !e.skipped && e.mBlocks == 1 && e.nBlocks == 1 && m.par.segs == 1
       | none => false)
     | none => false) &&
    pass (onArrays false) [] false == 1 && pass (onArrays false) big false == 2 &&
    pass (onArrays true) [] true == 1 && pass (onArrays true) big true == 2 &&
    (match two.mat? 0 with
     | some m => (match m.segParts 0 0 0 with | some (_ :: _ :: _) => true | _ => false)
     | none => false) &&
    (match one.mat? 0 with
     | some m => (match m.parts.find? (fun p => p.key.entry == 0 && p.key.mb == 0 && p.key.nb == 0), m.entries[0]? with
       | some p, some e => one.opLive 0 && (match one.epilogueChunks m e p.key .data (one.idsOf 0) (p.chunks.zipIdx.drop p.tiles) with
         | .ok .. => true | _ => false)
       | _, _ => false)
     | none => false)) = true := by
  decide +kernel

/-- A decode of one query row, in host memory, over one token in one split; phase 2 reads one partial. -/
def attending (phase : Nat) (s : State) : State :=
  let s := hostPut s 0x108000 (layout 8 [(0, 8, 0x400001)])
  let s := runs 0x0203 128 [(16, 8, 0x109000), (24, 4, 1), (28, 2, 1), (30, 2, 1), (32, 2, 32), (35, 1, 16 * phase), (44, 2, 1), (80, 2, 1)] s
  let e : SeqEntry := seqEntry (layout 128 [(0, 8, 0x10A000), (8, 8, 0x420000), (16, 8, 0x108000), (32, 4, 1), (36, 4, 1), (80, 8, 0x430000)]) [] false
  let r : RowPart := { seq := 0, row := 0, head := 0, split := 0, st := RowState.start 32 }
  match s.cmds with
  | c :: _ => { s with attns := [{ cmd := 0, lod := 3, par := attnParams c, seqs := [e], rows := [r], endedUnits := [], written := [],
                                   dropped := [], pushed := [], appended := 0, work := 0, satTiles := [], elems := [] }] }
  | [] => s

/-- The unit of the row on column 7, its rows not read yet. -/
def attendingUnit : AttnUnit :=
  { key := { cmd := 0, entry := 0, mb := 0, nb := 0, seg := 0 }, tol := 8, plan := none, mask := [], queries := [], pages := [], next := 0,
    rows := [RowState.start 32] }

/-- What holds of the unit's operator, of the state in which it has read its rows, and of it then. -/
def planned (s : State) (p : State → AttnOp → SeqEntry → AttnUnit → Bool) : Bool :=
  match s.attn? 0 with
  | some m => (match m.seqs[0]? with
    | some e => (match s.planUnit m e attendingUnit .data with
      | .ok (w, v) => p (w.countSkipped m e v 7) m e v
      | .error _ => false)
    | none => false)
  | none => false

/-- A unit to dispatch; one that reads its rows, whose only block has its sums (of a query that is NaN, which no free value enters), and,
with its last array lost to a bad proof, has none; one with no block left; a row to merge; a partial to read. -/
theorem witness_key_blocks :
    let s := (attending 0 (running 0)).setRun 7 (.attn attendingUnit)
    let nan := hostPut s 0x10A000 ((List.replicate 32 (leBytes 2 0x7FC0)).flatten)
    let last := s.modCore 7 (fun c => { c with suspect := 14 })
    let bad : List AttnErr := [false, true].map (fun r => { array := 0, chunk := 0, pass := 0, retry := r,
                                                            err := { blk := 0, m := 0, n := 0, mant := 1, exp := 20 } })
    let row := fun (t : State) (p : AttnOp → SeqEntry → Bool) => match t.attn? 0 with
      | some m => (match m.seqs[0]? with
        | some e => t.opLive 0 && !m.written.contains (0, 0, 0) && !m.dropped.contains 0 && !e.skipped && e.qLen == 1 &&
            m.par.qHeads == 1 && p m e
        | none => false)
      | none => false
    let sums := fun (s : State) (errs : List AttnErr) (q : Bool → Bool) => planned s (fun w m e v =>
      let r := w.setRun 7 (.attn v)
      (v.plan.getD [])[v.next]? == some 0 && (v.plan.getD [])[v.next + 1]? == none &&
      (match r.unitPage m e v 0 .data with
       | .ok x page =>
         let v' : AttnUnit := { v with pages := v.pages.set 0 page }
         (match (x.setRun 7 (.attn v')).blockSums m e v' page 0 7 errs .data with
          | .ok (_, _, _, _, xs) => q xs.isSome
          | .error _ => false)
       | _ => false))
    ((s.cmd? 0).isSome && s.mat? 0 == none &&
    row s (fun m _ => m.par.phase == 0 && m.par.opcode == 0x0203 &&
      (match m.splitsOf 0 0 0 with | some xs => (mergeSplits xs).isSome | none => false)) &&
    sums nan [] (fun b => b) && sums last bad (fun b => !b) &&
    (let t := attending 2 (running 0)
     row t (fun m e => m.par.phase == 2 && (match t.readPartials m.lod m.par e 0 0 .data (t.idsOf 0) none 0 m.par.numPartials with
       | .ok _ => true | _ => false)))) = true := by
  decide +kernel

/-- A column that keeps an array, and a unit on it. -/
theorem witness_suspect_array :
    ((match ((onArrays true).core 7).run with
     | .mat u => (match u.chunks with
       | _ :: ch :: _ => ch.array == 1 && (((onArrays true).suspectArray 7 1 u ch).arrays 7) == [0, 2, 3]
       | _ => false)
     | _ => false)) = true := by
  decide +kernel

/-! ### Fabric, lanes and Cytil -/

/-- A flit of lodging 3 from the core of column 0. -/
def flit (op addr : Nat) (payload : List Byte) : Flit :=
  { lodging := 3, qclass := 0, poison := false, layer := 0, oper := 0, op := op, sect := 3, addr := addr, half := 0, credClass := 0,
    credNet := 0, credCount := 0, own := false, tag := 5, payload := slice payload 0 64, src := .core 0, input := 0, cycle := 1 }

/-- Requests to HBM4, scratch, host memory and a remote device with a credit; a retired slice, and scratch of no frame of the lodging. -/
theorem witness_requests :
    let s := running 0
    let gone : State := { s with stn := { s.stn with slices := [(s.scratchColumn (2 ^ 40), { Slice.reset with retired := true })] } }
    (s.hasCredit (flit 0x01 0x400000 [15]) && gone.refusedAt 3 (2 ^ 40) == some 0x0501 && s.refusedAt 3 (2 ^ 40) == some 0x0300 &&
    placeOf (2 ^ 40) == .scratch && s.refusedAt 256 (2 ^ 40) == none && placeOf (2 ^ 52) == .remote && s.refusedAt 3 (2 ^ 52) == none &&
    placeOf 0x400000 == .hbm && s.refusedAt 3 0x400000 == none && placeOf (2 ^ 51) == .host && s.refusedAt 3 (2 ^ 51) == none &&
    s.carried (flit 0x01 0x400000 [15]) == flit 0x01 0x400000 [15] && s.inOrder (flit 0x02 0x400000 []) &&
    writeParts (flit 0x02 0x400000 []) == [(0x400000, List.replicate 64 0)] &&
    writeParts { flit 0x02 0x400000 [] with sect := 2 } == [(0x400020, List.replicate 32 0)]) = true := by
  decide +kernel

/-- An ATOMIC on HBM4 and on host memory, an ADD_TO_LINE, a WRITE_HOME flit before its last and the last, and a SIGNAL. -/
theorem witness_atomics_and_contributions :
    let s := running 0
    let r := withRegion s
    let add := flit 0x05 0x200000 [0, 4]
    (!bit (byteAt (flit 0x06 0x200000 [3, 0, 1]).payload 2) 1 && bit (byteAt (flit 0x06 0x200000 [3, 0, 3]).payload 2) 1 &&
    (match atomReq? [0, 4, 0, 124] 0x400000 with
     | some a => a.pa == 0x40007C && hostAtom a.op && !s.inRegion 3 a.pa
     | none => false) &&
    (match r.regionMap? 3 0x200004 with
     | some m => m.region == some 0x108000 && (match m.reduction with
       | some x => x.op.code == byteAt add.payload 0 && 0x200004 % x.op.size == 0
       | none => false)
     | none => false) &&
    (((s.takeFlit (flit 0x07 0 [])).travel (flit 0x07 0 []) 0 3).lod 3).state == .active) = true := by
  decide +kernel

/-- A response on its way for the access number 5 of thread 0 of block 0. -/
def answered (kind : TxnKind) (f : Flit) : State :=
  let s := opened kind 0x400000 (resident (fun _ t => t) [] (running 0))
  { s with fab := { s.fab with nextTxn := 6, resp := [f] } }

/-- An atomic of 4 bytes that a thread has open. -/
def openAtomic : AtomTxn := { dst := 1, size := 4, op := .add, order := .relaxed, src := 1, cmp := 0, bad := false }

/-- A DATA, an ACK, a RESULT and a FAULT that answer an access, of a block that runs and of one that has ended, and one that answers none. -/
theorem witness_responses :
    let got := fun (kind : TxnKind) (f : Flit) =>
      (answered kind f).mayDeliver f && (match (answered kind f).coreTxn? f with | some x => x.kind == kind && x.cmd == none | none => false)
    let late := fun (kind : TxnKind) (f : Flit) =>
      let s := answered kind f
      let s : State := { s with blocks := [], fab := { s.fab with txns := s.fab.txns.map (fun (x : Txn) => { x with cmd := some 0 }) } }
      s.mayDeliver f && (match s.coreTxn? f with | some x => x.kind == kind && x.cmd == some 0 | none => false)
    (got (.load 0 0 0 1 4) (flit 0x10 0 []) && bit (flit 0x10 0 []).sect 0 && got (.store 0 0 0 4 7 false) (flit 0x11 0 []) &&
    late (.store 0 0 0 4 7 false) (flit 0x11 0 []) && got (.atomic 0 0 0 openAtomic) (flit 0x12 0 []) &&
    late (.atomic 0 0 0 openAtomic) (flit 0x12 0 []) && got (.load 0 0 0 1 4) (flit 0x13 0 [0x01, 0x03]) &&
    field (flit 0x13 0 [0x01, 0x03]).payload 0 2 == 0x0301 &&
    (let s := answered (.load 0 0 0 1 4) (flit 0x13 0 [])
     (((s.takeResp (flit 0x13 0 [])).dropTxn 5).block? 0).isSome) &&
    [0x10, 0x11, 0x12, 0x13].all (fun op =>
      let f := { flit op 0 [] with tag := 6 }
      (answered (.load 0 0 0 1 4) f).mayDeliver f && ((answered (.load 0 0 0 1 4) f).coreTxn? f).isNone)) = true := by
  decide +kernel

/-- Credits to return, an operation that no flit has, a flit in a replay buffer, and the last link. -/
theorem witness_credits_and_links :
    let s : State := { running 0 with fab := { (running 0).fab with owed := [(bufKey 0 1 7, 9)], reverse := [(0, 4992)] }, d2d := [(7, { D2d.reset with replay := [4] })] }
    (s.fab.owed.get (bufKey 0 1 7) 0 == 9 && s.since (s.fab.reverse.get 0 0) == 8 && (s.emitCredits 0 1 7 9 9).2 == 2 && s.hasCredit (flit 0x3F 0 []) &&
    !([0, 1, 2, 3, 4, 5, 6, 7, 0x10, 0x11, 0x12, 0x13, 0x20, 0x21].contains 0x3F) &&
    (s.d2d.get 7 D2d.reset).up && (s.d2d.get 7 D2d.reset).replay.contains 4) = true := by
  decide +kernel

/-- The last lane of a column link, and a machine in which it holds x. -/
def lane3 : Lane := { link := .column, idx := 255, up := true, lane := 3 }
/-- The machine. -/
def laneIn (x : LaneSt) : State := (running 0).modLane lane3 (fun _ => x)
/-- A line that was sent at cycle 10 and replayed n times. -/
def sentLine (n : Nat) : SentLine := { tag := 1023, cycle := 10, tries := n }

/-- First halves and second halves, at 64 and at 65 cycles, with and without an entry; a lane that awaits a replay; a line to
acknowledge, and one to replay; a suspect lane. -/
theorem witness_lanes :
    let x := LaneSt.reset
    ((laneIn x).laneFor lane3 384 == some 3 && x.awaiting == none && !x.duplicate 0 &&
    (((laneIn x).modLane lane3 (fun y => y.noteSent 0 10)).laneAt lane3).pairing == none &&
    (((laneIn x).modLane lane3 (fun y => y.noteSent 0 10)).laneAt lane3).delivered == 0 &&
    ((laneIn { x with pairing := some (0, 10) }).laneAt lane3).pairing == some (0, 10) && decide (74 - 10 ≤ 64 ∧ 64 < 75 - 10 ∧ 10 + 64 < 75) &&
    ((laneIn { x with awaiting := some 1 }).laneAt lane3).awaiting == some 1 &&
    ((laneIn { x with replay := [sentLine 0] }).laneAt lane3).replay.any (fun e => e.tag == 1023) &&
    ((laneIn { x with replay := [sentLine 0] }).laneAt lane3).replay.find? (fun e => decide (138 ≥ e.cycle + 128)) == some (sentLine 0) &&
    ((laneIn { x with replay := [sentLine 3] }).laneAt lane3).replay.any (fun e => decide (e.tries ≥ 3))) = true := by
  decide +kernel

/-- A machine with one takeover waiting or begun. -/
def takeoverOf (kind : TakeKind) (place bank row : Nat) (started : Option Nat) (s : State) : State :=
  let t : Takeover := { kind := kind, stack := place / 64, place := place, bank := bank, row := row, asked := 0, started := started }
  { s with rel := { s.rel with queue := [t] } }

/-- The spare vias of column 255 waiting for its quiesce, and a quiesce of 200 µs. -/
theorem witness_quiesce :
    let s := takeoverOf .via 255 0 0 none (running 0)
    let q : State := { s with now := 205000, vch := { s.vch with bundles := [(255, { Bundle.reset with quiescedAt := some 5000 })] } }
    ((s.startable .via 255 0 0).isSome && (columnLanes 255).all (fun l => (s.laneAt l).replay.isEmpty) &&
    (columnsOf (clusterOf 255)).all (fun c => (s.bundle c).quiescedAt == none) &&
    (q.bundle 255).quiescedAt == some 5000 && decide (200000 ≤ q.since 5000)) = true := by
  decide +kernel

/-- A read that HBM4 delivers, and one that it does not yet; a lane to mark and a second one; walks in a pass; relief and drains. -/
theorem witness_maintenance :
    let s := running 0
    let col := homeColumn 0x400000
    let q : QReq := { id := 0, res := siteOf col, lod := 3, cls := 0, input := 0, since := 0, aged := false,
                      line := 0x400000 / 32, urgency := 0 }
    let r : State := { s with qos := { s.qos with queue := [q] } }
    let u := r.grantReq q
    let u : State := { u with qos := { u.qos with queue := u.qos.queue.filter (fun (x : QReq) =>
      !(x.line == q.line && x.lod == q.lod && x.res == q.res)) } }
    let walk := fun (s : State) => s.modChannel col (fun c => { c with scrubAt := some 0, scrubHours := 24 })
    let sector := 0x400000 / 32 + 1
    (s.rel.mode != 2 && r.nextGrant (siteOf col) == some q && !(r.channel col).repairing && (r.bundle col).quiescedAt == none && r.fab.held.isEmpty &&
    (u.readSector q.lod q.line (0, 2 ^ 16 * q.cls)).1.fab.held.isEmpty &&
    (let m := s.modChannel 255 (fun c => { c with streak := 16, streakLane := 5 })
     decide (16 ≤ (m.channel 255).streak) && !(m.channel 255).failed && !(m.channel 255).retired && !(m.channel 255).marked) &&
    (let m := s.modChannel 255 (fun c => { c with streak := 16, streakLane := 5, marked := true, lane := 4 })
     (m.channel 255).marked && (m.channel 255).streakLane != (m.channel 255).lane) &&
    !newPass ((walk s).channel col).scrubAt (channelAddr (32 * sector) / 32) && ((walk s).channel col).scrubHours != 0 &&
    !(walk s).pageValid (32 * sector) &&
    (let v : State := { walk s with hbm := { (walk s).hbm with valid := [1024] } }
     v.pageValid (32 * sector) && !v.heldDirty sector) &&
    (let w := s.modSlice 255 (fun x => { x with scrubAt := some (2 ^ 60), scrubMinutes := 60 })
     (w.sliceAt 255).scrubMinutes != 0 && !newPass (w.sliceAt 255).scrubAt (2 ^ 60 + 8191) &&
       (((w.modSlice 255 (fun x => { x with scrubAt := some (2 ^ 60 + 8191) })).flipWord (bitmapKey 255 8191) 0).stn.wordErrs.get
         (bitmapKey 255 8191) (0, 0)) == (0, 0)) &&
    (let w : State := { s with thm := { s.thm with reliefWanted := [255], endWanted := [254] } }
     w.thm.reliefWanted.head? == some 255 && !w.reliefRefused 255 && w.thm.endWanted.contains 254) &&
    ((s.drain 255 255).linesOf 255 255).isEmpty && ((s.drain (partnerOf 255) 255).linesOf (partnerOf 255) 255).isEmpty) = true := by
  decide +kernel

/-- A machine whose port 11 is p. -/
def portIn (p : CytilPort) : State := (running 0).modPort 11 (fun _ => p)
/-- A port that is up with a transfer of one flit sent at 1 µs. -/
def portUp : CytilPort :=
  let x : SentXfer := { seq := 4095, flits := 1, tries := 0, sentAt := 1000, dst := 2, op := 1, addr := 0, tag := 0, bytes := [],
                        poison := false, txn := none, head := { src := 0, domainTag := 0, qclass := 0, layer := 0, oper := 0 }, req := 0, aged := false }
  { CytilPort.reset with upEn := true, up := true, replay := [x] }
/-- A header of type 0, sequence 0, no data flit, with its CRC. -/
def header : List Byte :=
  let h := List.replicate 60 0
  h ++ leBytes 4 (crc32 h) ++ List.replicate 192 0

/-- A transfer that passes and one that fails its checks; a transfer to replay at a NAK and at 2 µs; a port to bring up, in the clear
and encrypted. -/
theorem witness_cytil :
    let s := portIn portUp
    let plain := { CytilPort.reset with upEn := true }
    let up := fun (p : CytilPort) => let t := portIn p
        (t.port 11).upEn && !(t.port 11).up && t.brd.linkRefclk && t.rel.mode != 2 && (t.domain (40 + 11 / 3)).state == .on
    ((s.port 11).up && badFlit header [] true false == none && badFlit header [] true true == none && (headerOf header).type == 0 && (headerOf header).seq == (s.port 11).rxSeq &&
    badFlit (List.replicate 256 0) [] true false == some 0 && !(s.port 11).discarding &&
    (s.port 11).replay.any (fun e => decide ((4095 + 4096 - e.seq) % 4096 < e.flits)) &&
    (s.port 11).replay.any (fun e => decide (2000 ≤ s.since e.sentAt)) &&
    (let again := fun (n : Nat) =>
      let w := portIn { portUp with replay := portUp.replay.map (fun (e : SentXfer) => { e with tries := n }) }
      (replayXfers (fun (e : SentXfer) => decide (2000 ≤ w.since e.sentAt)) w.now (w.port 11).replay).any (fun e => decide (16 ≤ e.tries))
     !again 14 && again 15) && decide (s.since 1000 ≥ 2000) && !bit (s.port 11).laneFailed 7 &&
    up plain && up { plain with encrypt := true }) = true := by
  decide +kernel

/-- A time base that is held, before and after the master's; a domain that is enabled, with every galley disabled; a port that is up. -/
theorem witness_cytil_time :
    let s := running 0
    let off : State := { s with lods := [] }
    let u : State := { off with cyl := { off.cyl with enable := true, timeMaster := false, device := 5 } }
    ((portIn portUp).port 11 == portUp && !ahead s.now 5000 && ahead 5001 s.now && ahead s.now 4999 && !ahead 4999 s.now &&
    (2 ^ 31 + 5) / 2 ^ 31 % 2 == 1 && (2 ^ 31 + 5) / 2 ^ 30 % 2 == 0 && !off.cyl.enable && u.allDisabled) = true := by
  decide +kernel

/-! ### DMA, porters, regulation and registers -/

/-- Channel 29 of stack 3 as given. -/
def channelIn (c : DmaCh) : State := (running 0).modChan (32 * 3 + 29) (fun _ => c)
/-- A run of 65 bytes. -/
def dmaSet : DmaSet := { DmaSet.reset with src := 0x400000, dst := 0x410000, count := 65 }
/-- A run with 65 bytes left. -/
def dmaRun : DmaCh := { DmaCh.reset with act := dmaSet, running := true, remain := 65 }

/-- The last channel of the PF: idle with a valid and an invalid set, running, with a shadow set to load; a timer at its phase. -/
theorem witness_dma_starts :
    let s := channelIn { DmaCh.reset with act := dmaSet }
    let w : State := s.modDmaRegs 0 (fun r => { r with period := [(0, 1000)], phase := [(0, 0)] })
    (!(s.chan 125).running && !(s.chan 125).act.invalid 3 && (s.chan 125).act.cls == 0 && !(s.chan 125).halted &&
    (s.chan 125).act.count != 0 && ({ dmaSet with burstLog := 7 }).invalid 3 && dmaRun.running && !DmaCh.reset.shadowArmed &&
    (w.dmaRegs 0).period.get 0 0 != 0 && w.now % (w.dmaRegs 0).period.get 0 0 == (w.dmaRegs 0).phase.get 0 0 && !w.holding) = true := by
  decide +kernel

/-- A burst in progress, one to start, a run at its end with each thing that may follow, a timeout, and a backoff that is over. -/
theorem witness_dma_bursts :
    let burst : Burst := { bytes := 65, readDone := false, sent := 0, writesIssued := false }
    let late : State := { opened (.dma 125 true) 0x400000 (channelIn { dmaRun with burst := some burst }) with now := 105000 }
    let ended := { dmaRun with remain := 0 }
    (((channelIn { dmaRun with burst := some burst }).chan 125).burst.isSome && dmaRun.ready && (channelIn dmaRun).engineNext 125 == some 125 &&
    ended.running && ended.burst == none && ended.cmd == none && ({ ended with shadowArmed := true }).shadowArmed &&
    ({ ended with triggerPending := true }).triggerPending && (late.chan 125).burst == some burst && (late.chan 125).running &&
    late.fab.txns.any (fun x => x.kind == .dma 125 true && decide (100000 ≤ late.since x.issued)) &&
    (let r := channelIn { dmaRun with retryAt := some 4999 }
     (r.chan 125).retryAt == some 4999 && (r.chan 125).running && decide (elapsed 4999 r.now < 2 ^ 47))) = true := by
  decide +kernel

/-- A round with a command of class 7 left, and one with none; scrub walks in a pass and past its end, with a period and with 0. -/
theorem witness_rounds_and_passes :
    let p := { Porter.reset with left := List.replicate 8 1, nextWeights := List.replicate 8 2 }
    let rung := fun c => c == 7
    let spent := { p with left := List.replicate 8 0 }
    let s := running 0
    let col := homeColumn 0
    let walked := s.modChannel col (fun c => { c with scrubAt := some 1 })
    let still : State := s.modHbmRegs (stackOf col) (fun r => { r with scrubHours := 0 })
    ((p.nextClass rung rung).isSome && rung 7 && decide (0 < p.left.getD 7 0) && (spent.nextClass rung rung).isSome &&
    spent.left.getD 7 0 == 0 && s.rel.mode != 2 &&
    168 % 2 ^ 8 == 168 && decide (168 < 169 % 2 ^ 8) && decide (10080 < 10081 % 2 ^ 16) &&
    newPass (s.channel col).scrubAt (channelAddr 0 / 32) && (s.hbmRegs (stackOf col)).scrubHours == 24 &&
    (still.hbmRegs (stackOf col)).scrubHours == 0 && !newPass (walked.channel col).scrubAt (channelAddr 64 / 32) &&
    newPass (s.sliceAt 255).scrubAt (2 ^ 60 + 8191) && (s.stnRegs (stackOf 255)).scrubMinutes == 60 &&
    (let w := s.modSlice 255 (fun x => { x with scrubAt := some (2 ^ 60) })
     !newPass (w.sliceAt 255).scrubAt (2 ^ 60 + 8191))) = true := by
  decide +kernel

/-- A window boundary; values at both ends of the ranges of the registers. -/
theorem witness_register_values :
    let s := running 0
    (s.now % 1000 == 0 && s.now != s.qos.windowStart && decide (1024 < 1025 * 2 ^ 8 / 2 ^ 8 % 2 ^ 11) &&
    decide (1024 * 2 ^ 8 / 2 ^ 8 % 2 ^ 11 ≤ 1024) && decide (99 % 2 ^ 16 < 100 ∧ 100 ≤ 100 % 2 ^ 16) &&
    (after (.mxaProofTolWrite 3 8) s).mxaTol.get 3 24 == 8 && (after (.mxaProofTolWrite 3 40) s).mxaTol.get 3 24 == 40 &&
    after (.mxaProofTolWrite 3 7) s == s && after (.mxaProofTolWrite 3 41) s == s &&
    (after (.pwrLimitWrite false 400) s).pwr.limit == 400 && after (.pwrLimitWrite false 399) s == s && after (.pwrLimitWrite false 851) s == s &&
    bit (2 ^ 30) 30 && !bit 425 30 && !s.fresh.contains .brakeEvent && (s.setNow .brakeEvent).fresh.contains .brakeEvent && (after (.thmReliefWrite false (63 + 70 * 2 ^ 8)) s).thm.nextStop == 63 &&
    (after (.thmReliefWrite false (67 + 70 * 2 ^ 8)) s).thm.nextStop == 67 && after (.thmReliefWrite false (68 + 70 * 2 ^ 8)) s == s &&
    after (.lampCtrlWrite 0 1001) s == s && ((after (.lampCtrlWrite 0 1000) s).lamp 0).onUs == 1000) = true := by
  decide +kernel

/-- Levels 0 to 3 of the unlock, a ledger at a level granted, and configuration before and after readiness. -/
theorem witness_debug :
    let s := running 0
    let g : State := { s with unlock := { s.unlock with granted := 1 } }
    (!bit 3 31 && bit (2 ^ 31 + 3) 31 && (2 ^ 31 + 3) % 2 ^ 2 == 3 && g.unlock.granted != 0 && 927 % 2 ^ 12 == 927 && s.unlock.granted == 0 &&
    !State.reset.brd.ready && s.brd.ready && s.configWord (.vf 255) 0 == (0x09411D7A, 2 ^ 32 - 1) && (s.configWord .pf 4).2 != 2 ^ 32 - 1 &&
    State.reset.lods.all (fun e => e.2.state == .absent)) = true := by
  decide +kernel

/-- A grant of level 1 or 2 where the signature over the nonce is good. Whether it is, is a free value (Config.debugSignatureOk): the
other premises hold together whatever it is. -/
theorem witness_unlock_granted
    (h : Config.debugSignatureOk (State.reset.unlock.message 2) State.reset.unlock.response = true) :
    bit (2 ^ 31 + 2) 31 = true ∧ (2 ^ 31 + 2) % 2 ^ 2 = 2 ∧ (∀ e ∈ State.reset.lods, e.2.state = .absent) ∧
    State.reset.unlock.locked = false ∧
    Config.debugSignatureOk (State.reset.unlock.message 2) State.reset.unlock.response = true :=
  ⟨by decide, by decide, by decide, by decide, h⟩

/-- Lodgings 3 and 4, a launch of each running, share cluster 31, its turn as given. -/
def sharing (both : Bool) (t : Turn) : State :=
  let s := launched 0 (running 0)
  let l : Lodging := { lodging3 0 with contract := some { contract3 with dedicated := 0, shared := 2 ^ 31 } }
  { s with
    lods := if both then [(3, l), (4, l)] else [(3, l)], turns := [(31, t)],
    cmds := s.cmds ++ s.cmds.map (fun c => { c with id := 1, lod := 4 }),
    launches := s.launches ++ s.launches.map (fun y => { y with cmd := 1, lod := 4 }) }

/-- A free cluster and one whose quantum has passed, with one lodging that wants it and with two; a request that has waited 4 µs; floors
missed and met in 1,000 windows; a level 6 breach of 1 ms. -/
theorem witness_regulation :
    let wants := fun (s : State) => (s.sharers 31).filter (fun x => s.wantsTurn x.1)
    let held : Turn := { Turn.reset with lod := some 3, quantum := 5 }
    let q : QReq := { id := 9, res := 0, lod := 3, cls := 0, input := 0, since := 1000, aged := false, line := 0, urgency := 0 }
    let breach : State := { (running 0).modLod 3 (fun l => { l with breaches := [(6, 6)], lastLate := 5000 }) with now := 1005000 }
    let flow := fun (f : Flow) => ({ (running 0).qos with flows := [((0 * 257 + 3) * 8 + 7, f)] } : Qos).flow 0 3 7
    (wants (sharing false Turn.reset) == [(3, 1)] && (sharing false Turn.reset).turnHolder 31 == none &&
    wants (sharing true held) == [(3, 1), (4, 1)] && (sharing true held).turnHolder 31 == some 3 &&
    decide (1000 * held.quantum ≤ (sharing true held).since held.since) && (nextTurn held.credit (wants (sharing true held))).isSome &&
    !q.aged && decide (4000 ≤ (running 0).since q.since) &&
    portUp.replay.any (fun x => x.req == 0 && !x.aged && decide (4000 ≤ (running 0).since x.sentAt)) &&
    (flow { Flow.reset with missedWindows := 1000 }).missedWindows == 1000 && (flow { Flow.reset with metWindows := 1000 }).metWindows == 1000 &&
    (breach.lod 3).breaches.contains (6, 6) && decide (1000000 ≤ breach.since (breach.lod 3).lastLate)) = true := by
  decide +kernel

/-! ### Power, heat, spares, the Innkeeper, the board -/

/-- A machine with domain d as given. -/
def domainIn (d : Nat) (f : Domain → Domain) : State := (running 0).modDomain d f

/-- A wake that is admitted, a ramp of 20 µs, an idle cluster, overcurrents in RAMP and in ON with two before it, a retry that is due, a
phase that fails with a spare and without. -/
theorem witness_domains :
    let s := domainIn 48 (fun x => { x with state := .off })
    let wake : State := { s with pwr := { s.pwr with wakeQueue := [48] } }
    let ramp : State := { domainIn 48 (fun x => { x with state := .ramp, rampStart := 5000 }) with now := 25000 }
    let idle : State := { running 0 with now := 55000 }
    (wake.nextWake == some 48 && wake.wakeAdmitted (declaredStep 48) && (ramp.domain 48).state == .ramp && decide (20000 ≤ ramp.since 5000) &&
    (idle.domain 31).state == .on && idle.pwr.idleGateUs != 0 && !idle.clusterBusy 31 &&
    idle.expired (idle.domain 31).busyAt (1000 * idle.pwr.idleGateUs) && ((domainIn 48 (fun x => { x with fails := 2 })).domain 48).fails == 2 &&
    (let r := domainIn 48 (fun x => { x with state := .off, retryAt := some 5000 })
     (r.domain 48).state == .off && (r.domain 48).retryAt == some 5000 && r.passed (some 5000)) &&
    ((running 0).domain 48).phasesOk == 3 && Domain.phases 48 == 1 &&
    !((running 0).domain 48).cracked) = true := by
  decide +kernel

/-- 64 load steps of 5 A with a droop of 7 A times the fused impedance, whatever that is. -/
theorem witness_load_steps :
    let steps := List.replicate 64 (5, 7 * Config.impedance 48)
    ((steps.filter (fun (x : Nat × Nat) => decide (x.1 ≥ 5))).take 64).length = 64 ∧
      48 ≤ ((steps.filter (fun (x : Nat × Nat) => decide (x.1 ≥ 5))).take 64).countP (excessDroop 48) := by
  have h : excessDroop 48 (5, 7 * Config.impedance 48) = true := by simp [excessDroop]; omega
  simp [h]

/-- The limiter before and after readiness, and the brake with a sample and before readiness. -/
theorem witness_limiter :
    let s := running 0
    let b : State := { s with pwr := { s.pwr with samples := [850000] } }
    (State.reset.pwr.frac == 0 && s.pwr.frac != 0 && !s.brd.dead && !b.pwr.brakeAsserted && decide (3 ≤ b.brd.startStep) &&
    b.pwr.samples == [850000]) = true := by
  decide +kernel

/-- A round that is due, THERM_N after 100 cool rounds, a sensor found broken, and a trip that is due. -/
theorem witness_thermal :
    let s : State := { running 0 with ink := { (running 0).ink with roundDue := 5000 } }
    let cool : State := { s with thm := { s.thm with therm := true, coolRounds := 100, broken := [159], tripDue := true } }
    (s.ink.firmwareRuns && s.ink.failoverAt == none && s.passed (some s.ink.roundDue) && decide (1 ≤ s.brd.startStep) && cool.thm.therm &&
    decide (100 ≤ cool.thm.coolRounds) && !cool.thm.tripped && cool.thm.broken.contains 159 && !cool.thm.reported.contains 159 &&
    cool.thm.tripDue) = true := by
  decide +kernel

/-- A takeover of each kind that may start, and that runs; a rescue that is due. -/
theorem witness_takeovers :
    let s := running 0
    let late := fun (k : TakeKind) => ({ takeoverOf k 255 0 0 (some 5000) s with now := 37768 } : State)
    let due : State := { s with rel := { s.rel with rescueDue := some 4 } }
    (((takeoverOf .core 255 0 0 none s).startable .core 255 0 0).isSome && ((takeoverOf .row 255 3 4095 none s).startable .row 255 3 4095).isSome &&
    ((takeoverOf .bank 255 3 0 none s).startable .bank 255 3 0).isSome && ((takeoverOf .hbmLane 255 0 0 none s).startable .hbmLane 255 0 0).isSome &&
    [TakeKind.core, .row, .bank, .hbmLane].all (fun k => match (late k).running 3 with
      | some t => t.kind == k && decide (32768 ≤ (late k).since (t.started.getD 0))
      | none => false) &&
    (let p := takeoverOf .phase 255 0 0 none s
     (p.running 3).isNone && (p.nextTakeover 3).isSome && p.takeoversOpen) && due.rel.rescueDue == some 4) = true := by
  decide +kernel

/-- Pairs left, a failover, the intervals, 5 ms late, ten rounds on time, a fuse to blow, an entry to write, a transport that is up. -/
theorem witness_innkeeper :
    let s := running 0
    let now : State := { s with now := 20000000 }
    let ink := { s.ink with failoverAt := some 4000, supervisorHold := true, onTime := 10, bootSvn := 1, repairWaiting := [(1, 2)] }
    let done : State := { s with ink := ink, thm := { s.thm with rounds := 1 } }
    let one : State := { s with ink := { s.ink with pairsLeft := 1 } }
    let idle : State := { now with ink := { now.ink with roundDue := 10 ^ 8 } }
    let busy : State := { s with ink := { s.ink with roundDue := 5000 } }
    (one.ink.pairsLeft == 1 && s.ink.pairsLeft == 2 && done.ink.failoverAt.isSome && decide (1000000 ≤ now.since now.ink.checkpointAt) &&
    !idle.telemetryWaits && decide (telemetryInterval idle.ink.shedLevel ≤ idle.since idle.ink.snapshotAt) && !s.higherDuty && busy.higherDuty &&
    s.ink.replies.isEmpty && s.ink.pldmWaiting.isEmpty && !s.romWaits && !now.ink.supervisorHold &&
    decide (5000000 < now.policyLateness) && done.ink.supervisorHold && decide (10 ≤ done.ink.onTime) &&
    decide (done.ink.fusedSvn < done.ink.bootSvn) && done.thm.rounds != 0 && done.dieOutside == none && !done.ink.repairWaiting.isEmpty &&
    s.transportUp 1 && (after (.shedWindow 901) s).ink.shedLevel == 1 && (after (.shedWindow 900) s).ink.shedLevel == 0) = true := by
  decide +kernel

/-- A trace region, a counter at its period, a read and an AtomicOp of host memory. -/
theorem witness_trace_and_host :
    let s := running 0
    let cfg := { PmcCfg.reset with en := true, lodgingEn := true, lodging := 3 }
    let p : State := { s with dbg := { s.dbg with pmcPeriod := 5, pmcCfg := [(2047, cfg)] } }
    let h := fun (k : TxnKind) => answered k (flit 0x10 0 [])
    ((s.traceRegion 3).isSome && p.now % (1000 * p.dbg.pmcPeriod) == 0 && p.dbg.pmcCfg.get 2047 PmcCfg.reset == cfg &&
    !p.dbg.pmcSampled.any (fun e => e.1 == 2047 && e.2 == p.now) && (p.traceRegion cfg.lodging).isSome &&
    (let t : State := { h (.load 0 0 0 1 4) with fab := { (h (.load 0 0 0 1 4)).fab with txns :=
      [{ id := 5, lod := 3, addr := 2 ^ 51 + 0x108000, issued := 0, kind := .load 0 0 0 1 4, got := [], cmd := none, mark := 0 }] } }
     match t.txn? 5 with | some x => placeOf x.addr == .host | none => false) &&
    (let d := s.modLod 3 (fun l => { l with trace := [(0, { TraceWriter.reset with sinceDrop := 2 })] })
     ((d.lod 3).writer 0).sinceDrop == 2 && ((s.lod 3).writer 0).sinceDrop == 0) &&
    (match (h (.hostAtomic 0 0 0 openAtomic)).txn? 5 with | some x => x.kind == .hostAtomic 0 0 0 openAtomic && !openAtomic.bad | none => false)) = true := by
  decide +kernel

/-- Start-up at each of its steps, its rails, the pins, a link that may come up, readiness, and a lamp's period of 20 µs. -/
theorem witness_board :
    let s := running 0
    let up : State := { s with brd := { s.brd with starting := true, perst := false, linkUp := true, ready := false } }
    let lamp : State := { s with brd := { s.brd with lamps := [(1, { Lamp.reset with override := true, onUs := 20, current := 20, failing := 2 })] } }
    (State.reset.brd.starting && !State.reset.brd.sysRstLow && !State.reset.brd.dead && State.reset.brd.startStep == 0 &&
    State.reset.brd.perst && State.reset.brd.refclk && (State.reset.bootChoice true false) == some 0 && (State.reset.bootChoice false false) == none &&
    s.softStarted && (s.domain 48).state == .on && !up.brd.perst && !up.brd.refclkPerst && up.brd.startStep == 8 && up.brd.linkUp &&
    !up.brd.ready && decide (20 ≤ lamp.lampOnTime 1) && decide (s.lampOnTime 0 < 20) && decide (2 ≤ (lamp.lamp 1).failing) && !(lamp.lamp 1).isOpen &&
    (lamp.lamp 1).current != 0) = true := by
  decide +kernel

/-! ### Well-formed and ill-formed commands -/

/-- An error of an attention pass on an array. -/
def errOn (array : Nat) : AttnErr :=
  { array := array, chunk := 0, pass := 0, retry := true, err := { blk := 0, m := 0, n := 0, mant := 1, exp := 20 } }

/-- One command on each side of each check. -/
theorem test_wf_ranges :
    (Instr.wf (.nop 255 1023) && !Instr.wf (.nop 256 0) && !Instr.wf (.gemm 0 1024) &&
    Instr.wf (.galleyDoorbell 255 0x1FFF 8 0 false) && !Instr.wf (.galleyDoorbell 0 0x2000 8 0 false) &&
    Instr.wf (.gdtBaseWrite 0 (2 ^ 64 - 1) false) && !Instr.wf (.gdtBaseWrite 0 (2 ^ 64) false) &&
    Instr.wf (.signalAreaWrite 0 0xFFFF 8 0 false) && !Instr.wf (.signalAreaWrite 0 0x7FFF 8 0 false) &&
    Instr.wf (.mbxCmdWrite (.vf 255) 0x213F [0] false) && !Instr.wf (.mbxCmdWrite (.vf 256) 0x2100 [0] false) &&
    !Instr.wf (.mbxCmdWrite .pf 0x213F [0, 0] false) && Instr.wf (.bistRun .pf [287]) && !Instr.wf (.bistRun .pf [288]) &&
    Instr.wf (.blockPlacement 0 255) && !Instr.wf (.blockPlacement 0 256) &&
    Instr.wf (.instructionFetch 0 0 (2 ^ 57 - 1) .taken .data) && !Instr.wf (.instructionFetch 0 0 (2 ^ 57) (.predicted true) .data) &&
    Instr.wf (.coreLoad 0 31 0 (accessOf 16 true)) && !Instr.wf (.coreLoad 0 32 0 (accessOf 16 true)) &&
    !Instr.wf (.coreLoad 0 0 0 (accessOf 3 true)) && Instr.wf (.feederWait 0 0 15 0 0 false) && !Instr.wf (.feederWait 0 0 16 0 0 false) && Instr.wf (.arrayPass 0 3 [] .data) &&
    !Instr.wf (.arrayPass 0 4 [] .data) && Instr.wf (.attentionKeyBlock 0 [errOn 3] .data) &&
    !Instr.wf (.attentionKeyBlock 0 [errOn 4] .data)) = true := by
  decide +kernel

/-- The same for the fabric, the links and the registers. -/
theorem test_wf_ranges_of_links_and_registers :
    (Instr.wf (.read (flit 0x01 0 [])) && !Instr.wf (.read (flit 0x02 0 [])) && !Instr.wf (.read (flit 0x01 (2 ^ 62) [])) &&
    Instr.wf (.flitUnusedOp (flit 0x3F 0 [])) && !Instr.wf (.flitUnusedOp (flit 0x13 0 [])) && Instr.wf (.creditReturnTimer 0 1 7) &&
    !Instr.wf (.creditReturnTimer 0 2 0) && Instr.wf (.lineBurst lane3 384 1 1023 0) && !Instr.wf (.lineBurst lane3 384 2 0 0) &&
    !Instr.wf (.lineBurst { lane3 with lane := 4 } 0 0 0 0) && !Instr.wf (.lineBurst { lane3 with link := .footing } 0 0 0 0) &&
    Instr.wf (.hbmReadComplete 0 3 []) && !Instr.wf (.hbmReadComplete 0 4 []) && Instr.wf (.d2dLinkFail 7) && !Instr.wf (.d2dLinkFail 8) &&
    Instr.wf (.cytilNak 11 4095) && !Instr.wf (.cytilNak 12 0) && !Instr.wf (.cytilNak 0 4096) && Instr.wf (.cytilLaneFail 0 8 true) &&
    !Instr.wf (.cytilLaneFail 0 9 true) && Instr.wf (.timeSync 0 (2 ^ 48 - 1) 0) && !Instr.wf (.timeSync 0 (2 ^ 48) 0) &&
    Instr.wf (.dmaGo 3 31) && !Instr.wf (.dmaGo 3 32) && !Instr.wf (.dmaGo 4 0) && Instr.wf (.dmaSwqAdj 3 7 (2 ^ 32 - 1)) &&
    !Instr.wf (.dmaSwqAdj 3 8 0) && !Instr.wf (.dmaSwqAdj 3 0 (2 ^ 32)) && Instr.wf (.inkPmcCfgWrite 2047 0) &&
    !Instr.wf (.inkPmcCfgWrite 2048 0) && Instr.wf (.registerWrite .pf 0 8 (2 ^ 64 - 1) false) && !Instr.wf (.registerWrite .pf 0 3 0 false) &&
    Instr.wf (.turnEnd 31) && !Instr.wf (.turnEnd 32) && Instr.wf (.domainWake 49) && !Instr.wf (.domainWake 50) &&
    Instr.wf (.sensorBroken 159) && !Instr.wf (.sensorBroken 160) && Instr.wf (.lampOpen 3) && !Instr.wf (.lampOpen 4)) = true := by
  decide +kernel

/-! ### The spec's worked examples -/

/-- 01: column 43 of stack 2 is global column 171; its core 192, site 5, cluster 21, spare 197. -/
theorem test_column_171 :
    State.reset.physCore 171 = 192 ∧ siteOf 171 = 5 ∧ clusterOf 171 = 21 ∧ stackOf 171 = 2 ∧ spareOf 171 = 197 := by
  decide +kernel

/-- 08: PA 0x2B_4C1D_C000 is homed at slice 43 of stack 2, with channel_addr 0x2B4C_1000. -/
theorem test_home_of_an_address : homeColumn 0x2B4C1DC000 = 171 ∧ channelAddr 0x2B4C1DC000 = 0x2B4C1000 := by
  decide +kernel

/-- 05: a BF16 pass of the products 2^20, 2^-40 and -2^20 gives +0. -/
theorem test_pass_loses_a_small_term : passWindow [Val.ofInt 1 20, Val.ofInt 1 (-40), Val.ofInt (-1) 20] = 0 := by
  decide +kernel

/-- 06: of 46,875 key blocks in 256 splits, split 0 has 183 and split 255 has 184. -/
theorem test_splits_of_a_decode : 1 * 46875 / 256 - 0 = 183 ∧ (255 + 1) * 46875 / 256 - 255 * 46875 / 256 = 184 ∧
    splitBlocks (List.range 10) 3 1 = [3, 4, 5] ∧ splitBlocks (List.range 10) 3 2 = [6, 7, 8, 9] := by
  decide +kernel

/-- 02: a wait from 5,000,340 ns with TIMEOUT_US 100 that expires at the tick of 5,101,000 ns, its signal at 7. -/
theorem test_wait_times_out :
    let s := runs 0x0602 64 [(16, 2, 12), (24, 8, 8), (32, 4, 100)] { running 0 with now := 5000340 }
    let s := { s.modLod 3 (fun l => { l with signals := [(12, 7)] }) with now := 5101004 }
    (after (.signalWaitTimeout 0) s).cmds.map (fun c => (c.status, c.endT, c.work)) = [(0x0400, 5101000, 7)] ∧
    (after (.signalWaitTimeout 0) { s with now := 5100999 }).cmds.map (·.status) = [0] := by
  decide +kernel

/-- 10: HBM_FLIP_MASK_HI 0xAB01_0000 arms channel 43 with pattern 1. -/
theorem test_flip_mask :
    let r := (after (.hbmFlipMaskWrite 2 0xAB010000) State.reset).hbmRegs 2
    r.flipArm = true ∧ r.flipChannel = 43 ∧ r.flipPattern = 1 ∧ r.flipHi = 0 := by
  decide +kernel

/-- 11: the first half of line 8, at cycle 6, finds line 7 without its second half: line 7 is asked for again, the halves of line 8 are
discarded, and the replayed line 7 is delivered. -/
theorem test_swallowed_burst :
    let x := { LaneSt.reset with nextTag := 7, delivered := 7 }
    let s := after (.lineBurst lane3 384 0 7 4) (laneIn x)
    let t := after (.lineBurst lane3 384 0 8 6) s
    let u := after (.lineBurst lane3 384 1 7 16) (after (.lineBurst lane3 384 0 7 15) (after (.lineBurst lane3 384 1 8 7) t))
    (s.laneAt lane3).pairing = some (7, 4) ∧ t.out = [.laneNak (laneKey lane3) 7] ∧ t.vch.orphans = [(3, 1)] ∧
    (u.laneAt lane3).delivered = 8 ∧ u.out = [.laneNak (laneKey lane3) 7, .laneAck (laneKey lane3) 7] := by
  decide +kernel

/-- 15: with PD08 to PD11 ramping, PD12 must wait, and PD45 goes before it. -/
theorem test_wakes :
    let s : State := { running 0 with pwr := { (running 0).pwr with
      domains := (List.range 50).map (fun d => (d, { Domain.reset d with state := if d < 8 then .on else .off })), wakeQueue := [8, 9, 10, 11, 12] } }
    let t := after (.domainWake 11) (after (.domainWake 10) (after (.domainWake 9) (after (.domainWake 8) s)))
    t.ramps = 4 ∧ t.recentSteps = 120 ∧ after (.domainWake 12) t = t ∧ (t.queueWake 45).nextWake = some 45 := by
  decide +kernel

/-- 19: the two newest entries of unit 491: the event at 4,999,611,392 ns crosses into H 0x12A, so its anchor comes before it. -/
theorem test_ledger_entry :
    let s : State := { State.reset with now := 4999611392, dbg := { State.reset.dbg with
      ledgers := [(491, { entries := [0xFFF8004500110203], h := 0x129, base := 0x129 })] } }
    ((s.log 491 0x04 5 0x0011 0x0203).ledger 491).entries = [0x0004004500110203, 0x00040FF00000012A, 0xFFF8004500110203] := by
  decide +kernel

/-- 12: the request of channel 26 stands from a level of 16 KiB on, and falls below 4 KiB. -/
theorem test_pacing :
    let c : DmaCh := { DmaCh.reset with act := { DmaSet.reset with cls := 2, highKib := 16, lowKib := 4, count := 65536 }, running := true, remain := 65536 }
    let s := (running 0).modChan (32 + 26) (fun _ => c)
    ((after (.dmaSwqAdj 1 0 16383) s).chan 58).asserted = false ∧ ((after (.dmaSwqAdj 1 0 16384) s).chan 58).asserted = true ∧
    ((after (.dmaSwqAdj 1 0 (2 ^ 32 - 14336)) (after (.dmaSwqAdj 1 0 16384) s)).chan 58).asserted = false := by
  decide +kernel

/-- 20: a broken lamp of 5 µs is diagnosed in the periods of 20 µs at 1,024 and 1,280 ms, and then OPEN. -/
theorem test_lamp :
    let s : State := { running 0 with now := 1024000000, brd := { (running 0).brd with lamps := [(1, { Lamp.reset with override := true, onUs := 5 })] } }
    let t := after (.lampPeriod 1 0) s
    let u := after (.lampPeriod 1 0) { t with now := 1025000000 }
    let v := after (.lampPeriod 1 0) { u with now := 1280000000 }
    (t.lamp 1).failing = 1 ∧ (u.lamp 1).failing = 1 ∧ (v.lamp 1).failing = 2 ∧ ((after (.lampOpen 1) v).lamp 1).isOpen = true ∧
    ((after (.lampOpen 1) v).lamp 1).openEvent = true := by
  decide +kernel

/-! ### The machine as a whole -/

/-- A sound state in which a command waits. -/
theorem witness_sound : ({ sent 0x0000 [] with pending := [.nop 3 0] } : State).Sound := by
  constructor <;> decide +kernel

/-- A step of it; an empty queue; a command that faults; and a register write at a level of the debug unlock, which is not refused. -/
theorem witness_steps :
    let s : State := { sent 0x0000 [] with pending := [.nop 3 0] }
    let unlocked : State := { running 0 with unlock := { (running 0).unlock with granted := 2 } }
    ((match step s with | .next t => t.pending.isEmpty && !t.cmds.isEmpty | _ => false) && State.reset.pending.isEmpty &&
    (match exec (.read (flit 0x01 (2 ^ 39) [15])) (running 0) with | .fault f => f == .addressHole | _ => false) &&
    (match exec (.registerWrite .pf 0x3FFFFFC 4 0 false) unlocked with | .next _ => true | _ => false)) = true := by
  decide +kernel

end Sys2Proof.Tests
end

/-! ## Settled obligations: GDT_BASE and the admin mailbox (spec 02, R25, R54 to R56, R458) -/

namespace Sys2Proof.Machine

/-! ### What these commands run -/

theorem exec_gdtBaseWrite (s : State) (vf value : Nat) (ep : Bool) :
    exec (.gdtBaseWrite vf value ep) s = execGdtBaseWrite vf value ep s := rfl

theorem exec_mbxCmdWrite (s : State) (fn : Fn) (off : Nat) (bytes : List Byte) (ep : Bool) :
    exec (.mbxCmdWrite fn off bytes ep) s = execMbxCmdWrite fn off bytes ep s := rfl

theorem exec_mbxDoorbell (s : State) (fn : Fn) (ep : Bool) : exec (.mbxDoorbell fn ep) s = execMbxDoorbell fn ep s := rfl

theorem exec_mbxOperationEnd (s : State) (fn : Fn) : exec (.mbxOperationEnd fn) s = execMbxOperationEnd fn s := rfl

/-! ### `GDT_BASE` (R25) -/

/-- Only an ABSENT lodging has no VF_STATUS to count in (R315). -/
theorem State.dropCtrl_of_present {s : State} {l : Nat} (h : (s.lod l).state ≠ .absent) :
    s.dropCtrl l = s.modLod l (fun y => { y with ctrlDrops := min (y.ctrlDrops + 1) 65535 }) :=
  if_neg h

theorem execGdtBaseWrite_of_galley_up {s : State} {vf : Nat} (value : Nat)
    (h : ∃ e ∈ (s.lod vf).galleys, e.2.state ≠ .disabled) :
    execGdtBaseWrite vf value false s = .next (s.dropCtrl vf) := by
  have hup : (s.lod vf).galleys.any (fun e => e.2.state != .disabled) = true := by simpa using h
  simp only [execGdtBaseWrite, Bool.false_eq_true, if_false, if_pos hup]

theorem execGdtBaseWrite_of_all_disabled {s : State} {vf : Nat} (value : Nat)
    (h : ∀ e ∈ (s.lod vf).galleys, e.2.state = .disabled) :
    execGdtBaseWrite vf value false s = .next (s.modLod vf (fun y => { y with gdtBase := bits value 16 41 * 2 ^ 16 })) := by
  have hdown : ¬(s.lod vf).galleys.any (fun e => e.2.state != .disabled) = true := by simpa using h
  simp only [execGdtBaseWrite, Bool.false_eq_true, if_false, if_neg hdown]

/-- Settles O21: a galley that is not DISABLED turns the write into a counted drop, and with none the field of bits 56:16 is
stored. -/
theorem gdtBaseWriteNeedsDisabledGalleys : Obligations.GdtBaseWriteNeedsDisabledGalleys := by
  intro s vf value hpresent
  simp only [exec_gdtBaseWrite]
  constructor
  · intro hup
    rw [execGdtBaseWrite_of_galley_up value hup, State.dropCtrl_of_present hpresent]
  · exact execGdtBaseWrite_of_all_disabled value

/-! ### The mailbox (R54 to R56, R458) -/

/-- The operation that an accepted doorbell starts: the packet of `MBX_CMD`, asked for now. -/
def State.askedOp (s : State) (fn : Fn) : AdminOp :=
  { opcode := field (s.mbx fn).cmd 0 2, packet := (s.mbx fn).cmd, start := 0, endT := 0, status := 0, detail := 0, work := 0,
    decided := false, waiting := false, asked := s.now }

/-- The machine with that operation in the mailbox: `BUSY` set and `REJECTS` clear (R54). -/
def State.rung (s : State) (fn : Fn) : State :=
  s.modMbx fn (fun m => { m with busy := true, rejects := 0, op := some (s.askedOp fn) })

theorem execMbxCmdWrite_of_busy {s : State} {fn : Fn} (off : Nat) (bytes : List Byte) (h : s.mbxBusy fn = true) :
    execMbxCmdWrite fn off bytes false s = .next (s.reject fn) := by
  simp only [execMbxCmdWrite, Bool.false_eq_true, if_false, if_pos h]

theorem execMbxCmdWrite_of_idle {s : State} {fn : Fn} {off : Nat} {bytes : List Byte} (h : s.mbxBusy fn = false)
    (hlo : 0x2100 ≤ off) (hhi : off + bytes.length ≤ 0x2140) :
    execMbxCmdWrite fn off bytes false s = .next (s.modMbx fn (fun m => { m with cmd := patch m.cmd (off - 0x2100) bytes })) := by
  have hin : ¬(off < 0x2100 ∨ off + bytes.length > 0x2140) := by omega
  simp only [execMbxCmdWrite, h, Bool.false_eq_true, if_false, if_neg hin]

theorem execMbxDoorbell_of_busy {s : State} {fn : Fn} (h : s.mbxBusy fn = true) :
    execMbxDoorbell fn false s = .next (s.reject fn) := by
  simp only [execMbxDoorbell, Bool.false_eq_true, if_false, if_pos h]

/-- An accepted doorbell: the Innkeeper decides at once an operation that it may serve and that steps 1 to 3 of R459 refuse. -/
theorem execMbxDoorbell_of_idle {s : State} {fn : Fn} (h : s.mbxBusy fn = false) :
    execMbxDoorbell fn false s =
      if (s.rung fn).serviceOpen then
        match (s.rung fn).adminGate (fnKey fn) (s.mbx fn).cmd with
        | some st => .next ((s.rung fn).decideOp fn (s.askedOp fn) st 0)
        | none => .next (s.rung fn)
      else .next (s.rung fn) := by
  simp only [execMbxDoorbell, h, Bool.false_eq_true, if_false]
  rfl

theorem execMbxDoorbell_left_open {s : State} {fn : Fn} (h : s.mbxBusy fn = false)
    (hopen : (s.rung fn).serviceOpen = false ∨ (s.rung fn).adminGate (fnKey fn) (s.mbx fn).cmd = none) :
    execMbxDoorbell fn false s = .next (s.rung fn) := by
  rw [execMbxDoorbell_of_idle h]
  rcases hopen with hclosed | hpass
  · rw [hclosed, if_neg Bool.false_ne_true]
  · rw [hpass, ite_self]

theorem execMbxDoorbell_refused {s : State} {fn : Fn} {st : Status} (h : s.mbxBusy fn = false)
    (hserves : (s.rung fn).serviceOpen = true) (hgate : (s.rung fn).adminGate (fnKey fn) (s.mbx fn).cmd = some st) :
    execMbxDoorbell fn false s = .next ((s.rung fn).decideOp fn (s.askedOp fn) st 0) := by
  rw [execMbxDoorbell_of_idle h, if_pos hserves, hgate]

theorem execMbxOperationEnd_of_decided {s : State} {fn : Fn} {o : AdminOp} (hduty : s.higherDuty = false)
    (hop : (s.mbx fn).op = some o) (hdecided : o.decided = true) :
    execMbxOperationEnd fn s = .next ((s.endOp fn o).releaseFlr (adminLodging (fnKey fn) o.packet)) := by
  simp only [execMbxOperationEnd, hop, hduty, hdecided, Bool.false_eq_true, if_false, if_true]

/-- Settles O23: each clause is one outcome of the three mailbox commands; `State.reject`, `State.rung` and `State.endOp` are
the states that it writes out. -/
theorem mailboxRules : Obligations.MailboxRules := by
  intro s fn
  simp only [exec_mbxCmdWrite, exec_mbxDoorbell, exec_mbxOperationEnd]
  refine ⟨?busyCmd, ?busyBell, ?idleCmd, ?bellLeftOpen, ?bellRefused, ?operationEnd⟩
  case busyCmd => exact fun off bytes => execMbxCmdWrite_of_busy off bytes
  case busyBell => exact execMbxDoorbell_of_busy
  case idleCmd => exact fun _ _ => execMbxCmdWrite_of_idle
  case bellLeftOpen => exact execMbxDoorbell_left_open
  case bellRefused => exact fun _ => execMbxDoorbell_refused
  case operationEnd => exact fun _ => execMbxOperationEnd_of_decided

end Sys2Proof.Machine

/-! ## Settled obligations: the scrub periods (spec 10, R256, R257, R265) -/

namespace Sys2Proof.Machine

theorem exec_scrubPeriodWrite (s : State) (stack : Nat) (hbm : Bool) (value : Nat) :
    exec (.scrubPeriodWrite stack hbm value) s = execScrubPeriodWrite stack hbm value s := rfl

theorem exec_hbmScrubSector (s : State) (sector : Nat) (errs : List (Nat × Nat)) :
    exec (.hbmScrubSector sector errs) s = execHbmScrubSector sector errs s := rfl

theorem exec_stnScrubWord (s : State) (col word flips : Nat) (bitmap : Bool) :
    exec (.stnScrubWord col word flips bitmap) s = execStnScrubWord col word flips bitmap s := rfl

/-! ### Writes of the period registers -/

theorem bits_from_zero (v n : Nat) : bits v 0 n = v % 2 ^ n := by
  rw [bits, Nat.pow_zero, Nat.div_one]

theorem execScrubPeriodWrite_hbm (s : State) (stack value : Nat) :
    execScrubPeriodWrite stack true value s =
      .next (if value % 2 ^ 8 ≤ 168 then s.modHbmRegs stack (fun r => { r with scrubHours := value % 2 ^ 8 }) else s) := by
  simp only [execScrubPeriodWrite, bits_from_zero, if_true, apply_ite Host.Outcome.next]

theorem execScrubPeriodWrite_stn (s : State) (stack value : Nat) :
    execScrubPeriodWrite stack false value s =
      .next (if value % 2 ^ 16 ≤ 10080 then s.modStnRegs stack (fun r => { r with scrubMinutes := value % 2 ^ 16 }) else s) := by
  simp only [execScrubPeriodWrite, bits_from_zero, Bool.false_eq_true, if_false, apply_ite Host.Outcome.next]

/-! ### What a scrub leaves of a channel -/

@[simp] theorem State.modHbmRegs_channel (s : State) (k : Nat) (f : HbmRegs → HbmRegs) (col : Nat) :
    (s.modHbmRegs k f).channel col = s.channel col := rfl

@[simp] theorem State.hbmFlip_channel (s : State) (sector col : Nat) : (s.hbmFlip sector).channel col = s.channel col := by
  simp only [State.hbmFlip]
  split <;> rfl

@[simp] theorem State.rewriteArray_channel (s : State) (sector : Nat) (b : List Byte) (p : Bool) (col : Nat) :
    (s.rewriteArray sector b p).channel col = s.channel col := by
  rw [State.rewriteArray, State.hbmFlip_channel]
  split <;> rfl

@[simp] theorem State.poisonSector_channel (s : State) (sector col : Nat) : (s.poisonSector sector).channel col = s.channel col :=
  s.rewriteArray_channel ..

@[simp] theorem Channel.located_scrubHours (c : Channel) (lane : Nat) : (c.located lane).scrubHours = c.scrubHours := by
  simp only [Channel.located]
  split <;> rfl

/-- A corrected sector changes the count of its channel's located lane; every other verdict leaves the channel as it is (R246, R247). -/
@[simp] theorem State.countVerdict_scrubHours (s : State) (col : Nat) (v : Verdict) (ids : Nat × Nat) :
    ((s.countVerdict col v ids).channel col).scrubHours = (s.channel col).scrubHours := by
  cases v with
  | corrected j => simp [State.countVerdict]
  | wrong counted => cases counted <;> rfl
  | asStored | poisonRead | uncorrectable | channelFailed => rfl

theorem State.scrubHbm_scrubHours (s : State) (sector : Nat) :
    ((s.scrubHbm sector).channel (homeColumn (32 * sector))).scrubHours = (s.channel (homeColumn (32 * sector))).scrubHours := by
  simp only [State.scrubHbm]
  split
  case h_2 counted _ => cases counted <;> simp
  all_goals simp

/-! ### The scrub of a sector -/

/-- The period, in hours, of the pass that a scrub of a sector belongs to (R265). -/
def State.passHours (s : State) (sector : Nat) : Nat :=
  let col := homeColumn (32 * sector)
  if newPass (s.channel col).scrubAt (channelAddr (32 * sector) / 32) then (s.hbmRegs (stackOf col)).scrubHours
  else (s.channel col).scrubHours

/-- A channel's walk at a sector, in a pass of period `hours` (R256). -/
def State.walkSector (s : State) (sector hours : Nat) : State :=
  s.modChannel (homeColumn (32 * sector)) (fun c => { c with scrubAt := some (channelAddr (32 * sector) / 32), scrubHours := hours })

/-- Symbols that the array has lost in a sector. -/
def State.loseSymbols (s : State) (sector : Nat) (errs : List (Nat × Nat)) : State :=
  if errs.isEmpty then s
  else { s with hbm := { s.hbm with errs := s.hbm.errs.set sector (gather (s.hbm.errs.get sector [] ++ errs)) } }

theorem execHbmScrubSector_eq (s : State) (sector : Nat) (errs : List (Nat × Nat)) :
    execHbmScrubSector sector errs s =
      let hours := s.passHours sector
      let u := s.walkSector sector hours
      if s.rel.mode = 2 then .next s
      else if hours = 0 ∨ (s.channel (homeColumn (32 * sector))).retired then
        .next (s.modChannel (homeColumn (32 * sector)) (fun c => { c with scrubHours := hours }))
      else if !u.pageValid (32 * sector) || u.heldDirty sector then .next u
      else .next ((u.loseSymbols sector errs).scrubHbm sector) := rfl

theorem State.walkSector_scrubHours (s : State) (sector hours : Nat) :
    ((s.walkSector sector hours).channel (homeColumn (32 * sector))).scrubHours = hours := by
  rw [State.walkSector, State.modChannel_channel_self]

theorem State.loseSymbols_channel (s : State) (sector : Nat) (errs : List (Nat × Nat)) (col : Nat) :
    (s.loseSymbols sector errs).channel col = s.channel col := by
  rw [State.loseSymbols]
  split <;> rfl

/-- A scrub of a sector puts the period of its pass in force for the channel; with zero its walk stays where it is (R256, R265). -/
theorem execHbmScrubSector_passHours {s : State} (sector : Nat) (errs : List (Nat × Nat)) (hmode : s.rel.mode ≠ 2) :
    ∃ t, execHbmScrubSector sector errs s = .next t ∧
      (t.channel (homeColumn (32 * sector))).scrubHours = s.passHours sector ∧
      (s.passHours sector = 0 →
        (t.channel (homeColumn (32 * sector))).scrubAt = (s.channel (homeColumn (32 * sector))).scrubAt ∧ t.mem = s.mem) := by
  rw [execHbmScrubSector_eq]
  dsimp only
  rw [if_neg hmode]
  split
  case isTrue => exact ⟨_, rfl, by simp, by simp⟩
  case isFalse hruns =>
    have hpass : s.passHours sector ≠ 0 := fun h => hruns (.inl h)
    split
    · exact ⟨_, rfl, s.walkSector_scrubHours .., fun h => absurd h hpass⟩
    · refine ⟨_, rfl, ?_, fun h => absurd h hpass⟩
      rw [State.scrubHbm_scrubHours, State.loseSymbols_channel, State.walkSector_scrubHours]

/-! ### What a scrub of a bitmap word leaves of a slice -/

@[simp] theorem State.modStnRegs_sliceAt (s : State) (k : Nat) (f : StnRegs → StnRegs) (col : Nat) :
    (s.modStnRegs k f).sliceAt col = s.sliceAt col := rfl

@[simp] theorem State.modHbmRegs_sliceAt (s : State) (k : Nat) (f : HbmRegs → HbmRegs) (col : Nat) :
    (s.modHbmRegs k f).sliceAt col = s.sliceAt col := rfl

@[simp] theorem State.writeWord_sliceAt (s : State) (c key col : Nat) : (s.writeWord c key).sliceAt col = s.sliceAt col := by
  simp only [State.writeWord]
  split <;> rfl

@[simp] theorem State.flipWord_sliceAt (s : State) (key flips col : Nat) : (s.flipWord key flips).sliceAt col = s.sliceAt col := rfl

@[simp] theorem State.hbmFlip_sliceAt (s : State) (sector col : Nat) : (s.hbmFlip sector).sliceAt col = s.sliceAt col := by
  simp only [State.hbmFlip]
  split <;> rfl

@[simp] theorem State.poisonSector_sliceAt (s : State) (sector col : Nat) : (s.poisonSector sector).sliceAt col = s.sliceAt col := by
  rw [State.poisonSector, State.rewriteArray, State.hbmFlip_sliceAt]
  split <;> rfl

theorem State.foldl_sliceAt {α : Type} (f : State → α → State) (col : Nat) (hf : ∀ s a, (f s a).sliceAt col = s.sliceAt col)
    (l : List α) (s : State) : (l.foldl f s).sliceAt col = s.sliceAt col :=
  List.foldlRecOn (motive := fun t => t.sliceAt col = s.sliceAt col) l f rfl (fun t ht a _ => (hf t a).trans ht)

theorem State.setHbm_sliceAt (s : State) (h : Hbm) (col : Nat) : ({ s with hbm := h } : State).sliceAt col = s.sliceAt col := rfl

theorem State.setLines_sliceAt (s : State) (lines : List CacheLine) (col : Nat) :
    ({ s with stn := { s.stn with lines := lines } } : State).sliceAt col = s.sliceAt col := rfl

theorem State.bitmapLost_sliceAt (s : State) (c w col : Nat) : (s.bitmapLost c w).sliceAt col = s.sliceAt col := by
  unfold State.bitmapLost
  dsimp only
  rw [State.writeWord_sliceAt, State.modHbmRegs_sliceAt, State.setHbm_sliceAt, State.foldl_sliceAt, State.setLines_sliceAt]
  intro t sec
  split
  · rfl
  · exact t.poisonSector_sliceAt ..

/-- A decoded bitmap word changes counters, ledgers, lines and sectors, and no slice's walk (R255). -/
theorem State.checkBitmapWord_sliceAt (s : State) (c w : Nat) (ids : Nat × Nat) (col : Nat) :
    (s.checkBitmapWord c w ids).sliceAt col = s.sliceAt col := by
  simp only [State.checkBitmapWord]
  split
  · rfl
  · split
    · rfl
    · rw [State.bitmapLost_sliceAt]
      rfl

/-! ### The scrub of a bitmap word -/

/-- The period, in minutes, of the pass that a scrub of a bitmap word belongs to; its slice's walk comes to the bitmap after its words
(R255, R265). -/
def State.passMinutes (s : State) (col word : Nat) : Nat :=
  if newPass (s.sliceAt col).scrubAt (2 ^ 60 + word) then (s.stnRegs (stackOf col)).scrubMinutes else (s.sliceAt col).scrubMinutes

/-- A slice's walk at a bitmap word, in a pass of period `minutes`; a new pass has corrected no word yet (R257). -/
def State.walkBitmap (s : State) (col word minutes : Nat) : State :=
  s.modSlice col (fun x =>
    if newPass (s.sliceAt col).scrubAt (2 ^ 60 + word) then
      { x with scrubAt := some (2 ^ 60 + word), scrubMinutes := minutes, corrected := [], badRows := [] }
    else { x with scrubAt := some (2 ^ 60 + word), scrubMinutes := minutes })

/-- A bitmap word read and, where it was corrected, rewritten (R255, R257). -/
def State.scrubBitmap (s : State) (col word : Nat) : State :=
  let was := s.stn.wordErrs.get (bitmapKey col word) (0, 0)
  let t := s.checkBitmapWord col word (0, 0)
  if flipCount was ≠ 0 ∧ wordCorrected (bitmapKey col word) was then t.writeWord col (bitmapKey col word) else t

theorem execStnScrubWord_bitmap {s : State} {col word : Nat} (flips : Nat) (hmode : s.rel.mode ≠ 2) (hword : word < 8192) :
    execStnScrubWord col word flips true s =
      let minutes := s.passMinutes col word
      if minutes = 0 ∨ (s.sliceAt col).retired then .next (s.modSlice col (fun x => { x with scrubMinutes := minutes }))
      else .next (((s.walkBitmap col word minutes).flipWord (bitmapKey col word) flips).scrubBitmap col word) := by
  have hin : ¬(((true : Bool) = true ∧ word ≥ 8192) ∨ ((!true) = true ∧ word ≥ 2 ^ 22 ∧ word < 2 ^ 40)) := by
    simp [hword]
  unfold execStnScrubWord
  dsimp only
  rw [if_neg hmode, if_neg hin]
  rfl

theorem State.walkBitmap_scrubMinutes (s : State) (col word minutes : Nat) :
    ((s.walkBitmap col word minutes).sliceAt col).scrubMinutes = minutes := by
  rw [State.walkBitmap, State.modSlice_sliceAt_self]
  split <;> rfl

theorem State.scrubBitmap_sliceAt (s : State) (c word col : Nat) : (s.scrubBitmap c word).sliceAt col = s.sliceAt col := by
  simp only [State.scrubBitmap]
  split
  · rw [State.writeWord_sliceAt, State.checkBitmapWord_sliceAt]
  · rw [State.checkBitmapWord_sliceAt]

/-- A scrub of a bitmap word puts the period of its pass in force for the slice; with zero its walk stays where it is (R255, R265). -/
theorem execStnScrubWord_passMinutes {s : State} (col flips : Nat) {word : Nat} (hmode : s.rel.mode ≠ 2) (hword : word < 8192) :
    ∃ t, execStnScrubWord col word flips true s = .next t ∧
      (t.sliceAt col).scrubMinutes = s.passMinutes col word ∧
      (s.passMinutes col word = 0 → (t.sliceAt col).scrubAt = (s.sliceAt col).scrubAt ∧ t.mem = s.mem) := by
  rw [execStnScrubWord_bitmap flips hmode hword]
  dsimp only
  split
  case isTrue => exact ⟨_, rfl, by simp, by simp⟩
  case isFalse hruns =>
    refine ⟨_, rfl, ?_, fun h => absurd (.inl h) hruns⟩
    rw [State.scrubBitmap_sliceAt, State.flipWord_sliceAt, State.walkBitmap_scrubMinutes]

/-! ### The obligation -/

/-- Settles O48: a period register's write changes the register alone, and each scrub puts the period of its pass in force, which is the
register's value where the pass is new and the one already in force where it is not. -/
theorem scrubPeriodsTakeEffectAtTheNextPass : Obligations.ScrubPeriodsTakeEffectAtTheNextPass := by
  intro s stack value
  simp only [exec_scrubPeriodWrite, exec_hbmScrubSector, exec_stnScrubWord, execScrubPeriodWrite_hbm, execScrubPeriodWrite_stn]
  refine ⟨?hoursRange, ?minutesRange, ?hours, ?minutes, fun hmode => ⟨fun sector errs => ?sector, fun col word flips hword => ?word⟩⟩
  case hoursRange => exact fun h => by rw [if_neg (Nat.not_le.mpr h)]
  case minutesRange => exact fun h => by rw [if_neg (Nat.not_le.mpr h)]
  case hours =>
    intro h
    rw [if_pos h]
    exact ⟨_, rfl, s.modHbmRegs_hbmRegs_self .., fun k hk => s.modHbmRegs_hbmRegs_ne _ hk, fun _ => rfl⟩
  case minutes =>
    intro h
    rw [if_pos h]
    exact ⟨_, rfl, s.modStnRegs_stnRegs_self .., fun k hk => s.modStnRegs_stnRegs_ne _ hk, fun _ => rfl⟩
  case sector =>
    obtain ⟨t, hnext, hforce, hzero⟩ := execHbmScrubSector_passHours sector errs hmode
    constructor
    · intro hnew
      rw [State.passHours, if_pos hnew] at hforce hzero
      exact ⟨t, hnext, hforce, hzero⟩
    · intro hwithin
      rw [State.passHours, if_neg (Bool.eq_false_iff.mp hwithin)] at hforce
      exact ⟨t, hnext, hforce⟩
  case word =>
    obtain ⟨t, hnext, hforce, hzero⟩ := execStnScrubWord_passMinutes col flips hmode hword
    constructor
    · intro hnew
      rw [State.passMinutes, if_pos hnew] at hforce hzero
      exact ⟨t, hnext, hforce, hzero⟩
    · intro hwithin
      rw [State.passMinutes, if_neg (Bool.eq_false_iff.mp hwithin)] at hforce
      exact ⟨t, hnext, hforce⟩

end Sys2Proof.Machine

/-! ## Settled obligations: the quantum of a turn (spec 13, R328, R335) -/

namespace Sys2Proof.Machine

theorem exec_lodSliceWrite (s : State) (value : Nat) : exec (.lodSliceWrite value) s = execLodSliceWrite value s := rfl

theorem execLodSliceWrite_of_short (s : State) {value : Nat} (h : value % 2 ^ 16 < 100) : execLodSliceWrite value s = .next s := by
  simp only [execLodSliceWrite, bits_from_zero, if_pos h]

theorem execLodSliceWrite_of_valid (s : State) {value : Nat} (h : 100 ≤ value % 2 ^ 16) :
    execLodSliceWrite value s = .next { s with quantumUs := value % 2 ^ 16 } := by
  simp only [execLodSliceWrite, bits_from_zero, if_neg (Nat.not_lt.mpr h)]

/-- A turn kept starts anew with the quantum in force (R335). -/
@[simp] theorem State.keepTurn_turn_self (s : State) (d : Nat) (credit : Tab Int) :
    (s.keepTurn d credit).turn d = { s.turn d with since := s.now, quantum := s.quantumUs, credit := credit } :=
  Tab.get_set_self ..

/-- The quantum is the one in force before the blocks of the lodging that gives up the cluster are saved (R328, R335). -/
@[simp] theorem State.switchTurn_turn_quantum (s : State) (d : Nat) (l : Option Nat) (l' : Nat) (credit : Tab Int) :
    ((s.switchTurn d l l' credit).turn d).quantum = s.quantumUs := by
  simp only [State.switchTurn, State.turn, Tab.get_set_self]

/-- Settles O49: the write stores its field where it is 100 or more, no turn is written by it, and both ways a turn starts take its
quantum from the register. -/
theorem quantumWrites : Obligations.QuantumWrites := by
  intro s value
  rw [exec_lodSliceWrite]
  refine ⟨execLodSliceWrite_of_short s,
    fun hvalid => ⟨_, execLodSliceWrite_of_valid s hvalid, rfl, fun _ => rfl, fun d credit l l' => ⟨?kept, ?switched⟩⟩⟩
  case kept => rw [State.keepTurn_turn_self]
  case switched => rw [State.switchTurn_turn_quantum]

end Sys2Proof.Machine

/-! ## Settled obligations: the settings of the regulator's classes (spec 14, R336, R345) -/

namespace Sys2Proof.Machine

theorem exec_qosClassCfgWrite (s : State) (reg value : Nat) :
    exec (.qosClassCfgWrite reg value) s = execQosClassCfgWrite reg value s := rfl

theorem exec_qosWindowBoundary (s : State) : exec .qosWindowBoundary s = execQosWindowBoundary s := rfl

/-! ### Writes of the settings -/

theorem execQosClassCfgWrite_of_cap_above (s : State) {k value : Nat} (hk : k < 8) (hcap : 1024 < bits value 8 11) :
    execQosClassCfgWrite k value s = .next s := by
  rw [execQosClassCfgWrite, if_neg hk.ne, if_pos (.inr hcap)]

theorem execQosClassCfgWrite_of_valid (s : State) {k value : Nat} (hk : k < 8) (hcap : bits value 8 11 ≤ 1024) :
    execQosClassCfgWrite k value s = .next { s with qos := { s.qos with
      nextCap := s.qos.nextCap.set k (bits value 8 11), nextBase := s.qos.nextBase.set k (value % 2 ^ 2) } } := by
  have hvalid : ¬(k > 8 ∨ bits value 8 11 > 1024) := not_or.mpr ⟨hk.not_gt, hcap.not_gt⟩
  rw [execQosClassCfgWrite, if_neg hk.ne, if_neg hvalid, bits_from_zero]

theorem execQosClassCfgWrite_legacyHigh (s : State) (value : Nat) :
    execQosClassCfgWrite 8 value s = .next { s with qos := { s.qos with nextLegacy := value % 2 ^ 8 } } := by
  rw [execQosClassCfgWrite, if_pos rfl, bits_from_zero]

/-! ### The window boundary -/

/-- At a tick other than the one that began the window, the settings held come into force; beside them, only the class totals, the
flows and the start of the window are written (R336, R337, R341, R345). -/
theorem execQosWindowBoundary_of_due {s : State} (htick : s.now % 1000 = 0) (hdue : s.now ≠ s.qos.windowStart) :
    ∃ totals flows, execQosWindowBoundary s = .next { s with qos := { s.qos with
      bw := totals, flows := flows, windowStart := s.now,
      cap := s.qos.nextCap, base := s.qos.nextBase, legacy := s.qos.nextLegacy } } := by
  have hruns : ¬((!s.atTick || s.now == s.qos.windowStart) = true) := by
    simp [State.atTick, htick, hdue]
  rw [execQosWindowBoundary, if_neg hruns]
  exact ⟨_, _, rfl⟩

/-- Settles O50: a write reaches only the settings held, and only where CAP is in range; the window boundary puts those in force. -/
theorem qosSettingsTakeEffectAtTheWindowBoundary : Obligations.QosSettingsTakeEffectAtTheWindowBoundary := by
  intro s k value
  rw [exec_qosClassCfgWrite, exec_qosClassCfgWrite, exec_qosWindowBoundary]
  refine ⟨execQosClassCfgWrite_of_cap_above s, execQosClassCfgWrite_of_valid s, execQosClassCfgWrite_legacyHigh s value, ?boundary⟩
  case boundary =>
    intro htick hdue
    obtain ⟨totals, flows, hnext⟩ := execQosWindowBoundary_of_due htick hdue
    exact ⟨_, hnext, rfl, rfl, rfl, rfl, rfl⟩

end Sys2Proof.Machine

/-! ## Settled obligations: the commands of thermal control (spec 16, R367, R372, R373, R378) -/

namespace Sys2Proof.Machine

theorem exec_housekeepingRound (s : State) (r : Readings) : exec (.housekeepingRound r) s = execHousekeepingRound r s := rfl

theorem exec_thmReliefWrite (s : State) (place : Bool) (value : Nat) :
    exec (.thmReliefWrite place value) s = execThmReliefWrite place value s := rfl

theorem exec_thermNRelease (s : State) : exec .thermNRelease s = execThermNRelease s := rfl

theorem exec_sensorBroken (s : State) (region : Nat) : exec (.sensorBroken region) s = execSensorBroken region s := rfl

theorem exec_supervisorTrip (s : State) : exec .supervisorTrip s = execSupervisorTrip s := rfl

/-! ### Rounds (R367, R373, R378; 20, R442) -/

/-- A round of the supervisor alone: the counts of R373 and, from them or from a location at its trip point, a trip due. -/
def State.superviseRound (s : State) (r : Readings) : State :=
  let counts := maxCounts s.thm.maxRounds (rawLocs r)
  { s with thm := { s.thm with
      maxRounds := counts,
      tripDue := s.thm.tripDue || (rawLocs r).any (·.trips) || counts.any (fun e => decide (e.2 ≥ 50)) } }

theorem execHousekeepingRound_of_no_firmware {s : State} (r : Readings) (hstart : 1 ≤ s.brd.startStep)
    (hfw : s.ink.firmwareRuns = false) : execHousekeepingRound r s = .next (s.superviseRound r) := by
  have hsupervisor : (!s.ink.firmwareRuns) = true := by rw [hfw, Bool.not_false]
  rw [execHousekeepingRound, if_neg hstart.not_gt, if_pos hsupervisor, State.superviseRound]

theorem execHousekeepingRound_of_due {s : State} (r : Readings) (hstart : 1 ≤ s.brd.startStep) (hfw : s.ink.firmwareRuns = true)
    (hactive : s.ink.failoverAt = none) (hdue : s.passed (some s.ink.roundDue) = true) :
    execHousekeepingRound r s = .next (s.evalRound r).roundDone := by
  have hfirmware : ¬(!s.ink.firmwareRuns) = true := by simp [hfw]
  have hruns : ¬(s.ink.failoverAt.isSome || !s.passed (some s.ink.roundDue)) = true := by simp [hactive, hdue]
  rw [execHousekeepingRound, if_neg hstart.not_gt, if_neg hfirmware, if_neg hruns]

/-! ### Writes of `THM_RELIEF` and `THM_PLACE` (R378) -/

theorem execThmReliefWrite_relief_of_outside (s : State) {value : Nat}
    (h : bits value 8 8 < 70 ∨ 95 < bits value 8 8 ∨ value % 2 ^ 8 < 60 ∨ bits value 8 8 < value % 2 ^ 8 + 3) :
    execThmReliefWrite false value s = .next s := by
  have hinvalid : ¬(70 ≤ bits value 8 8 ∧ bits value 8 8 ≤ 95 ∧ 60 ≤ value % 2 ^ 8 ∧ value % 2 ^ 8 + 3 ≤ bits value 8 8) := by
    omega
  rw [execThmReliefWrite, bits_from_zero, if_neg Bool.false_ne_true, if_neg hinvalid]

theorem execThmReliefWrite_relief_of_valid (s : State) {value : Nat} (hlo : 70 ≤ bits value 8 8) (hhi : bits value 8 8 ≤ 95)
    (hstop : 60 ≤ value % 2 ^ 8) (hgap : value % 2 ^ 8 + 3 ≤ bits value 8 8) :
    execThmReliefWrite false value s =
      .next { s with thm := { s.thm with nextStart := bits value 8 8, nextStop := value % 2 ^ 8 } } := by
  rw [execThmReliefWrite, bits_from_zero, if_neg Bool.false_ne_true, if_pos ⟨hlo, hhi, hstop, hgap⟩]

theorem execThmReliefWrite_place (s : State) (value : Nat) :
    execThmReliefWrite true value s = .next { s with thm := { s.thm with nextBusyW := value % 2 ^ 8 } } := by
  rw [execThmReliefWrite, bits_from_zero, if_pos rfl]

/-! ### `THERM_N`, broken sensors and the trip (R366, R370, R372, R373) -/

theorem execThermNRelease_of_cool {s : State} (htherm : s.thm.therm = true) (hcool : 100 ≤ s.thm.coolRounds)
    (htripped : s.thm.tripped = false) : execThermNRelease s = .next { s with thm := { s.thm with therm := false } } := by
  have hreleases : s.thm.therm ∧ s.thm.coolRounds ≥ 100 ∧ !s.thm.tripped := ⟨htherm, hcool, by rw [htripped, Bool.not_false]⟩
  rw [execThermNRelease, if_pos hreleases]

/-- The machine with a sensor declared broken and counted as a spent spare. -/
def State.declareBroken (s : State) (region : Nat) : State :=
  { s with
    thm := { s.thm with broken := insertNew s.thm.broken region, reported := s.thm.reported ++ [region] },
    rel := { s.rel with spentSensors := s.rel.spentSensors + 1 } }

theorem execSensorBroken_of_found {s : State} {region : Nat} (hfound : s.thm.broken.contains region = true)
    (hnew : s.thm.reported.contains region = false) :
    execSensorBroken region s = .next ((s.declareBroken region).log (unitHousekeeping (sensorStack region)) 0x0F 0 0 0) := by
  simp only [execSensorBroken, hfound, hnew, Bool.true_or, Bool.not_true, Bool.or_false, Bool.false_eq_true, if_false,
    State.declareBroken]

theorem execSupervisorTrip_of_due {s : State} (hdue : s.thm.tripDue = true) (honce : s.thm.tripped = false) :
    execSupervisorTrip s = .next ({ s with thm := { s.thm with tripped := true, therm := true } } : State).allOff := by
  have htrips : ¬(!s.thm.tripDue || s.thm.tripped) = true := by simp [hdue, honce]
  rw [execSupervisorTrip, if_neg htrips]

/-! ### The obligation -/

/-- Settles O56: each clause is one outcome of the five commands; `State.superviseRound`, `State.evalRound` and
`State.declareBroken` are the states that it writes out. -/
theorem thermalCommandsRun : Obligations.ThermalCommandsRun := by
  intro s
  simp only [exec_housekeepingRound, exec_thmReliefWrite, exec_thermNRelease, exec_sensorBroken, exec_supervisorTrip]
  refine ⟨fun r hstart => ⟨?supervisorRound, ?firmwareRound⟩, fun value => ⟨?reliefInvalid, ?reliefValid, ?place⟩,
    ?release, fun _ => ?sensor, ?trip⟩
  case supervisorRound => exact execHousekeepingRound_of_no_firmware r hstart
  case firmwareRound => exact execHousekeepingRound_of_due r hstart
  case reliefInvalid => exact execThmReliefWrite_relief_of_outside s
  case reliefValid => exact execThmReliefWrite_relief_of_valid s
  case place => exact execThmReliefWrite_place s value
  case release => exact execThermNRelease_of_cool
  case sensor => exact execSensorBroken_of_found
  case trip => exact execSupervisorTrip_of_due

end Sys2Proof.Machine

/-! ## Settled obligations: the setting registers of the PF (spec 04, R114; 08, R219; 10, R259; 15, R364; 16, R378; 19, R424,
R425; 20, R450) -/

namespace Sys2Proof.Machine

theorem exec_mxaProofTolWrite (s : State) (stack value : Nat) :
    exec (.mxaProofTolWrite stack value) s = execMxaProofTolWrite stack value s := rfl

theorem exec_stnFlipMaskWrite (s : State) (stack reg value : Nat) :
    exec (.stnFlipMaskWrite stack reg value) s = execStnFlipMaskWrite stack reg value s := rfl

theorem exec_hbmFlipMaskWrite (s : State) (stack value : Nat) :
    exec (.hbmFlipMaskWrite stack value) s = execHbmFlipMaskWrite stack value s := rfl

theorem exec_pwrLimitWrite (s : State) (brake : Bool) (value : Nat) :
    exec (.pwrLimitWrite brake value) s = execPwrLimitWrite brake value s := rfl

theorem exec_lampCtrlWrite (s : State) (lamp value : Nat) :
    exec (.lampCtrlWrite lamp value) s = execLampCtrlWrite lamp value s := rfl

theorem exec_inkPmcCfgWrite (s : State) (i value : Nat) :
    exec (.inkPmcCfgWrite i value) s = execInkPmcCfgWrite i value s := rfl

/-! ### `MXA_PROOF_TOL` and the flip masks (R114, R219, R259) -/

theorem execMxaProofTolWrite_eq (s : State) (stack value : Nat) :
    execMxaProofTolWrite stack value s = .next
      (if 8 ≤ value % 2 ^ 6 ∧ value % 2 ^ 6 ≤ 40 then { s with mxaTol := s.mxaTol.set stack (value % 2 ^ 6) } else s) := by
  simp only [execMxaProofTolWrite, bits_from_zero, apply_ite Host.Outcome.next]

theorem execStnFlipMaskWrite_lo (s : State) (stack value : Nat) :
    execStnFlipMaskWrite stack 0 value s = .next (s.modStnRegs stack (fun r => { r with flipLo := value % 2 ^ 32 })) := by
  simp only [execStnFlipMaskWrite, bits_from_zero]

theorem execStnFlipMaskWrite_mid (s : State) (stack value : Nat) :
    execStnFlipMaskWrite stack 1 value s = .next (s.modStnRegs stack (fun r => { r with flipMid := value % 2 ^ 32 })) := by
  simp only [execStnFlipMaskWrite, bits_from_zero]

theorem execStnFlipMaskWrite_hi (s : State) (stack value : Nat) :
    execStnFlipMaskWrite stack 2 value s = .next (s.modStnRegs stack (fun r =>
      { r with flipArm := bit value 31, flipSlice := bits value 24 6, flipCheck := value % 2 ^ 8 })) := by
  simp only [execStnFlipMaskWrite, bits_from_zero]

theorem execHbmFlipMaskWrite_eq (s : State) (stack value : Nat) :
    execHbmFlipMaskWrite stack value s = .next (s.modHbmRegs stack (fun r => { r with
      flipArm := bit value 31, flipChannel := bits value 24 6, flipPattern := bits value 16 8, flipHi := value % 2 ^ 4 })) := by
  simp only [execHbmFlipMaskWrite, bits_from_zero]

/-! ### RW1C bits (00, R9) -/

theorem State.cleared_of_zero (s : State) (b : Rw1c) (old : Bool) : s.cleared b old false = old := by
  rw [State.cleared, Bool.not_false, Bool.true_or, Bool.and_true]

/-- The hardware's set and the host's clear meet in one cycle, which is one nanosecond of the time base, and the set wins (R9; LOG 4). -/
theorem State.cleared_of_fresh {s : State} {b : Rw1c} (old one : Bool) (h : s.fresh.contains b = true) :
    s.cleared b old one = old := by
  rw [State.cleared, h, Bool.or_true, Bool.and_true]

theorem State.cleared_of_not_fresh {s : State} {b : Rw1c} (old : Bool) (h : s.fresh.contains b = false) :
    s.cleared b old true = false := by
  rw [State.cleared, h, Bool.not_true, Bool.or_false, Bool.and_false]

/-! ### `PWR_LIMIT` and `PWR_BRAKE` (R364) -/

theorem execPwrLimitWrite_limit (s : State) (value : Nat) :
    execPwrLimitWrite false value s = .next (if 400 ≤ value % 2 ^ 16 ∧ value % 2 ^ 16 ≤ 850
      then { s with pwr := { s.pwr with limit := value % 2 ^ 16 } } else s) := by
  simp only [execPwrLimitWrite, bits_from_zero, Bool.false_eq_true, if_false, decide_eq_true_eq]
  split <;> rfl

/-- Every write of `PWR_BRAKE`: `WATTS` and `EVENT` take theirs each without regard to the other. -/
theorem execPwrLimitWrite_brake (s : State) (value : Nat) :
    execPwrLimitWrite true value s = .next { s with pwr := { s.pwr with
      brakeWatts := if 400 ≤ value % 2 ^ 16 ∧ value % 2 ^ 16 ≤ 850 then value % 2 ^ 16 else s.pwr.brakeWatts,
      brakeEvent := s.cleared .brakeEvent s.pwr.brakeEvent (bit value 30) } } := by
  simp only [execPwrLimitWrite, bits_from_zero, if_true, decide_eq_true_eq]

theorem execPwrLimitWrite_brake_keeping_event (s : State) {value : Nat} (hzero : bit value 30 = false) :
    execPwrLimitWrite true value s = .next (if 400 ≤ value % 2 ^ 16 ∧ value % 2 ^ 16 ≤ 850
      then { s with pwr := { s.pwr with brakeWatts := value % 2 ^ 16 } } else s) := by
  rw [execPwrLimitWrite_brake, hzero, State.cleared_of_zero]
  split <;> rfl

theorem execPwrLimitWrite_brake_of_outside (s : State) {value : Nat} (h : 400 > value % 2 ^ 16 ∨ value % 2 ^ 16 > 850) :
    execPwrLimitWrite true value s = .next { s with pwr := { s.pwr with
      brakeEvent := s.cleared .brakeEvent s.pwr.brakeEvent (bit value 30) } } := by
  have hinvalid : ¬(400 ≤ value % 2 ^ 16 ∧ value % 2 ^ 16 ≤ 850) := by omega
  rw [execPwrLimitWrite_brake, if_neg hinvalid]

theorem execPwrLimitWrite_brake_clears {s : State} {value : Nat} (hone : bit value 30 = true)
    (hout : 400 > value % 2 ^ 16 ∨ value % 2 ^ 16 > 850) (hfresh : s.fresh.contains .brakeEvent = false) :
    execPwrLimitWrite true value s = .next { s with pwr := { s.pwr with brakeEvent := false } } := by
  rw [execPwrLimitWrite_brake_of_outside s hout, hone, State.cleared_of_not_fresh _ hfresh]

theorem execPwrLimitWrite_brake_of_fresh {s : State} {value : Nat} (hout : 400 > value % 2 ^ 16 ∨ value % 2 ^ 16 > 850)
    (hfresh : s.fresh.contains .brakeEvent = true) : execPwrLimitWrite true value s = .next s := by
  rw [execPwrLimitWrite_brake_of_outside s hout, State.cleared_of_fresh _ _ hfresh]

/-! ### `THM_RELIEF` (R378) -/

theorem execThmReliefWrite_relief (s : State) (value : Nat) :
    execThmReliefWrite false value s = .next
      (if 70 ≤ bits value 8 8 ∧ bits value 8 8 ≤ 95 ∧ 60 ≤ value % 2 ^ 8 ∧ value % 2 ^ 8 + 3 ≤ bits value 8 8
        then { s with thm := { s.thm with nextStart := bits value 8 8, nextStop := value % 2 ^ 8 } } else s) := by
  split
  case isTrue hvalid =>
    obtain ⟨hlo, hhi, hstop, hgap⟩ := hvalid
    exact execThmReliefWrite_relief_of_valid s hlo hhi hstop hgap
  case isFalse hinvalid => exact execThmReliefWrite_relief_of_outside s (by omega)

/-! ### `LAMP_CTRL`j and `INK_PMC_CFG`i (R450; R424, R425) -/

theorem execLampCtrlWrite_of_above (s : State) (lamp : Nat) {value : Nat} (h : value % 2 ^ 10 > 1000) :
    execLampCtrlWrite lamp value s = .next s := by
  rw [execLampCtrlWrite, bits_from_zero, if_pos h]

theorem execLampCtrlWrite_of_valid (s : State) (lamp : Nat) {value : Nat} (h : value % 2 ^ 10 ≤ 1000) :
    execLampCtrlWrite lamp value s = .next { s with brd := { s.brd with
      lamps := s.brd.lamps.mod lamp Lamp.reset (fun l =>
        { l with override := bit value 31, diagEn := bit value 30, onUs := value % 2 ^ 10 }) } } := by
  rw [execLampCtrlWrite, bits_from_zero, if_neg h.not_gt]

theorem execInkPmcCfgWrite_eq (s : State) (i value : Nat) :
    execInkPmcCfgWrite i value s = .next { s with dbg := { s.dbg with
      pmcCfg := s.dbg.pmcCfg.set i
        { en := bit value 63, lodgingEn := bit value 62, layerEn := bit value 61, operEn := bit value 60,
          lodging := bits value 52 8, event := bits value 42 10, layer := bits value 16 16, oper := value % 2 ^ 16 },
      pmcValue := s.dbg.pmcValue.set i 0 } } := by
  simp only [execInkPmcCfgWrite, bits_from_zero]

/-! ### The obligation -/

/-- Settles O51: each clause is one register's write; `PWR_BRAKE` alone has two fields that answer apart, its `WATTS` and the RW1C
bit `EVENT`. -/
theorem pfRegisterWritesTakeTheirFields : Obligations.PfRegisterWritesTakeTheirFields := by
  intro s k value
  simp only [exec_mxaProofTolWrite, exec_stnFlipMaskWrite, exec_hbmFlipMaskWrite, exec_pwrLimitWrite, exec_thmReliefWrite,
    exec_lampCtrlWrite, exec_inkPmcCfgWrite]
  refine ⟨?tolerance, ?flipLo, ?flipMid, ?flipHi, ?hbmFlip, ?limit, ?brakeWatts, fun hone hout => ⟨?eventClears, ?eventStays⟩,
    ?relief, ?place, ?lampIgnored, ?lamp, ?counter⟩
  case tolerance => exact execMxaProofTolWrite_eq s k value
  case flipLo => exact execStnFlipMaskWrite_lo s k value
  case flipMid => exact execStnFlipMaskWrite_mid s k value
  case flipHi => exact execStnFlipMaskWrite_hi s k value
  case hbmFlip => exact execHbmFlipMaskWrite_eq s k value
  case limit => exact execPwrLimitWrite_limit s value
  case brakeWatts => exact execPwrLimitWrite_brake_keeping_event s
  case eventClears => exact execPwrLimitWrite_brake_clears hone hout
  case eventStays => exact execPwrLimitWrite_brake_of_fresh hout
  case relief => exact execThmReliefWrite_relief s value
  case place => exact execThmReliefWrite_place s value
  case lampIgnored => exact execLampCtrlWrite_of_above s k
  case lamp => exact execLampCtrlWrite_of_valid s k
  case counter => exact execInkPmcCfgWrite_eq s k value

end Sys2Proof.Machine

/-! ## Settled obligations: what one command keeps (O3, O4, O5, O6, O7)

The laws under `Sys2Proof/Laws/Keeps…` take the soundness of the state that they start from; O5 and O6 speak of every state. So the
law here, `State.Follows`, relates the state that a command finds to one that it leaves or passes through, and carries soundness as
an implication: one lemma per operation of the model gives the queue, the fuses, the ranges and the stops together. A lemma about a
branch of an operation names the states on the way; the operations' own lemmas close it. -/

namespace Sys2Proof.Machine

/-- What `State.Sound` says of power delivery is about these settings. -/
def Pwr.vitals (p : Pwr) : Nat × Nat × Nat × Nat := (p.limit, p.brakeWatts, p.frac, p.memCap)

/-- What `State.Sound` says of thermal sensing is about these settings and latches. -/
def Thm.vitals (x : Thm) : Nat × Nat × Nat × Nat × Bool × Bool :=
  (x.start, x.stop, x.nextStart, x.nextStop, x.tripped, x.therm)

/-- What `State.Follows` says of the Innkeeper is about the blown fuses and the shedding level. -/
def Ink.vitals (i : Ink) : Nat × Nat := (i.fusedSvn, i.shedLevel)

/-- The law of one command: a command that finds the state `s₀` may leave the state `t`. -/
structure State.Follows (s₀ t : State) : Prop where
  /-- The waiting commands stand. -/
  pending : t.pending = s₀.pending
  /-- Fuses are never unblown (18, R405). -/
  fuses : s₀.ink.fusedSvn ≤ t.ink.fusedSvn
  /-- The ranges hold on where they held. -/
  sound : s₀.Sound → t.Sound

variable {s₀ s t : State}

theorem State.Follows.refl : s₀.Follows s₀ := ⟨rfl, le_refl _, id⟩

theorem State.Follows.trans_of (h : s₀.Follows s) (ep : t.pending = s.pending) (hf : s.ink.fusedSvn ≤ t.ink.fusedSvn)
    (hs : s.Sound → t.Sound) : s₀.Follows t :=
  ⟨ep.trans h.pending, h.fuses.trans hf, fun h₀ => hs (h.sound h₀)⟩

theorem State.Sound.congr (h : s.Sound) (em : s.mem.wf = true → t.mem.wf = true) (en : t.now = s.now) (eq : t.quantumUs = s.quantumUs)
    (ep : t.pwr.vitals = s.pwr.vitals) (et : t.thm.vitals = s.thm.vitals) (ei : t.ink.vitals = s.ink.vitals) : t.Sound := by
  simp only [Pwr.vitals, Thm.vitals, Ink.vitals, Prod.mk.injEq] at ep et ei
  obtain ⟨hm, hn, hq, hl, hb, hr, ht, ht', hs, htrip⟩ := h
  obtain ⟨el, eb, ef, ec⟩ := ep
  obtain ⟨es, ez, es', ez', etr, eth⟩ := et
  exact ⟨em hm, en ▸ hn, eq ▸ hq, el ▸ hl, eb ▸ hb, by rwa [ef, ec], by rwa [es, ez], by rwa [es', ez'], ei.2 ▸ hs,
    by rwa [etr, eth]⟩

theorem State.Follows.congr (h : s₀.Follows s) (eq : t.pending = s.pending) (em : s.mem.wf = true → t.mem.wf = true)
    (en : t.now = s.now) (eu : t.quantumUs = s.quantumUs) (ep : t.pwr.vitals = s.pwr.vitals) (et : t.thm.vitals = s.thm.vitals)
    (ei : t.ink.vitals = s.ink.vitals) : s₀.Follows t :=
  ⟨eq.trans h.pending, h.fuses.trans_eq (congrArg Prod.fst ei).symm, fun hs => (h.sound hs).congr em en eu ep et ei⟩

/-- A record update that leaves what the law speaks of. -/
theorem State.Follows.lit
    {holding' : Bool} {slow' : Nat} {lods' : Tab Lodging} {mail' : Tab Mailbox} {msix' : Tab MsixFn} {porters' : Tab Porter}
    {cmds' : List Cmd} {nextCmd' : Nat} {launches' : List Launch} {blocks' : List Block} {nextBlock' : Nat} {mats' : List MatOp}
    {attns' : List AttnOp} {cores' : Tab ColCore} {mxaTol' : Tab Nat} {mxaRetries' : Tab Nat} {mxaSuspected' : Tab Nat} {stn' : Stn}
    {hbm' : Hbm} {fab' : Fabric} {vch' : Vch} {d2d' : Tab D2d} {cyl' : Cyl} {dma' : Dma} {qos' : Qos} {turns' : Tab Turn}
    {rel' : Rel} {unlock' : Unlock} {dbg' : Dbg} {brd' : Brd} {out' : List Out} {fresh' : List Rw1c} {supp' : Tab Nat}
    {freeAt' : Nat}
    (h : s₀.Follows s) :
    s₀.Follows
      ⟨s.pending, s.now, holding', slow', s.mem, lods', mail', msix', porters', cmds', nextCmd', launches', blocks', nextBlock', mats',
       attns', cores', mxaTol', mxaRetries', mxaSuspected', stn', hbm', fab', vch', d2d', cyl', dma', qos', turns', s.quantumUs, s.pwr,
       s.thm, rel', s.ink, unlock', dbg', brd', out', fresh', supp', freeAt'⟩ :=
  h.congr rfl id rfl rfl rfl rfl rfl

/-- A record update with another memory. -/
theorem State.Follows.litMem
    {holding' : Bool} {slow' : Nat} {mem' : Memory} {lods' : Tab Lodging} {mail' : Tab Mailbox} {msix' : Tab MsixFn}
    {porters' : Tab Porter} {cmds' : List Cmd} {nextCmd' : Nat} {launches' : List Launch} {blocks' : List Block} {nextBlock' : Nat}
    {mats' : List MatOp} {attns' : List AttnOp} {cores' : Tab ColCore} {mxaTol' : Tab Nat} {mxaRetries' : Tab Nat}
    {mxaSuspected' : Tab Nat} {stn' : Stn} {hbm' : Hbm} {fab' : Fabric} {vch' : Vch} {d2d' : Tab D2d} {cyl' : Cyl} {dma' : Dma}
    {qos' : Qos} {turns' : Tab Turn} {rel' : Rel} {unlock' : Unlock} {dbg' : Dbg} {brd' : Brd} {out' : List Out} {fresh' : List Rw1c}
    {supp' : Tab Nat} {freeAt' : Nat}
    (h : s₀.Follows s)
    (hm : s.mem.wf = true → mem'.wf = true) :
    s₀.Follows
      ⟨s.pending, s.now, holding', slow', mem', lods', mail', msix', porters', cmds', nextCmd', launches', blocks', nextBlock', mats',
       attns', cores', mxaTol', mxaRetries', mxaSuspected', stn', hbm', fab', vch', d2d', cyl', dma', qos', turns', s.quantumUs, s.pwr,
       s.thm, rel', s.ink, unlock', dbg', brd', out', fresh', supp', freeAt'⟩ :=
  h.congr rfl hm rfl rfl rfl rfl rfl

/-- A record update of power delivery, thermal sensing or the Innkeeper that leaves their vitals. -/
theorem State.Follows.litVitals
    {holding' : Bool} {slow' : Nat} {lods' : Tab Lodging} {mail' : Tab Mailbox} {msix' : Tab MsixFn} {porters' : Tab Porter}
    {cmds' : List Cmd} {nextCmd' : Nat} {launches' : List Launch} {blocks' : List Block} {nextBlock' : Nat} {mats' : List MatOp}
    {attns' : List AttnOp} {cores' : Tab ColCore} {mxaTol' : Tab Nat} {mxaRetries' : Tab Nat} {mxaSuspected' : Tab Nat} {stn' : Stn}
    {hbm' : Hbm} {fab' : Fabric} {vch' : Vch} {d2d' : Tab D2d} {cyl' : Cyl} {dma' : Dma} {qos' : Qos} {turns' : Tab Turn}
    {pwr' : Pwr} {thm' : Thm} {rel' : Rel} {ink' : Ink} {unlock' : Unlock} {dbg' : Dbg} {brd' : Brd} {out' : List Out}
    {fresh' : List Rw1c} {supp' : Tab Nat} {freeAt' : Nat}
    (h : s₀.Follows s)
    (ep : pwr'.vitals = s.pwr.vitals) (et : thm'.vitals = s.thm.vitals) (ei : ink'.vitals = s.ink.vitals) :
    s₀.Follows
      ⟨s.pending, s.now, holding', slow', s.mem, lods', mail', msix', porters', cmds', nextCmd', launches', blocks', nextBlock', mats',
       attns', cores', mxaTol', mxaRetries', mxaSuspected', stn', hbm', fab', vch', d2d', cyl', dma', qos', turns', s.quantumUs, pwr',
       thm', rel', ink', unlock', dbg', brd', out', fresh', supp', freeAt'⟩ :=
  h.congr rfl id rfl rfl ep et ei

theorem State.Follows.ite {c : Prop} [Decidable c] (ht : s₀.Follows s) (hu : s₀.Follows t) : s₀.Follows (if c then s else t) := by
  split
  · exact ht
  · exact hu

/-- A further operation where a condition holds. -/
theorem State.Follows.andIf {c : Prop} [Decidable c] (h : s₀.Follows s) (ht : s₀.Follows s → s₀.Follows t) :
    s₀.Follows (if c then t else s) := .ite (ht h) h

/-- A further operation unless a condition holds. -/
theorem State.Follows.unless {c : Prop} [Decidable c] (h : s₀.Follows s) (ht : s₀.Follows s → s₀.Follows t) :
    s₀.Follows (if c then s else t) := .ite h (ht h)

theorem State.Follows.fst {α : Type} {x : State × α} {a : α} (h : s₀.Follows x.1) (e : x = (t, a)) : s₀.Follows t := by
  subst e
  exact h

theorem State.Follows.foldl {α : Type} {f : State → α → State} (h : s₀.Follows s)
    (hf : ∀ u a, s₀.Follows u → s₀.Follows (f u a)) (l : List α) : s₀.Follows (l.foldl f s) :=
  List.foldlRecOn l f h fun u hu a _ => hf u a hu

theorem State.Follows.foldlFst {α β : Type} {f : State × β → α → State × β} {b : β} (h : s₀.Follows s)
    (hf : ∀ u a, s₀.Follows u.1 → s₀.Follows (f u a).1) (l : List α) : s₀.Follows (l.foldl f (s, b)).1 :=
  List.foldlRecOn (motive := fun u => s₀.Follows u.1) l f h fun u hu a _ => hf u a hu

/-- Every value that an optional result carries. -/
def OptionHolds {α : Type} (P : α → Prop) : Option α → Prop
  | some x => P x
  | none => True

/-- Every value that either outcome of a result carries. -/
def ExceptHolds {α β : Type} (P : α → Prop) (Q : β → Prop) : Except α β → Prop
  | .error x => P x
  | .ok x => Q x

/-! What the model's result types carry: every state in the result follows the one that the command finds. -/

def RemoteRead.Follows (s₀ : State) : RemoteRead → Prop
  | .bytes s _ _ => s₀.Follows s
  | .wait s => s₀.Follows s
  | .fault s _ _ => s₀.Follows s
  | .unreachable s => s₀.Follows s

def VRead.Follows (s₀ : State) : VRead → Prop
  | .fail s _ _ => s₀.Follows s
  | .wait s => s₀.Follows s
  | .ok s _ _ => s₀.Follows s

def VWrite.Follows (s₀ : State) : VWrite → Prop
  | .fail _ _ => True
  | .wait => True
  | .ok s _ => s₀.Follows s

def Sent.Follows (s₀ : State) : Sent → Prop
  | .unreachable => True
  | .held => True
  | .sent s => s₀.Follows s

def CheckRes.Follows (s₀ : State) : CheckRes → Prop
  | .ok s _ _ => s₀.Follows s
  | .bad s _ _ => s₀.Follows s
  | .wait s => s₀.Follows s

def MatRead.Follows (s₀ : State) : MatRead → Prop
  | .fail s _ _ => s₀.Follows s
  | .wait s => s₀.Follows s
  | .ok s _ _ => s₀.Follows s

def PassRead.Follows (s₀ : State) : PassRead → Prop
  | .fail s _ _ => s₀.Follows s
  | .wait s => s₀.Follows s
  | .ok s _ _ _ _ _ _ _ => s₀.Follows s

def PassResult.Follows (s₀ : State) : PassResult → Prop
  | .nothing s => s₀.Follows s
  | .proven s _ _ => s₀.Follows s
  | .failed s _ _ => s₀.Follows s

def VecRead.Follows (s₀ : State) : VecRead → Prop
  | .fail s _ _ => s₀.Follows s
  | .wait s => s₀.Follows s
  | .ok s _ _ => s₀.Follows s

def Access.Follows {α : Type} (s₀ : State) : Access α → Prop
  | .ok s _ => s₀.Follows s
  | .wait s => s₀.Follows s
  | .fault s _ _ => s₀.Follows s

def Side.Follows {α : Type} (s₀ : State) : Side α → Prop
  | .ok s _ => s₀.Follows s
  | .wait s => s₀.Follows s
  | .fail s => s₀.Follows s
  | .halt s _ _ => s₀.Follows s

def PageRead.Follows (s₀ : State) : PageRead → Prop
  | .fail s _ _ => s₀.Follows s
  | .wait s => s₀.Follows s
  | .invalid s => s₀.Follows s
  | .ok s _ => s₀.Follows s

def AppendRes.Follows (s₀ : State) : AppendRes → Prop
  | .fail s _ _ => s₀.Follows s
  | .wait s => s₀.Follows s
  | .done s => s₀.Follows s

/-- The ground of a stop: the address of a flit lies in a hole of the address map or in the register range (01, R22). -/
def Astray (f : Flit) : Prop := placeOf f.addr = .hole ∨ placeOf f.addr = .registers

/-- What a command that finds the state `s₀` may answer: a next state follows `s₀`; it stops with a fault only on the ground `stop`,
and is never refused. -/
def State.Answers (s₀ : State) (stop : Prop) : Host.Outcome State Fault Refusal → Prop
  | .next t => s₀.Follows t
  | .fault _ => stop
  | .refused _ => False

/-! From the result of a call to the branch taken on it. -/

theorem RemoteRead.Follows.of_eq {r r' : RemoteRead} (h : r.Follows s₀) (e : r = r') : r'.Follows s₀ := e ▸ h

theorem VRead.Follows.of_eq {r r' : VRead} (h : r.Follows s₀) (e : r = r') : r'.Follows s₀ := e ▸ h

theorem VWrite.Follows.of_eq {r r' : VWrite} (h : r.Follows s₀) (e : r = r') : r'.Follows s₀ := e ▸ h

theorem Sent.Follows.of_eq {r r' : Sent} (h : r.Follows s₀) (e : r = r') : r'.Follows s₀ := e ▸ h

theorem CheckRes.Follows.of_eq {r r' : CheckRes} (h : r.Follows s₀) (e : r = r') : r'.Follows s₀ := e ▸ h

theorem MatRead.Follows.of_eq {r r' : MatRead} (h : r.Follows s₀) (e : r = r') : r'.Follows s₀ := e ▸ h

theorem PassRead.Follows.of_eq {r r' : PassRead} (h : r.Follows s₀) (e : r = r') : r'.Follows s₀ := e ▸ h

theorem PassResult.Follows.of_eq {r r' : PassResult} (h : r.Follows s₀) (e : r = r') : r'.Follows s₀ := e ▸ h

theorem VecRead.Follows.of_eq {r r' : VecRead} (h : r.Follows s₀) (e : r = r') : r'.Follows s₀ := e ▸ h

theorem Access.Follows.of_eq {α : Type} {r r' : Access α} (h : r.Follows s₀) (e : r = r') : r'.Follows s₀ := e ▸ h

theorem Side.Follows.of_eq {α : Type} {r r' : Side α} (h : r.Follows s₀) (e : r = r') : r'.Follows s₀ := e ▸ h

theorem OptionHolds.of_eq {α : Type} {P : α → Prop} {x y : Option α} (h : OptionHolds P x) (e : x = y) : OptionHolds P y := e ▸ h

theorem ExceptHolds.of_eq {α β : Type} {P : α → Prop} {Q : β → Prop} {x y : Except α β} (h : ExceptHolds P Q x) (e : x = y) :
    ExceptHolds P Q y := e ▸ h

theorem State.Follows.getD {o : Option State} (h : s₀.Follows s) (ho : OptionHolds s₀.Follows o) : s₀.Follows (o.getD s) := by
  cases o with
  | none => exact h
  | some t => exact ho

theorem State.Answers.mono {stop stop' : Prop} {x : Host.Outcome State Fault Refusal} (h : s₀.Answers stop x) (hs : stop → stop') :
    s₀.Answers stop' x := by
  cases x with
  | next t => exact h
  | fault r => exact hs h
  | refused r => exact h

theorem State.Answers.ite {stop c : Prop} [Decidable c] {x y : Host.Outcome State Fault Refusal} (hx : s₀.Answers stop x)
    (hy : s₀.Answers stop y) : s₀.Answers stop (if c then x else y) := by
  split
  · exact hx
  · exact hy

theorem PageRead.Follows.of_eq {r r' : PageRead} (h : r.Follows s₀) (e : r = r') : r'.Follows s₀ := e ▸ h

theorem AppendRes.Follows.of_eq {r r' : AppendRes} (h : r.Follows s₀) (e : r = r') : r'.Follows s₀ := e ▸ h

theorem MatRead.Follows.ite {c : Prop} [Decidable c] {a b : MatRead} (ha : a.Follows s₀) (hb : b.Follows s₀) :
    MatRead.Follows s₀ (if c then a else b) := by
  split
  · exact ha
  · exact hb

theorem CheckRes.Follows.ite {c : Prop} [Decidable c] {a b : CheckRes} (ha : a.Follows s₀) (hb : b.Follows s₀) :
    CheckRes.Follows s₀ (if c then a else b) := by
  split
  · exact ha
  · exact hb

theorem MatRead.Follows.andThen {a : MatRead} {k : State → List (List Nat) → Bool → MatRead} (ha : a.Follows s₀)
    (hk : ∀ t r p, s₀.Follows t → (k t r p).Follows s₀) : (a.andThen k).Follows s₀ := by
  cases a with
  | ok t r p => exact hk t r p ha
  | fail t st d => exact ha
  | wait t => exact ha

/-! ### The shared operations -/

theorem State.Follows.modLod {l : Nat} {f : Lodging → Lodging} (h : s₀.Follows s) : s₀.Follows (s.modLod l f) := h.lit

theorem State.Follows.modGalley {l g : Nat} {f : Galley → Galley} (h : s₀.Follows s) : s₀.Follows (s.modGalley l g f) := h.modLod

theorem State.Follows.modCmd {id : Nat} {f : Cmd → Cmd} (h : s₀.Follows s) : s₀.Follows (s.modCmd id f) := h.lit

theorem State.Follows.modMbx {fn : Fn} {f : Mailbox → Mailbox} (h : s₀.Follows s) : s₀.Follows (s.modMbx fn f) := h.lit

theorem State.Follows.modPorter {k : Nat} {f : Porter → Porter} (h : s₀.Follows s) : s₀.Follows (s.modPorter k f) := h.lit

theorem State.Follows.modCore {col : Nat} {f : ColCore → ColCore} (h : s₀.Follows s) : s₀.Follows (s.modCore col f) := h.lit

theorem State.Follows.modSlice {col : Nat} {f : Slice → Slice} (h : s₀.Follows s) : s₀.Follows (s.modSlice col f) := h.lit

theorem State.Follows.modStnRegs {k : Nat} {f : StnRegs → StnRegs} (h : s₀.Follows s) : s₀.Follows (s.modStnRegs k f) := h.lit

theorem State.Follows.modHbmRegs {k : Nat} {f : HbmRegs → HbmRegs} (h : s₀.Follows s) : s₀.Follows (s.modHbmRegs k f) := h.lit

theorem State.Follows.modChannel {col : Nat} {f : Channel → Channel} (h : s₀.Follows s) : s₀.Follows (s.modChannel col f) := h.lit

theorem State.Follows.modLane {l : Lane} {f : LaneSt → LaneSt} (h : s₀.Follows s) : s₀.Follows (s.modLane l f) := h.lit

theorem State.Follows.modDomain {d : Nat} {f : Domain → Domain} (h : s₀.Follows s) : s₀.Follows (s.modDomain d f) :=
  h.litVitals (by rfl) (by rfl) (by rfl)

theorem State.Follows.modPort {p : Nat} {f : CytilPort → CytilPort} (h : s₀.Follows s) : s₀.Follows (s.modPort p f) := h.lit

theorem State.Follows.emit {o : Out} (h : s₀.Follows s) : s₀.Follows (s.emit o) := h.lit

theorem State.Follows.tick (h : s₀.Follows s) : s₀.Follows s.tick := by
  refine ⟨h.pending, h.fuses, fun hs => ?_⟩
  obtain ⟨hm, hn, hq, hl, hb, hr, ht, ht', hsh, htrip⟩ := h.sound hs
  refine ⟨hm, ?_, hq, hl, hb, hr, ht, ht', hsh, htrip⟩
  unfold State.tick
  dsimp only
  split <;> omega

theorem State.Follows.setNow {b : Rw1c} (h : s₀.Follows s) : s₀.Follows (s.setNow b) := h.lit

theorem State.Follows.logHost {lod : Nat} {ans : HostAns} (h : s₀.Follows s) : s₀.Follows (s.logHost lod ans) := by
  unfold State.logHost
  split
  · exact h.emit
  · exact h

theorem State.Follows.takeFree (h : s₀.Follows s) : s₀.Follows (s.takeFree) := h.lit

/-! ### The flags and the log -/

theorem State.Follows.failCmd {id st d : Nat} (h : s₀.Follows s) : s₀.Follows (s.failCmd id st d) := h.modCmd

theorem State.Follows.noticeCmd {id st d : Nat} (h : s₀.Follows s) : s₀.Follows (s.noticeCmd id st d) := h.modCmd

theorem State.Follows.raise {k v : Nat} (h : s₀.Follows s) : s₀.Follows (s.raise k v) := State.Follows.ite h.emit h.lit

theorem State.Follows.releasePending {k : Nat} (h : s₀.Follows s) : s₀.Follows (s.releasePending k) := State.Follows.ite h.lit h

theorem State.Follows.raiseGalley {l g : Nat} (h : s₀.Follows s) : s₀.Follows (s.raiseGalley l g) := State.Follows.ite h.raise h

theorem State.Follows.event {l code resource detail : Nat} (h : s₀.Follows s) : s₀.Follows (s.event l code resource detail) :=
  h.modLod.raise

theorem State.Follows.log {u code arg layer oper : Nat} (h : s₀.Follows s) : s₀.Follows (s.log u code arg layer oper) := h.lit

theorem State.Follows.askTakeover {t : Takeover} (h : s₀.Follows s) : s₀.Follows (s.askTakeover t) := State.Follows.ite h h.lit

theorem State.Follows.askCore {col : Nat} (h : s₀.Follows s) : s₀.Follows (s.askCore col) := h.askTakeover

theorem State.Follows.askBank {col bank : Nat} (h : s₀.Follows s) : s₀.Follows (s.askBank col bank) := h.askTakeover

theorem State.Follows.askRow {col bank row : Nat} (h : s₀.Follows s) : s₀.Follows (s.askRow col bank row) := h.askTakeover

theorem State.Follows.rowTest {col bank row : Nat} (h : s₀.Follows s) : s₀.Follows (s.rowTest col bank row) :=
  State.Follows.ite h (State.Follows.ite h.modSlice.askBank h.modSlice.askRow)

theorem State.Follows.count {stack event : Nat} {lod : Option Nat} {ids : Nat × Nat} {n : Nat} (h : s₀.Follows s) : s₀.Follows (s.count
    stack event lod ids n) :=
  h.lit

theorem State.Follows.addBytes {k n : Nat} (h : s₀.Follows s) : s₀.Follows (s.addBytes k n) := h.lit

theorem State.Follows.grant {res lod cls n : Nat} (h : s₀.Follows s) : s₀.Follows (s.grant res lod cls n) := h.lit

theorem State.Follows.noticeIds {lod : Nat} {ids : Nat × Nat} {st d : Nat} (h : s₀.Follows s) : s₀.Follows (s.noticeIds lod ids st d) :=
  h.lit

theorem State.Follows.degraded {lod : Nat} {ids : Nat × Nat} {b : Nat} (h : s₀.Follows s) : s₀.Follows (s.degraded lod ids b) :=
  h.noticeIds

/-! ### Remote reads -/

theorem State.Follows.putTransfer {p dst op addr tag : Nat} {bytes : List Byte} {txn : Option Nat} {poison : Bool}
    {head : optParam (Option XferHead) none} (h : s₀.Follows s) : s₀.Follows (s.putTransfer p dst op addr tag bytes txn poison head) :=
  h.modPort.addBytes.grant.modPort.emit

theorem State.Follows.cylSend {dst op addr tag : Nat} {bytes : List Byte} {txn : Option Nat} {poison : optParam Bool false}
    {head : optParam (Option XferHead) none} (h : s₀.Follows s) : Sent.Follows s₀ (s.cylSend dst op addr tag bytes txn poison head) :=
    by
  unfold State.cylSend
  split
  · trivial
  · split
    · trivial
    · dsimp only
      split
      · trivial
      · exact h.putTransfer

theorem State.Follows.enqueue {x : SentXfer} (h : s₀.Follows s) : s₀.Follows (s.enqueue x) := h.lit

theorem State.Follows.sendOrWait {dst op addr tag : Nat} {bytes : List Byte} {txn : Option Nat} {poison : optParam Bool false}
    {head : optParam (Option XferHead) none} (h : s₀.Follows s) : OptionHolds s₀.Follows (s.sendOrWait dst op addr tag bytes txn poison
    head) := by
  unfold State.sendOrWait
  split
  next t1 e1 => exact (h.cylSend.of_eq e1 :)
  · trivial
  · exact h.enqueue

theorem State.Follows.cylReply {dst op addr tag : Nat} {bytes : List Byte} {poison : Bool} {head : optParam (Option XferHead) none}
    (h : s₀.Follows s) : s₀.Follows (s.cylReply dst op addr tag bytes poison head) :=
  State.Follows.getD h h.sendOrWait

theorem State.Follows.newTxn {lod addr : Nat} {kind : TxnKind} (h : s₀.Follows s) : s₀.Follows (s.newTxn lod addr kind).1 := h.lit

theorem State.Follows.dropTxn {id : Nat} (h : s₀.Follows s) : s₀.Follows (s.dropTxn id) := h.lit

/-! ### The home of a line -/

theorem State.Follows.meetWord {key col bank row : Nat} {ids : Nat × Nat} (h : s₀.Follows s) : s₀.Follows (s.meetWord key col bank row
    ids).1 := by
  unfold State.meetWord
  dsimp only
  split
  · exact h
  · split
    · exact h.modStnRegs
    · exact h.modStnRegs.log.rowTest.takeFree

theorem State.Follows.keepArray {sector : Nat} (h : s₀.Follows s) : s₀.Follows (s.keepArray sector) := h.lit

theorem State.Follows.checkWord {sector w : Nat} {ids : Nat × Nat} (h : s₀.Follows s) : s₀.Follows (s.checkWord sector w ids) := by
  unfold State.checkWord
  split
  · exact h
  · dsimp only
    split
    · exact (State.Follows.ite h.meetWord.keepArray h.meetWord).litMem (fun hm => Memory.wf_mark _ hm _ _)
    · exact h.meetWord

theorem State.Follows.checkWords {sector : Nat} {ids : Nat × Nat} (h : s₀.Follows s) : s₀.Follows (s.checkWords sector ids) :=
  State.Follows.foldl h (fun _ _ hu => hu.checkWord) _

theorem State.Follows.writeWord {col key : Nat} (h : s₀.Follows s) : s₀.Follows (s.writeWord col key) :=
  State.Follows.ite h.modStnRegs.lit h.lit

theorem State.Follows.storeWords {sector : Nat} {words : List Nat} (h : s₀.Follows s) : s₀.Follows (s.storeWords sector words) :=
  State.Follows.foldl h (fun _ _ hu => hu.writeWord) _

theorem State.Follows.countVerdict {col : Nat} {v : Verdict} {ids : Nat × Nat} (h : s₀.Follows s) : s₀.Follows (s.countVerdict col v
    ids) := by
  unfold State.countVerdict
  split
  · exact h
  · exact h.modHbmRegs.modChannel
  · exact State.Follows.ite h.modHbmRegs h
  · exact h.modHbmRegs
  · exact h.modHbmRegs.log
  · exact h

theorem State.Follows.noteChannel {lod sector : Nat} {ids : Nat × Nat} (h : s₀.Follows s) : s₀.Follows (s.noteChannel lod sector ids) :=
  State.Follows.ite h.degraded h

theorem State.Follows.hbmRead {lod sector : Nat} {ids : Nat × Nat} (h : s₀.Follows s) : s₀.Follows (s.hbmRead lod sector ids).1 := by
  unfold State.hbmRead
  dsimp only
  split
  · exact h
  · exact h.countVerdict.addBytes.grant.noteChannel

theorem State.Follows.hbmFlip {sector : Nat} (h : s₀.Follows s) : s₀.Follows (s.hbmFlip sector) :=
  State.Follows.ite h.modHbmRegs.lit h.lit

theorem Memory.wf_foldl_mark {m : Memory} (h : m.wf = true) (l : List Nat) (p : Bool) :
    (l.foldl (fun m sec => m.mark sec p) m).wf = true :=
  List.foldlRecOn (motive := fun m => m.wf = true) l _ h fun m hm sec _ => Memory.wf_mark m hm sec p

theorem State.Follows.zeroFill {lod pa : Nat} {ids : Nat × Nat} (h : s₀.Follows s) : s₀.Follows (s.zeroFill lod pa ids) := by
  unfold State.zeroFill
  split
  · exact h
  · exact (h.litMem fun hm => Memory.wf_foldl_mark (Memory.wf_put _ hm _ _) _ _).writeWord.modHbmRegs.noteChannel.hbmFlip

theorem State.Follows.hbmWrite {lod sector : Nat} {ids : Nat × Nat} (h : s₀.Follows s) : s₀.Follows (s.hbmWrite lod sector ids) :=
  h.lit.addBytes.grant.noteChannel.hbmFlip

theorem State.Follows.rewriteArray {sector : Nat} {b : List Byte} {p : Bool} (h : s₀.Follows s) : s₀.Follows (s.rewriteArray sector b p)
    :=
  (State.Follows.ite h.lit (h.litMem (fun hm => Memory.wf_mark _ (Memory.wf_put _ hm _ _) _ _))).hbmFlip

theorem State.Follows.poisonSector {sector : Nat} (h : s₀.Follows s) : s₀.Follows (s.poisonSector sector) := h.rewriteArray

theorem State.Follows.bitmapLost {col w : Nat} (h : s₀.Follows s) : s₀.Follows (s.bitmapLost col w) := by
  unfold State.bitmapLost
  refine State.Follows.writeWord (State.Follows.modHbmRegs (State.Follows.lit ?_))
  exact State.Follows.foldl h.lit (fun _ _ hu => State.Follows.ite hu hu.poisonSector) _

theorem State.Follows.checkBitmapWord {col w : Nat} {ids : Nat × Nat} (h : s₀.Follows s) : s₀.Follows (s.checkBitmapWord col w ids) :=
  State.Follows.ite h (State.Follows.ite h.modStnRegs h.modStnRegs.log.takeFree.bitmapLost)

theorem State.Follows.checkBitmap {pa : Nat} {ids : Nat × Nat} (h : s₀.Follows s) : s₀.Follows (s.checkBitmap pa ids) :=
  h.checkBitmapWord

theorem State.Follows.deliverInto {sector : Nat} {y : Sector} (h : s₀.Follows s) : s₀.Follows (s.deliverInto sector y) :=
  (State.Follows.ite h h.keepArray).litMem (fun hm => Memory.wf_mark _ (Memory.wf_put _ hm _ _) _ _)

theorem State.Follows.useLine {old new : CacheLine} (h : s₀.Follows s) : s₀.Follows (s.useLine old new) := h.lit

theorem State.Follows.addLine {l : CacheLine} (h : s₀.Follows s) : s₀.Follows (s.addLine l) := h.lit

theorem State.Follows.touchLine {l : CacheLine} (h : s₀.Follows s) : s₀.Follows (s.touchLine l) := h.useLine

theorem State.Follows.swapLine {old new : CacheLine} (h : s₀.Follows s) : s₀.Follows (s.swapLine old new) := h.lit

theorem State.Follows.purgeBuffers {lod : Nat} (h : s₀.Follows s) : s₀.Follows (s.purgeBuffers lod) := State.Follows.ite h.lit h

theorem State.Follows.useUp {lod line : Nat} (h : s₀.Follows s) : s₀.Follows (s.useUp lod line) := State.Follows.ite h.lit h

theorem State.Follows.removeLine {l : CacheLine} (h : s₀.Follows s) : s₀.Follows (s.removeLine l) := h.lit

theorem State.Follows.checkCopy {l : CacheLine} {ws : List Nat} {ids : Nat × Nat} (h : s₀.Follows s) : s₀.Follows (s.checkCopy l ws
    ids).1 := by
  unfold State.checkCopy
  split
  · exact h
  · refine State.Follows.swapLine ?_
    refine State.Follows.foldlFst h (fun _ _ hu => ?_) _
    exact hu.meetWord

theorem State.Follows.writeCopy {l : CacheLine} {ws : List Nat} (h : s₀.Follows s) : s₀.Follows (s.writeCopy l ws) :=
  State.Follows.ite h (State.Follows.foldl h (fun _ _ hu => hu.writeWord) _)

theorem State.Follows.restoreArray {l : CacheLine} (h : s₀.Follows s) : s₀.Follows (s.restoreArray l) := by
  unfold State.restoreArray
  split
  · exact State.Follows.foldl h (fun _ _ hu => State.Follows.ite hu (hu.litMem (fun hm => Memory.wf_mark _ (Memory.wf_put _ hm _ _) _ _))) _
  · exact h

theorem State.Follows.writeBack {l : CacheLine} {ids : Nat × Nat} (h : s₀.Follows s) : s₀.Follows (s.writeBack l ids) := by
  unfold State.writeBack
  split
  · split
    · exact (State.Follows.foldl h (fun _ _ hu => hu.checkWords.hbmWrite) _).restoreArray
    · exact ((State.Follows.foldl h (fun _ _ hu => hu.checkWords.hbmWrite) _).restoreArray).lit
  · exact h

theorem State.Follows.ackedLine {line : Nat} (h : s₀.Follows s) : s₀.Follows (s.ackedLine line) := h.lit

theorem State.Follows.readPinned {l : CacheLine} {i : Nat} {ids : Nat × Nat} (h : s₀.Follows s) : s₀.Follows (s.readPinned l i ids).1 :=
    by
  unfold State.readPinned
  dsimp only
  split
  · exact h.checkCopy
  · exact h.checkCopy

theorem State.Follows.putPinned {l : CacheLine} {off : Nat} {b : List Byte} {p : Bool} (h : s₀.Follows s) : s₀.Follows (s.putPinned l
    off b p).1 := by
  unfold State.putPinned
  split
  · exact h.useLine.writeCopy
  · exact h

theorem State.Follows.fillPage {lod pa : Nat} {ids : Nat × Nat} (h : s₀.Follows s) : s₀.Follows (s.fillPage lod pa ids) :=
  State.Follows.ite h.zeroFill h

theorem State.Follows.mergeSector {sector off : Nat} {b : List Byte} {p : Bool} (h : s₀.Follows s) : s₀.Follows (s.mergeSector sector
    off b p) :=
  h.litMem (fun hm => Memory.wf_write _ hm _ _ _)

theorem State.Follows.fillSector {l : CacheLine} {lod sector : Nat} {ids : Nat × Nat} (h : s₀.Follows s) : s₀.Follows (s.fillSector l
    lod sector ids).1 := by
  unfold State.fillSector
  split
  · exact h.hbmRead.deliverInto.useLine.storeWords
  · exact h

theorem State.Follows.haveSector {l : CacheLine} {lod sector : Nat} {ids : Nat × Nat} (h : s₀.Follows s) : s₀.Follows (s.haveSector l
    lod sector ids).1 := by
  unfold State.haveSector
  split
  · split
    · exact h.checkWords
    · exact h.fillSector
  · exact h

theorem State.Follows.bufferSector {lod sector : Nat} {ids : Nat × Nat} (h : s₀.Follows s) : s₀.Follows (s.bufferSector lod sector ids) :=
  State.Follows.ite h h.hbmRead.deliverInto

theorem State.Follows.bufferStore {lod sector off : Nat} {b : List Byte} {p : Bool} {ids : Nat × Nat} (h : s₀.Follows s) : s₀.Follows
    (s.bufferStore lod sector off b p ids) :=
  State.Follows.ite h h.mergeSector.hbmWrite

theorem State.Follows.lineStore {l : CacheLine} {sector off : Nat} {b : List Byte} {p : Bool} (h : s₀.Follows s) : s₀.Follows
    (s.lineStore l sector off b p) := by
  unfold State.lineStore
  split
  · exact h.mergeSector.useLine.storeWords
  · exact h

theorem State.Follows.scratchStore {sector off : Nat} {b : List Byte} {p : Bool} {ids : Nat × Nat} (h : s₀.Follows s) : s₀.Follows
    (s.scratchStore sector off b p ids) :=
  (((State.Follows.ite h h.checkWords).mergeSector).storeWords).lit

theorem State.Follows.hostStore {lod pa : Nat} {b : List Byte} {p : Bool} (h : s₀.Follows s) : s₀.Follows (s.hostStore lod pa b p) :=
  (h.addBytes.litMem (fun hm => Memory.wf_put _ hm _ _)).emit

theorem State.Follows.hostLoad {lod sector : Nat} (h : s₀.Follows s) : s₀.Follows (s.hostLoad lod sector).1 := h.addBytes.emit

theorem State.Follows.orLocal {lod pa flag : Nat} (h : s₀.Follows s) : s₀.Follows (s.orLocal lod pa flag) := by
  unfold State.orLocal
  split
  · dsimp only
    split
    · exact h.fillPage.readPinned.putPinned
    · exact h.fillPage.readPinned
  · split
    · dsimp only
      split
      · exact h.checkBitmap.zeroFill.haveSector.lineStore
      · exact h.checkBitmap.zeroFill.bufferSector.bufferStore
    · exact h.scratchStore
    · exact h.hostLoad.hostStore
    · exact h

theorem State.Follows.orRegionFlag {lod region flag : Nat} (h : s₀.Follows s) : s₀.Follows (s.orRegionFlag lod region flag) := by
  unfold State.orRegionFlag
  split
  · exact h
  · exact State.Follows.ite (State.Follows.getD h h.newTxn.sendOrWait) h.orLocal

theorem State.Follows.sendHome {l : CacheLine} {cmds : List Nat} (h : s₀.Follows s) : OptionHolds s₀.Follows (s.sendHome l cmds) := by
  unfold State.sendHome
  dsimp only
  split
  · split
    · trivial
    next t2 e2 => exact ((State.Follows.removeLine (h.checkCopy.newTxn.sendOrWait.of_eq e2)).modStnRegs).count
  · trivial

theorem State.Follows.discardReduce {l : CacheLine} (h : s₀.Follows s) : s₀.Follows (s.discardReduce l) := by
  unfold State.discardReduce
  split
  · exact h.removeLine.modStnRegs.orRegionFlag
  · exact h

theorem State.Follows.replace {l : CacheLine} {ids : Nat × Nat} (h : s₀.Follows s) : OptionHolds s₀.Follows (s.replace l ids) := by
  unfold State.replace
  split
  · exact h.writeBack.removeLine
  · exact h.removeLine
  · exact State.Follows.getD h.discardReduce h.sendHome
  · trivial

theorem State.Follows.makeRoom {s : State} {lod col set c need : Nat} {ids : Nat × Nat} {x7 : Nat} (h : s₀.Follows s) : s₀.Follows
    (s.makeRoom lod col set c need ids x7).1 := by
  unfold State.makeRoom
  split
  · exact h
  · split
    · exact h
    · split
      · exact h
      · split
        · exact h
        next t4 e4 => exact State.Follows.makeRoom (h.replace.of_eq e4)

theorem State.Follows.allocate {lod pa line : Nat} {kind : LineKind} {ids : Nat × Nat} (h : s₀.Follows s) : OptionHolds (s₀.Follows ·.1)
    (s.allocate lod pa line kind ids) := by
  unfold State.allocate
  split
  · dsimp only
    split
    · trivial
    · split
      next t3 e3 => exact (h.makeRoom.fst e3).addLine
      · trivial
  · dsimp only
    split
    · trivial
    · split
      next t3 e3 => exact ((h.makeRoom.fst e3).addLine).writeCopy
      · trivial

theorem State.Follows.storePinned {l : CacheLine} {off : Nat} {b : List Byte} {p : Bool} {ids : Nat × Nat} (h : s₀.Follows s) :
    s₀.Follows (s.storePinned l off b p ids) := by
  unfold State.storePinned
  split
  · exact State.Follows.ite h.fillPage.putPinned.orRegionFlag h.fillPage.putPinned
  · exact h

theorem State.Follows.countHit {lod sector : Nat} {ids : Nat × Nat} {hit : Bool} (h : s₀.Follows s) : s₀.Follows (s.countHit lod sector
    ids hit) :=
  h.count

theorem State.Follows.hbmSector {lod sector : Nat} {ids : Nat × Nat} (h : s₀.Follows s) : s₀.Follows (s.hbmSector lod sector ids).1 := by
  unfold State.hbmSector
  dsimp only
  split
  · split
    · split
      · exact h.checkBitmap.checkWords.touchLine.countHit
      · exact h.checkBitmap.fillSector.countHit
    · exact h.checkBitmap
  · split
    · exact h.checkBitmap
    · split
      · exact h.checkBitmap.hbmRead.countHit
      next t3 _ e3 => exact (State.Follows.fillSector (h.checkBitmap.allocate.of_eq e3)).countHit

theorem State.Follows.hbmStore {lod sector off : Nat} {b : List Byte} {p : Bool} {ids : Nat × Nat} (h : s₀.Follows s) : s₀.Follows
    (s.hbmStore lod sector off b p ids) := by
  have hz : s₀.Follows ((s.checkBitmap (32 * sector) ids).zeroFill lod (32 * sector) ids) := h.checkBitmap.zeroFill
  unfold State.hbmStore
  generalize (s.checkBitmap (32 * sector) ids).zeroFill lod (32 * sector) ids = t at hz ⊢
  dsimp only
  split
  next u l e =>
    have hu : s₀.Follows u := by
      split at e
      · cases e; exact hz
      · split at e
        · cases e
        · exact hz.allocate.of_eq e
    exact .ite hu.lineStore hu.haveSector.lineStore
  · exact (State.Follows.ite hz hz.bufferSector.countHit).bufferStore

theorem State.Follows.scratchSector {sector : Nat} {ids : Nat × Nat} (h : s₀.Follows s) : s₀.Follows (s.scratchSector sector ids).1 :=
  h.checkWords

theorem State.Follows.readSector {lod sector : Nat} {ids : Nat × Nat} (h : s₀.Follows s) : s₀.Follows (s.readSector lod sector ids).1 :=
    by
  unfold State.readSector
  split
  · exact h.readPinned
  · split
    · exact h.hbmSector
    · exact h.scratchSector
    · exact h.hostLoad
    · exact h

theorem State.Follows.storeSector {lod sector off : Nat} {b : List Byte} {p : Bool} {ids : Nat × Nat} (h : s₀.Follows s) : s₀.Follows
    (s.storeSector lod sector off b p ids) := by
  unfold State.storeSector
  split
  · exact h.storePinned
  · split
    · exact h.hbmStore
    · exact h.scratchStore
    · exact h.hostStore
    · exact h

theorem State.Follows.readRange {lod pa n : Nat} {ids : Nat × Nat} (h : s₀.Follows s) : s₀.Follows (s.readRange lod pa n ids).1 := by
  unfold State.readRange
  refine State.Follows.foldlFst h (fun _ _ hu => ?_) _
  exact hu.readSector

theorem State.Follows.writeRange {lod pa : Nat} {b : List Byte} {p : Bool} {ids : Nat × Nat} (h : s₀.Follows s) : s₀.Follows
    (s.writeRange lod pa b p ids) := by
  unfold State.writeRange
  refine State.Follows.foldlFst h (fun _ _ hu => ?_) _
  exact hu.storeSector

/-! ### Operands and mappings -/

theorem State.Follows.sendHomes {s : State} {x1 : List CacheLine} (h : s₀.Follows s) : s₀.Follows (s.sendHomes x1).1 := by
  unfold State.sendHomes
  split
  · exact h
  · split
    next t2 e2 => exact State.Follows.sendHomes (h.sendHome.of_eq e2)
    · exact h.sendHomes

theorem State.Follows.sendFetch {lod line : Nat} (h : s₀.Follows s) : RemoteRead.Follows s₀ (s.sendFetch lod line) := by
  unfold State.sendFetch
  dsimp only
  split
  next t1 e1 => exact (h.newTxn.cylSend.of_eq e1 :)
  · exact h
  · exact h

theorem State.Follows.remoteLine {lod line : Nat} (h : s₀.Follows s) : RemoteRead.Follows s₀ (s.remoteLine lod line) := by
  unfold State.remoteLine
  split
  · split
    · exact h
    · exact h
  · dsimp only
    split
    · exact h.checkCopy.touchLine
    · exact h
  · split
    · exact h
    · split
      · split
        · exact h
        · exact h.sendFetch
      · dsimp only
        split
        · exact h.sendHomes
        · exact h.sendHomes.sendFetch

theorem State.Follows.patchShared {lod pa : Nat} {b : List Byte} {poison : Bool} (h : s₀.Follows s) : s₀.Follows (s.patchShared lod pa b
    poison) := by
  unfold State.patchShared
  split
  · split
    · exact h.useLine.writeCopy
    · exact h
  · exact h

theorem State.Follows.remoteStore {lod pa : Nat} {b : List Byte} {kind : TxnKind} {poison : optParam Bool false} (h : s₀.Follows s) :
    Sent.Follows s₀ (s.remoteStore lod pa b kind poison) := by
  unfold State.remoteStore
  dsimp only
  split
  · trivial
  · split
    next t2 e2 => exact State.Follows.patchShared (h.sendHomes.newTxn.cylSend.of_eq e2)
    · exact h.sendHomes.newTxn.cylSend

theorem State.Follows.readPiece {lod pa n operand : Nat} {ans : HostAns} {ids : Nat × Nat} (h : s₀.Follows s) : VRead.Follows s₀
    (s.readPiece lod pa n operand ans ids) := by
  unfold State.readPiece
  split
  · split
    next t2 _ _ e2 => exact (h.remoteLine.of_eq e2 :)
    next t2 e2 => exact (h.remoteLine.of_eq e2 :)
    next t2 _ _ e2 => exact (h.remoteLine.of_eq e2 :)
    next t2 e2 => exact (h.remoteLine.of_eq e2 :)
  · split
    · exact h.readRange.logHost
    · exact h.readRange.logHost
  · split
    · exact h
    · exact h.readRange

theorem State.Follows.readPieces {s : State} {lod operand : Nat} {ans : HostAns} {ids : Nat × Nat} {x5 : List (Nat × Nat)}
    (h : s₀.Follows s) : VRead.Follows s₀ (s.readPieces lod operand ans ids x5) := by
  unfold State.readPieces
  split
  · exact h
  · split
    next t2 _ _ e2 => exact h.readPiece.of_eq e2
    next t2 e2 => exact h.readPiece.of_eq e2
    next t2 _ _ e2 =>
      split
      next t3 _ _ e3 => exact (State.Follows.readPieces (h.readPiece.of_eq e2)).of_eq e3
      next t3 e3 => exact (State.Follows.readPieces (h.readPiece.of_eq e2)).of_eq e3
      next t3 _ _ e3 => exact ((State.Follows.readPieces (h.readPiece.of_eq e2)).of_eq e3 :)

theorem State.Follows.useUpPieces {lod : Nat} {ps : List (Nat × Nat)} (h : s₀.Follows s) : s₀.Follows (s.useUpPieces lod ps) :=
  State.Follows.foldl h (fun _ _ hu => State.Follows.ite hu.useUp hu) _

theorem State.Follows.vread {lod va n need operand : Nat} {ans : HostAns} {ids : Nat × Nat} (h : s₀.Follows s) : VRead.Follows s₀
    (s.vread lod va n need operand ans ids) := by
  unfold State.vread
  split
  · exact h
  · dsimp only
    split
    next t2 _ _ e2 => exact State.Follows.useUpPieces (h.readPieces.of_eq e2)
    · exact h.readPieces

theorem State.Follows.writePieces {s : State} {lod operand : Nat} {kind : TxnKind} {p : Bool} {ids : Nat × Nat} {acks : Nat}
    {x7 : List (Nat × Nat)} {x8 : List Byte} (h : s₀.Follows s) : VWrite.Follows s₀ (s.writePieces lod operand kind p ids acks x7 x8) :=
    by
  unfold State.writePieces
  split
  · exact h
  · split
    · split
      · trivial
      · trivial
      next t3 e3 => exact State.Follows.writePieces (h.remoteStore.of_eq e3)
    · split
      · trivial
      · exact h.writeRange.writePieces

theorem State.Follows.vwriteAs {lod va operand : Nat} {b : List Byte} {p : Bool} {kind : TxnKind} {ids : Nat × Nat} (h : s₀.Follows s) :
    VWrite.Follows s₀ (s.vwriteAs lod va operand b p kind ids) := by
  unfold State.vwriteAs
  split
  · trivial
  · exact h.writePieces

theorem State.Follows.vwrite {lod va operand : Nat} {b : List Byte} {p : Bool} {cmd : Option Nat} {ids : Nat × Nat} (h : s₀.Follows s) :
    VWrite.Follows s₀ (s.vwrite lod va operand b p cmd ids) :=
  h.vwriteAs

/-! ### Galleys and commands -/

theorem State.Follows.noteFault {l g st d : Nat} (h : s₀.Follows s) : s₀.Follows (s.noteFault l g st d) := h.modLod.setNow

theorem State.Follows.writeAt {s : State} {lod : Nat} {x2 : List (Nat × Nat)} {x3 : List Byte} (h : s₀.Follows s) : s₀.Follows
    (s.writeAt lod x2 x3) := by
  unfold State.writeAt
  split
  · exact h
  · exact h.writeRange.writeAt

theorem State.Follows.readAt {s : State} {lod : Nat} {x2 : List (Nat × Nat)} (h : s₀.Follows s) : s₀.Follows (s.readAt lod x2).1 := by
  unfold State.readAt
  split
  · exact h
  · exact h.readRange.readAt

theorem State.Follows.abortFetched {l g d : Nat} {but : Option Nat} (h : s₀.Follows s) : s₀.Follows (s.abortFetched l g d but) := h.lit

theorem State.Follows.stopOnly {l g st seq : Nat} {but : Option Nat} (h : s₀.Follows s) : s₀.Follows (s.stopOnly l g st seq but) :=
  State.Follows.ite h.modGalley.abortFetched.raiseGalley h

theorem State.Follows.writeBackDesc {l g : Nat} (h : s₀.Follows s) : s₀.Follows (s.writeBackDesc l g) := by
  unfold State.writeBackDesc
  split
  · exact h.writeAt
  · exact h.stopOnly.noteFault

theorem State.Follows.stopGalley {l g st seq : Nat} {but : Option Nat} (h : s₀.Follows s) : s₀.Follows (s.stopGalley l g st seq but) :=
  h.stopOnly.writeBackDesc

theorem State.Follows.readSlot {l g i : Nat} (h : s₀.Follows s) : s₀.Follows (s.readSlot l g i).1 := by
  unfold State.readSlot
  dsimp only
  split
  · exact h
  · split
    · exact h.readAt
    · exact h.readAt

theorem State.Follows.chainFrom {s : State} {l g i k left : Nat} {acc : List Byte} {x7 : Nat} (h : s₀.Follows s) : s₀.Follows
    (s.chainFrom l g i k left acc x7).1 := by
  unfold State.chainFrom
  split
  · exact h
  · split
    · exact h
    · split
      next t3 _ e3 => exact h.readSlot.fst e3
      next t3 _ e3 => exact h.readSlot.fst e3
      next t3 _ e3 =>
        split
        · exact h.readSlot.fst e3
        · split
          · exact (h.readSlot.fst e3).chainFrom
          · exact h.readSlot.fst e3

theorem State.Follows.chain {l g : Nat} (h : s₀.Follows s) : s₀.Follows (s.chain l g).1 := h.chainFrom

theorem State.Follows.usePorter {k : Nat} {p : Porter} (h : s₀.Follows s) : s₀.Follows (s.usePorter k p) := h.modPorter

theorem State.Follows.putTrace {l k : Nat} {rec : List Byte} (h : s₀.Follows s) : s₀.Follows (s.putTrace l k rec) := by
  unfold State.putTrace
  split
  · exact h
  · exact State.Follows.ite h h.writeRange.modLod

theorem State.Follows.trace {l k : Nat} {rec : List Byte} (h : s₀.Follows s) : s₀.Follows (s.trace l k rec) :=
  State.Follows.ite h.modLod h.putTrace

theorem State.Follows.traceStart {c : Cmd} (h : s₀.Follows s) : s₀.Follows (s.traceStart c) := State.Follows.ite h.trace h

theorem State.Follows.traceEnd {c : Cmd} (h : s₀.Follows s) : s₀.Follows (s.traceEnd c) := State.Follows.ite h.trace h

theorem State.Follows.endCmd {id : Nat} (h : s₀.Follows s) : s₀.Follows (s.endCmd id) := h.modCmd

theorem State.Follows.endWith {id st d : Nat} (h : s₀.Follows s) : s₀.Follows (s.endWith id st d) := h.failCmd.endCmd

theorem State.Follows.finish {id work : Nat} (h : s₀.Follows s) : s₀.Follows (s.finish id work) := h.modCmd.endCmd

theorem State.Follows.updateSignal {l i : Nat} {f : Nat → Nat} (h : s₀.Follows s) : s₀.Follows (s.updateSignal l i f) :=
  (State.Follows.ite h.modLod h.modLod.modPorter.log).lit

/-! ### The columns -/

theorem State.Follows.requestWake {d : Nat} (h : s₀.Follows s) : s₀.Follows (s.requestWake d) :=
  State.Follows.ite (h.litVitals (by rfl) (by rfl) (by rfl)) h

theorem State.Follows.touchDomain {d : Nat} (h : s₀.Follows s) : s₀.Follows (s.touchDomain d) := h.modDomain

theorem State.Follows.setRun {col : Nat} {r : CoreRun} (h : s₀.Follows s) : s₀.Follows (s.setRun col r) := h.modCore

theorem State.Follows.noteRates (h : s₀.Follows s) : s₀.Follows (s.noteRates) := h.lit

theorem State.Follows.noteColumn {cmd col : Nat} (h : s₀.Follows s) : s₀.Follows (s.noteColumn cmd col) := h.modCmd

theorem State.Follows.noteColumns {cols : List Nat} (h : s₀.Follows s) : s₀.Follows (s.noteColumns cols) :=
  State.Follows.foldl h (fun _ _ hu => State.Follows.foldl hu (fun _ _ hu => hu.noteColumn) _) _

theorem State.Follows.noteStretch {stackMilliamps : List Nat} (h : s₀.Follows s) : s₀.Follows (s.noteStretch stackMilliamps) :=
  State.Follows.foldl h (fun _ _ hu => State.Follows.ite (State.Follows.foldl hu (fun _ _ hu => hu.modCmd) _) hu) _

theorem State.Follows.countStretch {stackMilliamps : List Nat} (h : s₀.Follows s) : s₀.Follows (s.countStretch stackMilliamps) :=
  State.Follows.ite h ((State.Follows.foldl h (fun _ _ hu => hu.count) _).takeFree)

/-! ### The matrix operators -/

theorem State.Follows.readEntries {s : State} {p : GemmParams} {l va : Nat} {ans : HostAns} {ids : Nat × Nat} {acc : List GemmEntry}
    {read : List Byte} {ps : List Bool} {x9 : Nat} (h : s₀.Follows s) : CheckRes.Follows s₀ (s.readEntries p l va ans ids acc read ps
    x9) := by
  unfold State.readEntries
  split
  · exact h
  · split
    next t2 _ _ e2 => exact (h.vread.of_eq e2 :)
    next t2 e2 => exact (h.vread.of_eq e2 :)
    next t2 _ _ e2 =>
      dsimp only
      split
      · exact (h.vread.of_eq e2 :)
      · exact State.Follows.readEntries (h.vread.of_eq e2)

theorem State.Follows.gemmCheck {c : Cmd} {ans : HostAns} (h : s₀.Follows s) : CheckRes.Follows s₀ (s.gemmCheck c ans) := by
  unfold State.gemmCheck
  split
  · split
    · dsimp only
      split
      · exact h
      · exact h
    · split
      · dsimp only
        split
        · exact h
        · exact h
      · dsimp only
        split
        · exact h
        · exact h.readEntries
  · dsimp only
    split
    · exact h
    · split
      · exact h
      · exact h

theorem State.Follows.modMat {id : Nat} {f : MatOp → MatOp} (h : s₀.Follows s) : s₀.Follows (s.modMat id f) := h.lit

theorem State.Follows.giveUpUnit {cmd col : Nat} (h : s₀.Follows s) : s₀.Follows (s.giveUpUnit cmd col) := by
  unfold State.giveUpUnit
  split
  · exact h.modMat.setRun
  · exact h.setRun

theorem State.Follows.endFailedMat {id : Nat} (h : s₀.Follows s) : s₀.Follows (s.endFailedMat id) := by
  unfold State.endFailedMat
  split
  · exact h
  · split
    · exact h.finish
    · exact h.endCmd

theorem State.Follows.unitDone {col : Nat} (h : s₀.Follows s) : s₀.Follows (s.unitDone col) := by
  unfold State.unitDone
  split
  · split
    · split
      · exact h.setRun
      · exact h.setRun.touchDomain.modMat.endFailedMat
    · exact h
  · exact h

theorem State.Follows.dropStranded {m : MatOp} {e : GemmEntry} {key : UnitKey} (h : s₀.Follows s) : s₀.Follows (s.dropStranded m e key) :=
  State.Follows.ite h h.modMat

theorem State.Follows.handMat {m : MatOp} {e : GemmEntry} {key : UnitKey} {col : Nat} (h : s₀.Follows s) : s₀.Follows (s.handMat m e key
    col) :=
  State.Follows.ite h (State.Follows.ite h.requestWake h.noteColumn.setRun.touchDomain.unitDone)

theorem State.Follows.dispatchMat {m : MatOp} {e : GemmEntry} {key : UnitKey} {col : Nat} (h : s₀.Follows s) : s₀.Follows (s.dispatchMat
    m e key col) := by
  unfold State.dispatchMat
  dsimp only
  split
  · exact h.dropStranded.handMat
  · exact h.dropStranded

theorem State.Follows.readRows {s : State} {l base ld w r i0 cnt operand : Nat} {ans : HostAns} {ids : Nat × Nat} {x11 : Nat}
    (h : s₀.Follows s) : MatRead.Follows s₀ (s.readRows l base ld w r i0 cnt operand ans ids x11) := by
  unfold State.readRows
  split
  · exact h
  · dsimp only
    split
    next t2 _ _ e2 => exact (h.vread.of_eq e2 :)
    next t2 e2 => exact (h.vread.of_eq e2 :)
    next t2 _ _ e2 =>
      split
      next t3 _ _ e3 => exact (State.Follows.readRows (h.vread.of_eq e2)).of_eq e3
      next t3 e3 => exact (State.Follows.readRows (h.vread.of_eq e2)).of_eq e3
      next t3 _ _ e3 => exact ((State.Follows.readRows (h.vread.of_eq e2)).of_eq e3 :)

theorem State.Follows.readBlock {l base ld w : Nat} {trans : Bool} {r nr c nc operand : Nat} {ans : HostAns} {ids : Nat × Nat}
    (h : s₀.Follows s) : MatRead.Follows s₀ (s.readBlock l base ld w trans r nr c nc operand ans ids) := by
  unfold State.readBlock
  split
  · split
    next t2 _ _ e2 => exact (h.readRows.of_eq e2 :)
    · exact h.readRows
  · exact h.readRows

theorem State.Follows.readPass {m : MatOp} {e : GemmEntry} {key : UnitKey} {ch : Chunk} {ans : HostAns} {ids : Nat × Nat}
    (h : s₀.Follows s) : PassRead.Follows s₀ (s.readPass m e key ch ans ids) := by
  unfold State.readPass
  extract_lets p ew r nr c nc kp k nk wa wb ra res
  have hres : res.Follows s₀ :=
    .andThen h.readBlock fun _ _ _ h => .andThen (.ite h.readBlock h.readBlock) fun _ _ _ h =>
      .andThen (.ite h.readBlock h) fun _ _ _ h => .andThen (.ite h.readBlock h) fun _ _ _ h =>
        .andThen (.ite h.readBlock h) fun _ _ _ h => .andThen (.ite h.readBlock h) fun _ _ _ h => h
  clear_value res
  cases res with
  | fail t st d => exact hres
  | wait t => exact hres
  | ok t rows q => exact hres

theorem State.Follows.countEvents {col event cmd n : Nat} (h : s₀.Follows s) : s₀.Follows (s.countEvents col event cmd n) := by
  unfold State.countEvents
  split
  · exact h.count
  · exact h

theorem State.Follows.countPass {col event cmd : Nat} (h : s₀.Follows s) : s₀.Follows (s.countPass col event cmd) := h.countEvents

theorem State.Follows.runPass {col array : Nat} {errs : List PassErr} {ans : HostAns} {recompute : Bool} (h : s₀.Follows s) :
    PassResult.Follows s₀ (s.runPass col array errs ans recompute) := by
  unfold State.runPass
  split
  · split
    · split
      · dsimp only
        split
        next t4 _ _ e4 => exact ((State.Follows.failCmd (h.readPass.of_eq e4)).giveUpUnit).endFailedMat
        next t4 e4 => exact (h.readPass.of_eq e4 :)
        next t4 _ _ _ _ _ _ _ e4 =>
          split
          · exact State.Follows.countEvents (h.readPass.of_eq e4)
          · split
            · exact State.Follows.countEvents (h.readPass.of_eq e4)
            · exact State.Follows.countEvents (h.readPass.of_eq e4)
      · exact h
    · exact h
  · exact h

theorem execArrayPass_answers {col array : Nat} {errs : List PassErr} {ans : HostAns} (h : s₀.Follows s) : s₀.Answers False
    (execArrayPass col array errs ans s) := by
  unfold execArrayPass
  split
  next t1 e1 => exact (h.runPass.of_eq e1 :)
  next t1 _ _ e1 => exact ((State.Follows.setRun (h.runPass.of_eq e1)).countPass).unitDone
  next t1 _ _ e1 => exact State.Follows.setRun (h.runPass.of_eq e1)

theorem State.Follows.suspectArray {col array : Nat} {u : MatUnit} {ch : Chunk} (h : s₀.Follows s) : s₀.Follows (s.suspectArray col
    array u ch) := by
  unfold State.suspectArray
  dsimp only
  split
  · exact h.modCore.lit.log.modCmd.askCore.setRun
  · exact h.modCore.lit.log.modCmd.askCore.setRun

theorem execPassRecompute_answers {col array : Nat} {errs : List PassErr} {ans : HostAns} (h : s₀.Follows s) : s₀.Answers False
    (execPassRecompute col array errs ans s) := by
  unfold execPassRecompute
  split
  next t1 e1 => exact (h.runPass.of_eq e1 :)
  next t1 _ _ e1 => exact ((((((State.Follows.lit (h.runPass.of_eq e1)).log).countPass).modCmd).setRun).countPass).unitDone
  next t1 _ _ e1 => exact (((State.Follows.lit (h.runPass.of_eq e1)).log).countPass).suspectArray

theorem execSegmentCombine_answers {cmd entry mb nb : Nat} (h : s₀.Follows s) : s₀.Answers False (execSegmentCombine cmd entry mb nb s)
    := by
  unfold execSegmentCombine
  split
  · exact h
  · split
    · exact h.modMat
    · exact h

theorem State.Follows.readEpilogue {m : MatOp} {e : GemmEntry} {mb j nb : Nat} {ans : HostAns} {ids : Nat × Nat} (h : s₀.Follows s) :
    MatRead.Follows s₀ (s.readEpilogue m e mb j nb ans ids) :=
  .andThen (.ite h.readBlock h) fun _ _ _ h => .andThen (.ite h.readBlock h) fun _ _ _ h =>
    .andThen (.ite h.readBlock h) fun _ _ _ h => .andThen (.ite h.readBlock h) fun _ _ _ h => h

theorem State.Follows.writeTile {m : MatOp} {e : GemmEntry} {row0 col0 : Nat} {rows : List (List Nat)} {poison : Bool} {ids : Nat × Nat}
    (h : s₀.Follows s) : VWrite.Follows s₀ (s.writeTile m e row0 col0 rows poison ids) := by
  refine List.foldlRecOn (motive := VWrite.Follows s₀) _ _ h fun acc hacc _ _ => ?_
  cases acc with
  | fail st d => trivial
  | wait => trivial
  | ok t n =>
    dsimp only
    split
    next u k e => exact ((State.Follows.vwrite (s := t) hacc).of_eq e :)
    · exact State.Follows.vwrite (s := t) hacc

theorem State.Follows.noteTile {m : MatOp} {e : GemmEntry} {entry row0 col0 : Nat} {rows : List (List Nat)} {poison : Bool}
    (h : s₀.Follows s) : s₀.Follows (s.noteTile m e entry row0 col0 rows poison) :=
  State.Follows.ite h h.modMat

theorem State.Follows.tileWritten {m : MatOp} {key : UnitKey} {sat : Bool} {acks : Nat} (h : s₀.Follows s) : s₀.Follows (s.tileWritten m
    key sat acks) :=
  h.modMat.modCmd

theorem State.Follows.epilogueChunks {s : State} {m : MatOp} {e : GemmEntry} {key : UnitKey} {ans : HostAns} {ids : Nat × Nat}
    {x6 : List (Acc × Nat)} (h : s₀.Follows s) : VRead.Follows s₀ (s.epilogueChunks m e key ans ids x6) := by
  unfold State.epilogueChunks
  split
  · exact h
  · split
    next t2 _ _ e2 => exact (h.readEpilogue.of_eq e2 :)
    next t2 e2 => exact (h.readEpilogue.of_eq e2 :)
    next t2 _ _ e2 =>
      dsimp only
      split
      · exact (h.readEpilogue.of_eq e2 :)
      · exact (h.readEpilogue.of_eq e2 :)
      next t3 _ e3 => exact ((State.Follows.noteTile ((State.Follows.writeTile (h.readEpilogue.of_eq e2)).of_eq e3)).tileWritten).epilogueChunks

theorem State.Follows.finishMat {id : Nat} (h : s₀.Follows s) : s₀.Follows (s.finishMat id) := by
  unfold State.finishMat
  split
  · exact h
  · split
    · exact (State.Follows.ite ((State.Follows.ite h h.noticeCmd).failCmd) (State.Follows.ite h h.noticeCmd)).finish
    · exact h

theorem execUnitEpilogue_answers {cmd entry mb nb : Nat} {ans : HostAns} (h : s₀.Follows s) : s₀.Answers False (execUnitEpilogue cmd
    entry mb nb ans s) := by
  unfold execUnitEpilogue
  split
  · exact h
  · split
    · dsimp only
      split
      · split
        next t4 _ _ e4 => exact (State.Follows.failCmd (h.epilogueChunks.of_eq e4)).endFailedMat
        next t4 e4 => exact (h.epilogueChunks.of_eq e4 :)
        next t4 _ _ e4 => exact (State.Follows.modMat (h.epilogueChunks.of_eq e4)).finishMat
      · exact h
    · dsimp only
      split
      · split
        next t4 _ _ e4 => exact (State.Follows.failCmd (h.epilogueChunks.of_eq e4)).endFailedMat
        next t4 e4 => exact (h.epilogueChunks.of_eq e4 :)
        next t4 _ _ e4 => exact (State.Follows.modMat (h.epilogueChunks.of_eq e4)).finishMat
      · exact h

theorem State.Follows.startMat {c : Cmd} (h : s₀.Follows s) : s₀.Follows (s.startMat c) := h.lit.finishMat

/-! ### Regions and reductions -/

theorem State.Follows.mapCheck {l : Nat} {m : MapParams} {ans : HostAns} (h : s₀.Follows s) : CheckRes.Follows s₀ (s.mapCheck l m ans)
    := by
  unfold State.mapCheck
  extract_lets ps x charge
  refine .ite h (.ite h (.ite h (.ite h (.ite h (.ite h (.ite h (.ite h ?_)))))))
  split
  · exact h
  · exact h
  · refine .ite (.ite h h) (.ite h ?_)
    split
    next e => exact h.vread.of_eq e
    next e => exact h.vread.of_eq e
    next t _ _ e =>
      have ht : s₀.Follows t := h.vread.of_eq e
      refine .ite ht ?_
      split
      · exact ht
      · exact .ite ht (.ite ht ht)

theorem State.Follows.pinLine {l pa region : Nat} {base : Int} (h : s₀.Follows s) : s₀.Follows (s.pinLine l pa region base).1 := by
  unfold State.pinLine
  refine State.Follows.writeCopy ?_
  refine State.Follows.addLine ?_
  refine State.Follows.makeRoom ?_
  refine State.Follows.foldl ?_ (fun u x hu => ?_) _
  · split
    · exact h.readRange.writeBack.removeLine.ackedLine
    · exact h.readRange
  · refine State.Follows.ackedLine ?_
    exact hu

theorem State.Follows.pinRange {l pa region : Nat} {base : Int} {n : Nat} (h : s₀.Follows s) : s₀.Follows (s.pinRange l pa region base
    n).1 := by
  unfold State.pinRange
  refine State.Follows.foldlFst h (fun _ _ hu => ?_) _
  exact hu.pinLine

theorem State.Follows.install {l : Nat} {m : MapParams} {region : Option Nat} {desc : Nat} (h : s₀.Follows s) : s₀.Follows (s.install l
    m region desc) :=
  h.modLod

theorem State.Follows.installMap {l : Nat} {m : MapParams} {desc : List Byte} (h : s₀.Follows s) : s₀.Follows (s.installMap l m desc).1
    := by
  unfold State.installMap
  dsimp only
  split
  · exact h
  · split
    · split
      · split
        · exact .ite h.install.pinRange.orRegionFlag h.install.pinRange
        · exact h.install
      · exact h.install
    · exact h.install

theorem State.Follows.startMap {c : Cmd} (h : s₀.Follows s) : s₀.Follows (s.startMap c) :=
  (State.Follows.ite h.installMap.noticeCmd h.installMap).finish

theorem State.Follows.unpin {l : CacheLine} (h : s₀.Follows s) : s₀.Follows (s.unpin l) := by
  unfold State.unpin
  dsimp only
  split
  · exact State.Follows.foldl h.checkCopy.removeLine (fun _ _ hu => hu.storeSector) _
  · exact h

theorem State.Follows.unpinUnmapped {l : Nat} (h : s₀.Follows s) : s₀.Follows (s.unpinUnmapped l) :=
  State.Follows.foldl h (fun _ _ hu => hu.unpin) _

theorem State.Follows.removePages {l va n : Nat} (h : s₀.Follows s) : s₀.Follows (s.removePages l va n) := h.modLod.lit.unpinUnmapped

theorem State.Follows.startUnmap {c : Cmd} (h : s₀.Follows s) : s₀.Follows (s.startUnmap c) := h.removePages.modCmd.finish

theorem State.Follows.combineElem {y : CacheLine} {i sec : Nat} {poison : Bool} {f : RedElem → RedElem × Bool} {ids : Nat × Nat}
    (h : s₀.Follows s) : s₀.Follows (s.combineElem y i sec poison f ids).1 := by
  unfold State.combineElem
  split
  · dsimp only
    split
    · exact h.checkCopy.useLine.writeCopy
    · exact h.checkCopy.useLine.writeCopy
    · exact h
  · dsimp only
    split
    · exact h.checkCopy.useLine.writeCopy
    · exact h.checkCopy.useLine.writeCopy
    · exact h

theorem State.Follows.addLocal {l pa : Nat} {r : Region} {v : Nat} {poison : Bool} {ids : Nat × Nat} (h : s₀.Follows s) : s₀.Follows
    (s.addLocal l pa r v poison ids).1 := by
  unfold State.addLocal
  split
  · split
    · dsimp only
      split
      · split
        · split
          · exact h.count.fillPage.combineElem.orRegionFlag
          · exact h.count.fillPage.combineElem
        · exact h.count.fillPage.combineElem
      · exact h.count.readRange.writeRange
    · dsimp only
      split
      · split
        · split
          · exact h.count.fillPage.combineElem.orRegionFlag
          · exact h.count.fillPage.combineElem
        · exact h.count.fillPage.combineElem
      · exact h.count.readRange.writeRange
  · split
    · split
      · exact State.Follows.ite h.count.fillPage.combineElem.orRegionFlag h.count.fillPage.combineElem
      · exact State.Follows.ite h.count.fillPage.combineElem h.count.fillPage.combineElem
    · exact h.count.readRange.writeRange

theorem State.Follows.unkeep {lod : Nat} {covered : Nat → Bool} (h : s₀.Follows s) : s₀.Follows (s.unkeep lod covered) := h.lit

theorem State.Follows.addRemote {l pa : Nat} {r : Region} {region v : Nat} {poison : Bool} {ids : Nat × Nat} (h : s₀.Follows s) :
    s₀.Follows (s.addRemote l pa r region v poison ids).1 := by
  unfold State.addRemote
  extract_lets t no add u u' fresh y x
  have hadd : ∀ {t : State} (y : CacheLine), s₀.Follows t → s₀.Follows (add t y).1 := fun y ht =>
    .ite ht.combineElem.orRegionFlag ht.combineElem
  have hu : s₀.Follows u := by
    unfold u
    split
    · exact h.count.removeLine
    · exact h.count
  split
  · exact hadd _ h.count
  · split
    next e => exact hadd _ (hu.unkeep.allocate.of_eq e)
    · have hx : s₀.Follows x.1 := hadd y hu.unkeep.addLine
      split
      · exact .getD hx.discardReduce hx.sendHome
      · exact hx

theorem State.Follows.contribute {l pa : Nat} {r : Region} {region v : Nat} {poison : Bool} {ids : Nat × Nat} (h : s₀.Follows s) :
    s₀.Follows (s.contribute l pa r region v poison ids).1 := by
  unfold State.contribute
  split
  · exact h.addRemote
  · exact h.addLocal

theorem State.Follows.pushEnds {c : Cmd} {i st d : Nat} (h : s₀.Follows s) : s₀.Follows (s.pushEnds c i st d) := h.modCmd.endWith

theorem State.Follows.pushElems {s : State} {c : Cmd} {r : Region} {region : Nat} {ans : HostAns} {i x6 : Nat} (h : s₀.Follows s) :
    s₀.Follows (s.pushElems c r region ans i x6) := by
  unfold State.pushElems
  split
  · exact h.finish
  · dsimp only
    split
    next t2 _ _ e2 => exact State.Follows.pushEnds (h.vread.of_eq e2)
    next t2 e2 => exact State.Follows.modCmd (h.vread.of_eq e2)
    next t2 _ _ e2 =>
      split
      · exact State.Follows.pushEnds (h.vread.of_eq e2)
      · exact (State.Follows.ite ((State.Follows.contribute (h.vread.of_eq e2)).noticeCmd) (State.Follows.contribute (h.vread.of_eq e2))).pushElems

theorem State.Follows.startPush {c : Cmd} {ans : HostAns} (h : s₀.Follows s) : s₀.Follows (s.startPush c ans) := by
  unfold State.startPush
  split
  · exact State.Follows.ite h.finish h.pushEnds
  · split
    · exact State.Follows.ite h.finish h.modCmd.pushElems
    · exact State.Follows.ite h.finish h.pushEnds

theorem State.Follows.lostRegion {s : State} {c : Cmd} {x2 : List (Nat × Nat)} (h : s₀.Follows s) : s₀.Follows (s.lostRegion c x2).1 := by
  unfold State.lostRegion
  split
  · exact h
  · split
    next t2 _ _ e2 => exact State.Follows.lostRegion (h.vread.of_eq e2)
    next t2 e2 => exact h.vread.of_eq e2
    next t2 _ _ e2 =>
      split
      · exact h.vread.of_eq e2
      · exact State.Follows.lostRegion (h.vread.of_eq e2)

theorem State.Follows.flushLines {s : State} {id : Nat} {x2 : List CacheLine} (h : s₀.Follows s) : s₀.Follows (s.flushLines id x2) := by
  unfold State.flushLines
  split
  · exact h
  · split
    next t2 e2 => exact (State.Follows.modCmd (h.sendHome.of_eq e2)).flushLines
    · exact h.failCmd.flushLines

theorem State.Follows.joinHomes {id : Nat} {covered : CacheLine → Bool} (h : s₀.Follows s) : s₀.Follows (s.joinHomes id covered) :=
  h.lit.modCmd

theorem State.Follows.settle {id : Nat} (h : s₀.Follows s) : s₀.Follows (s.settle id) := by
  unfold State.settle
  split
  · exact State.Follows.ite h.endCmd h
  · exact h

theorem State.Follows.startFlush {c : Cmd} (h : s₀.Follows s) : s₀.Follows (s.startFlush c) := by
  unfold State.startFlush
  refine State.Follows.settle ?_
  refine State.Follows.modCmd ?_
  split
  · exact h.joinHomes.flushLines.lostRegion.failCmd
  · exact h.joinHomes.flushLines.lostRegion

theorem State.Follows.startInvalidate {c : Cmd} (h : s₀.Follows s) : s₀.Follows (s.startInvalidate c) :=
  ((State.Follows.foldl h (fun _ _ hu => State.Follows.ite hu.removeLine hu.removeLine.modStnRegs) _).unkeep).finish

theorem State.Follows.homeCombine {l lineAddr : Nat} {r : Region} {poison : Nat} {e : SentElem} (h : s₀.Follows s) : s₀.Follows
    (s.homeCombine l lineAddr r poison e).1 := by
  unfold State.homeCombine
  split
  · split
    · exact State.Follows.ite h.fillPage.combineElem.orRegionFlag h.fillPage.combineElem
    · exact State.Follows.ite h.fillPage.combineElem h.fillPage.combineElem
  · exact h.readRange.writeRange

theorem State.Follows.performHome {l pa : Nat} {m : Mapping} {r : Region} {b : List Byte} (h : s₀.Follows s) : s₀.Follows (s.performHome
    l pa m r b).1 := by
  unfold State.performHome
  split
  · split
    · dsimp only
      split
      · exact (State.Follows.foldlFst h (fun _ _ hu => by exact hu.homeCombine) _).orRegionFlag
      · exact State.Follows.foldlFst h (fun _ _ hu => by exact hu.homeCombine) _
    · exact State.Follows.foldlFst h (fun _ _ hu => by exact hu.homeCombine) _
  · split
    · dsimp only
      split
      · exact (State.Follows.foldlFst h (fun _ _ hu => by exact hu.homeCombine) _).orRegionFlag
      · exact State.Follows.foldlFst h (fun _ _ hu => by exact hu.homeCombine) _
    · exact State.Follows.foldlFst h (fun _ _ hu => by exact hu.homeCombine) _

theorem State.Follows.restoreReduce {l : CacheLine} (h : s₀.Follows s) : s₀.Follows (s.restoreReduce l) := by
  unfold State.restoreReduce
  split
  · split
    · split
      · exact State.Follows.ite h.swapLine.writeCopy.orRegionFlag h.swapLine.writeCopy
      · exact h
    · split
      next t3 _ e3 => exact h.allocate.of_eq e3
      · exact h.discardReduce
  · exact h

theorem State.Follows.homeUnreached {cmds : List Nat} {l : CacheLine} (h : s₀.Follows s) : s₀.Follows (s.homeUnreached cmds l) :=
  State.Follows.ite h.discardReduce h.restoreReduce

/-! ### The attention operators -/

theorem State.Follows.readSeqs {s : State} {l va : Nat} {ans : HostAns} {ids : Nat × Nat} {read : List Byte} {ps : List Bool} {x7 : Nat}
    (h : s₀.Follows s) : CheckRes.Follows s₀ (s.readSeqs l va ans ids read ps x7) := by
  unfold State.readSeqs
  split
  · exact h
  · split
    next t2 _ _ e2 => exact (h.vread.of_eq e2 :)
    next t2 e2 => exact (h.vread.of_eq e2 :)
    next t2 _ _ e2 => exact State.Follows.readSeqs (h.vread.of_eq e2)

theorem State.Follows.readMasks {s : State} {l : Nat} {ans : HostAns} {ids : Nat × Nat} {read : List Byte} {ps : List Bool}
    {x6 : List SeqEntry} (h : s₀.Follows s) : CheckRes.Follows s₀ (s.readMasks l ans ids read ps x6) := by
  unfold State.readMasks
  split
  · exact h
  · split
    · exact h.readMasks
    · split
      next t3 _ _ e3 => exact (h.vread.of_eq e3 :)
      next t3 e3 => exact (h.vread.of_eq e3 :)
      next t3 _ _ e3 => exact State.Follows.readMasks (h.vread.of_eq e3)

theorem State.Follows.attnCheck {c : Cmd} {ans : HostAns} (h : s₀.Follows s) : CheckRes.Follows s₀ (s.attnCheck c ans) := by
  unfold State.attnCheck
  extract_lets p verdict
  have hv : ∀ {t : State} rd ps cs, s₀.Follows t → (verdict t rd ps cs).Follows s₀ := by
    intro t rd ps cs ht
    unfold verdict
    split
    · exact ht
    · exact ht
  split
  · exact h
  · split
    next t rd ps e =>
      have h1 := hv rd ps p.entryConds (h.readSeqs.of_eq e)
      split
      next e' =>
        have h2 := h1.of_eq e'
        split
        next e'' =>
          split at e''
          · exact hv _ _ _ (h2.readMasks.of_eq e'')
          · exact hv _ _ _ (h2.of_eq e'')
        · split
          · exact h2.readMasks
          · exact h2
      · exact h1
    · exact h.readSeqs

theorem State.Follows.readMaskRows {s : State} {l : Nat} {p : AttnParams} {e : SeqEntry} {rows : List (Nat × Nat)} {ans : HostAns}
    {ids : Nat × Nat} {acc : Tab (Nat × List Byte × List Bool)} {x8 : List Nat} (h : s₀.Follows s) : ExceptHolds (s₀.Follows ·.1)
    (s₀.Follows ·.1) (s.readMaskRows l p e rows ans ids acc x8) := by
  unfold State.readMaskRows
  split
  · exact h
  · split
    · exact h.readMaskRows
    · split
      next t3 _ _ e3 => exact (h.vread.of_eq e3 :)
      next t3 e3 => exact (h.vread.of_eq e3 :)
      next t3 _ _ e3 => exact State.Follows.readMaskRows (h.vread.of_eq e3)

theorem State.Follows.readCodes {l va w cnt operand : Nat} {ans : HostAns} {ids : Nat × Nat} (h : s₀.Follows s) : MatRead.Follows s₀
    (s.readCodes l va w cnt operand ans ids) :=
  h.readRows

theorem State.Follows.readQuery {l : Nat} {p : AttnParams} {e : SeqEntry} {row head : Nat} {ans : HostAns} {ids : Nat × Nat}
    (h : s₀.Follows s) : VecRead.Follows s₀ (s.readQuery l p e row head ans ids) := by
  unfold State.readQuery
  split
  · split
    · split
      · dsimp only
        split
        next t4 _ _ e4 => exact (h.readCodes.of_eq e4 :)
        next t4 e4 => exact (h.readCodes.of_eq e4 :)
        next t4 _ _ e4 =>
          split
          next t5 _ _ e5 => exact ((State.Follows.readCodes (h.readCodes.of_eq e4)).of_eq e5 :)
          next t5 e5 => exact ((State.Follows.readCodes (h.readCodes.of_eq e4)).of_eq e5 :)
          next t5 _ _ e5 => exact ((State.Follows.readCodes (h.readCodes.of_eq e4)).of_eq e5 :)
      · dsimp only
        split
        next t4 _ _ e4 => exact (h.readCodes.of_eq e4 :)
        next t4 e4 => exact (h.readCodes.of_eq e4 :)
        next t4 _ _ e4 =>
          split
          next t5 _ _ e5 => exact ((State.Follows.readCodes (h.readCodes.of_eq e4)).of_eq e5 :)
          next t5 e5 => exact ((State.Follows.readCodes (h.readCodes.of_eq e4)).of_eq e5 :)
          next t5 _ _ e5 => exact ((State.Follows.readCodes (h.readCodes.of_eq e4)).of_eq e5 :)
    · split
      · dsimp only
        split
        next t4 _ _ e4 => exact (h.readCodes.of_eq e4 :)
        next t4 e4 => exact (h.readCodes.of_eq e4 :)
        next t4 _ _ e4 => exact (h.readCodes.of_eq e4 :)
      · dsimp only
        split
        next t4 _ _ e4 => exact (h.readCodes.of_eq e4 :)
        next t4 e4 => exact (h.readCodes.of_eq e4 :)
        next t4 _ _ e4 => exact (h.readCodes.of_eq e4 :)
  · split
    · split
      · dsimp only
        split
        next t4 _ _ e4 => exact (h.readCodes.of_eq e4 :)
        next t4 e4 => exact (h.readCodes.of_eq e4 :)
        next t4 _ _ e4 =>
          split
          next t5 _ _ e5 => exact ((State.Follows.readCodes (h.readCodes.of_eq e4)).of_eq e5 :)
          next t5 e5 => exact ((State.Follows.readCodes (h.readCodes.of_eq e4)).of_eq e5 :)
          next t5 _ _ e5 => exact ((State.Follows.readCodes (h.readCodes.of_eq e4)).of_eq e5 :)
      · dsimp only
        split
        next t4 _ _ e4 => exact (h.readCodes.of_eq e4 :)
        next t4 e4 => exact (h.readCodes.of_eq e4 :)
        next t4 _ _ e4 =>
          split
          next t5 _ _ e5 => exact ((State.Follows.readCodes (h.readCodes.of_eq e4)).of_eq e5 :)
          next t5 e5 => exact ((State.Follows.readCodes (h.readCodes.of_eq e4)).of_eq e5 :)
          next t5 _ _ e5 => exact ((State.Follows.readCodes (h.readCodes.of_eq e4)).of_eq e5 :)
    · split
      · dsimp only
        split
        next t4 _ _ e4 => exact (h.readCodes.of_eq e4 :)
        next t4 e4 => exact (h.readCodes.of_eq e4 :)
        next t4 _ _ e4 => exact (h.readCodes.of_eq e4 :)
      · dsimp only
        split
        next t4 _ _ e4 => exact (h.readCodes.of_eq e4 :)
        next t4 e4 => exact (h.readCodes.of_eq e4 :)
        next t4 _ _ e4 => exact (h.readCodes.of_eq e4 :)

theorem State.Follows.readQueries {s : State} {l : Nat} {p : AttnParams} {e : SeqEntry} {ans : HostAns} {ids : Nat × Nat}
    {x6 : List (Nat × Nat)} (h : s₀.Follows s) : ExceptHolds (s₀.Follows ·.1) (s₀.Follows ·.1) (s.readQueries l p e ans ids x6) := by
  unfold State.readQueries
  split
  · exact h
  · split
    next t2 _ _ e2 => exact (h.readQuery.of_eq e2 :)
    next t2 e2 => exact (h.readQuery.of_eq e2 :)
    next t2 _ _ e2 =>
      split
      next e3 => exact (State.Follows.readQueries (h.readQuery.of_eq e2)).of_eq e3
      next t3 _ e3 => exact ((State.Follows.readQueries (h.readQuery.of_eq e2)).of_eq e3 :)

theorem State.Follows.pageOf {l : Nat} {e : SeqEntry} {j : Nat} {ans : HostAns} {ids : Nat × Nat} (h : s₀.Follows s) : PageRead.Follows
    s₀ (s.pageOf l e j ans ids) := by
  unfold State.pageOf
  split
  next t1 _ _ e1 => exact (h.vread.of_eq e1 :)
  next t1 e1 => exact (h.vread.of_eq e1 :)
  next t1 _ _ e1 =>
    split
    · exact (h.vread.of_eq e1 :)
    · split
      · exact (h.vread.of_eq e1 :)
      · exact (h.vread.of_eq e1 :)

theorem State.Follows.readKey {l : Nat} {p : AttnParams} {e : SeqEntry} {page kvh j : Nat} {ans : HostAns} {ids : Nat × Nat}
    (h : s₀.Follows s) : VecRead.Follows s₀ (s.readKey l p e page kvh j ans ids) := by
  unfold State.readKey
  split
  · split
    · dsimp only
      split
      next t3 _ _ e3 => exact (h.readCodes.of_eq e3 :)
      next t3 e3 => exact (h.readCodes.of_eq e3 :)
      next t3 _ _ e3 =>
        split
        next t4 _ _ e4 => exact ((State.Follows.readCodes (h.readCodes.of_eq e3)).of_eq e4 :)
        next t4 e4 => exact ((State.Follows.readCodes (h.readCodes.of_eq e3)).of_eq e4 :)
        next t4 _ _ e4 => exact ((State.Follows.readCodes (h.readCodes.of_eq e3)).of_eq e4 :)
    · dsimp only
      split
      next t3 _ _ e3 => exact (h.readCodes.of_eq e3 :)
      next t3 e3 => exact (h.readCodes.of_eq e3 :)
      next t3 _ _ e3 =>
        split
        next t4 _ _ e4 => exact ((State.Follows.readCodes (h.readCodes.of_eq e3)).of_eq e4 :)
        next t4 e4 => exact ((State.Follows.readCodes (h.readCodes.of_eq e3)).of_eq e4 :)
        next t4 _ _ e4 => exact ((State.Follows.readCodes (h.readCodes.of_eq e3)).of_eq e4 :)
  · split
    · dsimp only
      split
      next t3 _ _ e3 => exact (h.readCodes.of_eq e3 :)
      next t3 e3 => exact (h.readCodes.of_eq e3 :)
      next t3 _ _ e3 => exact (h.readCodes.of_eq e3 :)
    · dsimp only
      split
      next t3 _ _ e3 => exact (h.readCodes.of_eq e3 :)
      next t3 e3 => exact (h.readCodes.of_eq e3 :)
      next t3 _ _ e3 => exact (h.readCodes.of_eq e3 :)

theorem State.Follows.readTokens {s : State} {f : State → Nat → VecRead} {js : List Nat} (h : s₀.Follows s)
    (hf : ∀ t j, s₀.Follows t → VecRead.Follows s₀ (f t j)) : ExceptHolds (s₀.Follows ·.1) (s₀.Follows ·.1) (s.readTokens f js) := by
  induction js generalizing s with
  | nil => exact h
  | cons j r ih =>
    unfold State.readTokens
    split
    next e => exact ((hf s j h).of_eq e :)
    next e => exact ((hf s j h).of_eq e :)
    next e =>
      have hr := ih ((hf s j h).of_eq e)
      split
      next e' => exact (hr.of_eq e' :)
      next e' => exact (hr.of_eq e' :)

theorem State.Follows.readValue {l : Nat} {p : AttnParams} {page kvh j : Nat} {ans : HostAns} {ids : Nat × Nat} (h : s₀.Follows s) :
    VecRead.Follows s₀ (s.readValue l p page kvh j ans ids) := by
  unfold State.readValue
  split
  · dsimp only
    split
    next t2 _ _ e2 => exact (h.readCodes.of_eq e2 :)
    next t2 e2 => exact (h.readCodes.of_eq e2 :)
    next t2 _ _ e2 =>
      split
      next t3 _ _ e3 => exact ((State.Follows.readCodes (h.readCodes.of_eq e2)).of_eq e3 :)
      next t3 e3 => exact ((State.Follows.readCodes (h.readCodes.of_eq e2)).of_eq e3 :)
      next t3 _ _ e3 => exact ((State.Follows.readCodes (h.readCodes.of_eq e2)).of_eq e3 :)
  · dsimp only
    split
    next t2 _ _ e2 => exact (h.readCodes.of_eq e2 :)
    next t2 e2 => exact (h.readCodes.of_eq e2 :)
    next t2 _ _ e2 => exact (h.readCodes.of_eq e2 :)

theorem State.Follows.readTail {l : Nat} {p : AttnParams} {e : SeqEntry} {kvh j : Nat} {ans : HostAns} {ids : Nat × Nat}
    (h : s₀.Follows s) : VecRead.Follows s₀ (s.readTail l p e kvh j ans ids) := by
  unfold State.readTail
  dsimp only
  split
  next t1 _ _ e1 => exact (h.readCodes.of_eq e1 :)
  next t1 e1 => exact (h.readCodes.of_eq e1 :)
  next t1 _ _ e1 => exact (h.readCodes.of_eq e1 :)

theorem State.Follows.readValues {l : Nat} {p : AttnParams} {e : SeqEntry} {page kvh b : Nat} {ans : HostAns} {ids : Nat × Nat}
    (h : s₀.Follows s) : ExceptHolds (s₀.Follows ·.1) (s₀.Follows ·.1) (s.readValues l p e page kvh b ans ids) := by
  have value : ∀ t j, s₀.Follows t → VecRead.Follows s₀ (t.readValue l p page kvh j ans ids) := fun _ _ ht => ht.readValue
  have tail : ∀ t j, s₀.Follows t → VecRead.Follows s₀ (t.readTail l p e kvh j ans ids) := fun _ _ ht => ht.readTail
  unfold State.readValues
  extract_lets toks openAt
  split
  next e₁ => exact ((h.readTokens value).of_eq e₁ :)
  next u _ _ e₁ =>
    have hu : s₀.Follows u := (h.readTokens value).of_eq e₁
    split
    next e₂ => exact ((hu.readTokens tail).of_eq e₂ :)
    next e₂ => exact ((hu.readTokens tail).of_eq e₂ :)

theorem State.Follows.readBwdRow {l : Nat} {p : AttnParams} {e : SeqEntry} {row head : Nat} {ans : HostAns} {ids : Nat × Nat}
    (h : s₀.Follows s) : ExceptHolds (s₀.Follows ·.1) (s₀.Follows ·.1) (s.readBwdRow l p e row head ans ids) := by
  unfold State.readBwdRow
  extract_lets d i
  split
  next e₁ => exact (h.readQuery.of_eq e₁ :)
  next e₁ => exact (h.readQuery.of_eq e₁ :)
  next u _ _ e₁ =>
    have hu : s₀.Follows u := h.readQuery.of_eq e₁
    have hr := hu.readCodes (l := l) (va := e.dO + i * d * 2) (w := 16) (cnt := d) (operand := 5) (ans := ans) (ids := ids) |>.andThen
      fun _ g pg hv => hv.readCodes (l := l) (va := e.o + i * d * 2) (w := 16) (cnt := d) (operand := 2) (ans := ans) (ids := ids) |>.andThen
        fun _ o po hw => hw.readCodes (l := l) (va := e.lse + i * 4) (w := 32) (cnt := 1) (operand := 4) (ans := ans) (ids := ids) |>.andThen
          fun v x px hx => show MatRead.Follows s₀ (.ok v [g.flatten, o.flatten, x.flatten] (pg || po || px)) from hx
    split
    next e₂ => exact (hr.of_eq e₂ :)
    next e₂ => exact (hr.of_eq e₂ :)
    next e₂ => exact (hr.of_eq e₂ :)

theorem State.Follows.readBwdRows {s : State} {l : Nat} {p : AttnParams} {e : SeqEntry} {ans : HostAns} {ids : Nat × Nat}
    {x6 : List (Nat × Nat)} (h : s₀.Follows s) : ExceptHolds (s₀.Follows ·.1) (s₀.Follows ·.1) (s.readBwdRows l p e ans ids x6) := by
  unfold State.readBwdRows
  split
  · exact h
  · split
    next e2 => exact (h.readBwdRow.of_eq e2 :)
    next t2 _ e2 =>
      split
      next e3 => exact (State.Follows.readBwdRows (h.readBwdRow.of_eq e2)).of_eq e3
      next t3 _ e3 => exact ((State.Follows.readBwdRows (h.readBwdRow.of_eq e2)).of_eq e3 :)

theorem State.Follows.pushRow {s : State} {c : Cmd} {va operand : Nat} {poison : Bool} {x5 : List Bits} (h : s₀.Follows s) : ExceptHolds
    (s₀.Follows ·.1) (s₀.Follows ·.1) (s.pushRow c va operand poison x5) := by
  unfold State.pushRow
  split
  · exact h
  · split
    · split
      · split
        · dsimp only
          split
          next e5 => exact h.contribute.pushRow.of_eq e5
          next t5 _ e5 => exact (h.contribute.pushRow.of_eq e5 :)
        · exact h
      · exact h
    · exact h

theorem State.Follows.pushRows {s : State} {c : Cmd} {base stride operand : Nat} {poison : Bool} {x6 : List (Nat × List Bits)}
    (h : s₀.Follows s) : ExceptHolds (s₀.Follows ·.1) (s₀.Follows ·.1) (s.pushRows c base stride operand poison x6) := by
  unfold State.pushRows
  split
  · exact h
  · split
    next e2 => exact h.pushRow.of_eq e2
    next t2 _ e2 =>
      split
      next e3 => exact (State.Follows.pushRows (h.pushRow.of_eq e2)).of_eq e3
      next t3 _ e3 => exact ((State.Follows.pushRows (h.pushRow.of_eq e2)).of_eq e3 :)

theorem State.Follows.modAttn {id : Nat} {f : AttnOp → AttnOp} (h : s₀.Follows s) : s₀.Follows (s.modAttn id f) := h.lit

theorem State.Follows.noteSequences {m : AttnOp} (h : s₀.Follows s) : s₀.Follows (s.noteSequences m) :=
  State.Follows.ite (State.Follows.ite h.failCmd h) ((State.Follows.ite h.failCmd h).failCmd)

theorem State.Follows.finishAttn {id : Nat} (h : s₀.Follows s) : s₀.Follows (s.finishAttn id) := by
  unfold State.finishAttn
  split
  · exact h
  · exact State.Follows.ite (((State.Follows.ite h h.noticeCmd).noteSequences).finish) h

theorem State.Follows.endFailedAttn {id : Nat} (h : s₀.Follows s) : s₀.Follows (s.endFailedAttn id) := by
  unfold State.endFailedAttn
  split
  · exact h
  · split
    · exact h.noteSequences.finish
    · exact h.endCmd

theorem State.Follows.giveUpAttn {cmd col : Nat} (h : s₀.Follows s) : s₀.Follows (s.giveUpAttn cmd col) := by
  unfold State.giveUpAttn
  split
  · exact State.Follows.ite h.modAttn.setRun h
  · exact h

theorem State.Follows.dropSequence {id seq : Nat} (h : s₀.Follows s) : s₀.Follows (s.dropSequence id seq) :=
  (State.Follows.foldl h (fun _ _ hu => hu.giveUpAttn) _).modAttn

theorem State.Follows.attnUnitDone {col : Nat} (h : s₀.Follows s) : s₀.Follows (s.attnUnitDone col) := by
  unfold State.attnUnitDone
  split
  · split
    · exact h.setRun
    · split
      · exact h.setRun
      · exact State.Follows.ite h h.setRun.touchDomain.modAttn
    · exact h
  · exact h

theorem State.Follows.dispatchAttn {m : AttnOp} {e : SeqEntry} {key : UnitKey} {col : Nat} (h : s₀.Follows s) : s₀.Follows
    (s.dispatchAttn m e key col) :=
  State.Follows.ite h (State.Follows.ite h.requestWake h.noteColumn.setRun.touchDomain)

theorem State.Follows.planUnit {m : AttnOp} {e : SeqEntry} {u : AttnUnit} {ans : HostAns} (h : s₀.Follows s) : ExceptHolds (s₀.Follows
    ·.1) (s₀.Follows ·.1) (s.planUnit m e u ans) := by
  unfold State.planUnit
  extract_lets p ids rows
  have mask : ExceptHolds (s₀.Follows ·.1) (s₀.Follows ·.1)
      (if p.block then s.readMaskRows m.lod p e rows ans ids [] (maskRowsOf e rows) else .ok (s, [])) := by
    split
    · exact h.readMaskRows
    · exact h
  split
  next e₁ => exact (mask.of_eq e₁ :)
  next t _ e₁ =>
    have ht : s₀.Follows t := mask.of_eq e₁
    have queries : ExceptHolds (s₀.Follows ·.1) (s₀.Follows ·.1)
        (if p.opcode = 0x0202 then t.readBwdRows m.lod p e ans ids rows else t.readQueries m.lod p e ans ids rows) := by
      split
      · exact ht.readBwdRows
      · exact ht.readQueries
    split
    next e₂ => exact (queries.of_eq e₂ :)
    next e₂ => exact (queries.of_eq e₂ :)

theorem State.Follows.unitPage {m : AttnOp} {e : SeqEntry} {u : AttnUnit} {b : Nat} {ans : HostAns} (h : s₀.Follows s) :
    PageRead.Follows s₀ (s.unitPage m e u b ans) := by
  unfold State.unitPage
  split
  · exact h
  · exact h.pageOf

theorem State.Follows.blockSums {m : AttnOp} {e : SeqEntry} {u : AttnUnit} {page b col : Nat} {errs : List AttnErr} {ans : HostAns}
    (h : s₀.Follows s) : ExceptHolds (s₀.Follows ·.1) (s₀.Follows ·.1) (s.blockSums m e u page b col errs ans) := by
  unfold State.blockSums
  extract_lets p ids kvh rows toks
  have key : ∀ t j, s₀.Follows t → VecRead.Follows s₀ (t.readKey m.lod p e page kvh j ans ids) := fun _ _ ht => ht.readKey
  split
  next e₁ => exact ((h.readTokens key).of_eq e₁ :)
  next t _ _ e₁ =>
    have ht : s₀.Follows t := (h.readTokens key).of_eq e₁
    split
    next e₂ => exact (ht.readValues.of_eq e₂ :)
    next e₂ => exact (ht.readValues.of_eq e₂ :)

theorem State.Follows.pushBlock {m : AttnOp} {c : Cmd} {e : SeqEntry} {kvh : Nat} {toks : List Nat} {x : BlockSums} {poison : Bool}
    (h : s₀.Follows s) : ExceptHolds (s₀.Follows ·.1) s₀.Follows (s.pushBlock m c e kvh toks x poison) := by
  unfold State.pushBlock
  dsimp only
  split
  next e1 => exact (h.pushRows.of_eq e1 :)
  next t1 _ e1 =>
    split
    next e2 => exact ((State.Follows.pushRows (h.pushRows.of_eq e1)).of_eq e2 :)
    next t2 _ e2 =>
      split
      · exact State.Follows.noticeCmd ((State.Follows.pushRows (h.pushRows.of_eq e1)).of_eq e2)
      · exact (State.Follows.pushRows (h.pushRows.of_eq e1)).of_eq e2

theorem State.Follows.attnProof {col cmd : Nat} {failed : List (Nat × Bool)} (h : s₀.Follows s) : s₀.Follows (s.attnProof col cmd
    failed) :=
  State.Follows.foldl h (fun _ _ hu => State.Follows.ite hu.lit.log.countPass.modCore.lit.log.modCmd.askCore hu.lit.log.countPass.modCmd) _

theorem State.Follows.failUnit {cmd col : Nat} {f : Status} (h : s₀.Follows s) : s₀.Follows (s.failUnit cmd col f) :=
  h.failCmd.giveUpAttn.endFailedAttn

theorem State.Follows.takeBlock {m : AttnOp} {c : Cmd} {e : SeqEntry} {u : AttnUnit} {col : Nat} {toks : List Nat} {all : Bool}
    {x : BlockSums} (h : s₀.Follows s) : s₀.Follows (s.takeBlock m c e u col toks all x) := by
  unfold State.takeBlock
  split
  · split
    next t2 _ e2 => exact State.Follows.failUnit (h.pushBlock.of_eq e2)
    next t2 e2 => exact ((((State.Follows.modAttn (h.pushBlock.of_eq e2)).setRun).countPass).attnUnitDone).endFailedAttn
  · exact h.setRun.countPass.attnUnitDone.endFailedAttn

theorem State.Follows.keyBlock {m : AttnOp} {c : Cmd} {e : SeqEntry} {u : AttnUnit} {b col : Nat} {errs : List AttnErr} {ans : HostAns}
    (h : s₀.Follows s) : s₀.Follows (s.keyBlock m c e u b col errs ans) := by
  unfold State.keyBlock
  split
  next t1 _ _ e1 => exact State.Follows.failUnit (h.unitPage.of_eq e1)
  next t1 e1 => exact h.unitPage.of_eq e1
  next t1 e1 => exact (State.Follows.dropSequence (h.unitPage.of_eq e1)).finishAttn
  next t1 _ e1 =>
    dsimp only
    split
    next t2 e2 => exact ((State.Follows.setRun (h.unitPage.of_eq e1)).blockSums).of_eq e2
    next t2 _ e2 => exact State.Follows.failUnit (((State.Follows.setRun (h.unitPage.of_eq e1)).blockSums).of_eq e2)
    next t2 _ _ _ _ e2 =>
      split
      · exact ((State.Follows.attnProof (((State.Follows.setRun (h.unitPage.of_eq e1)).blockSums).of_eq e2)).countEvents).setRun
      · exact ((State.Follows.attnProof (((State.Follows.setRun (h.unitPage.of_eq e1)).blockSums).of_eq e2)).countEvents).takeBlock

theorem State.Follows.countSkipped {m : AttnOp} {e : SeqEntry} {u : AttnUnit} {col : Nat} (h : s₀.Follows s) : s₀.Follows
    (s.countSkipped m e u col) :=
  State.Follows.ite h.countEvents h

theorem execAttentionKeyBlock_answers {col : Nat} {errs : List AttnErr} {ans : HostAns} (h : s₀.Follows s) : s₀.Answers False
    (execAttentionKeyBlock col errs ans s) := by
  unfold execAttentionKeyBlock
  split
  next u _ =>
    split
    next m c _ _ =>
      split
      · exact h
      next e _ =>
        have plan : ExceptHolds (s₀.Follows ·.1) (s₀.Follows ·.1)
            (match u.plan with | some _ => (.ok (s, u) : Reads AttnUnit) | none => s.planUnit m e u ans) := by
          split
          · exact h
          · exact h.planUnit
        dsimp only
        split
        next e₁ => exact (plan.of_eq e₁ :)
        next e₁ => exact State.Follows.failUnit (plan.of_eq e₁)
        next t _ e₁ =>
          have ht : s₀.Follows t := plan.of_eq e₁
          split
          · exact (State.Follows.ite ht ht.countSkipped).setRun.attnUnitDone.endFailedAttn
          · exact (State.Follows.ite ht ht.countSkipped).setRun.keyBlock
    · exact h
  · exact h

theorem State.Follows.readPartials {s : State} {l : Nat} {p : AttnParams} {e : SeqEntry} {row head : Nat} {ans : HostAns}
    {ids : Nat × Nat} {acc : Option RowState} {b x10 : Nat} (h : s₀.Follows s) : ExceptHolds (s₀.Follows ·.1) (s₀.Follows ·.1)
    (s.readPartials l p e row head ans ids acc b x10) := by
  unfold State.readPartials
  split
  · exact h
  · split
    · dsimp only
      split
      next t3 _ _ e3 => exact (h.vread.of_eq e3 :)
      next t3 e3 => exact (h.vread.of_eq e3 :)
      next t3 _ _ e3 => exact State.Follows.readPartials (h.vread.of_eq e3)
    · dsimp only
      split
      next t3 _ _ e3 => exact (h.vread.of_eq e3 :)
      next t3 e3 => exact (h.vread.of_eq e3 :)
      next t3 _ _ e3 => exact State.Follows.readPartials (h.vread.of_eq e3)

theorem State.Follows.writeRow {s : State} {l cmd : Nat} {poison : Bool} {ids : Nat × Nat} {acks : Nat}
    {x6 : List (Nat × Nat × List Byte)} (h : s₀.Follows s) : VWrite.Follows s₀ (s.writeRow l cmd poison ids acks x6) := by
  unfold State.writeRow
  split
  · exact h
  · split
    next t2 _ e2 => exact State.Follows.writeRow (h.vwrite.of_eq e2)
    · exact h.vwrite

theorem State.Follows.noteRow {m : AttnOp} {e : SeqEntry} {seq row head : Nat} {r : RowState} (h : s₀.Follows s) : s₀.Follows (s.noteRow
    m e seq row head r) := by
  unfold State.noteRow
  split
  · exact h
  · split
    · exact h
    · exact h.modAttn

theorem State.Follows.finishRow {m : AttnOp} {e : SeqEntry} {seq row head : Nat} {r : RowState} {work : Nat} (h : s₀.Follows s) :
    s₀.Follows (s.finishRow m e seq row head r work) := by
  unfold State.finishRow
  dsimp only
  split
  · exact h.failCmd.endFailedAttn
  · exact h
  next t1 _ e1 => exact (((State.Follows.modAttn (h.writeRow.of_eq e1)).noteRow).modCmd).finishAttn

theorem execSplitMerge_answers {cmd seq row head : Nat} {ans : HostAns} (h : s₀.Follows s) : s₀.Answers False (execSplitMerge cmd seq
    row head ans s) := by
  unfold execSplitMerge
  split
  · exact h
  · split
    · exact h
    · split
      · exact h
      · split
        · split
          next t5 e5 => exact (h.readPartials.of_eq e5 :)
          next t5 _ e5 => exact (State.Follows.failCmd (h.readPartials.of_eq e5)).endFailedAttn
          next t5 _ e5 => exact State.Follows.finishRow (h.readPartials.of_eq e5)
        · split
          · exact h
          · split
            · exact h
            · exact h.finishRow

theorem State.Follows.appendBytes {c : Cmd} {p : AttnParams} {e : SeqEntry} {t : AppendStep} {page : Nat} {ans : HostAns}
    (h : s₀.Follows s) : ExceptHolds (s₀.Follows ·.1) (s₀.Follows ·.1) (s.appendBytes c p e t page ans) := by
  unfold State.appendBytes
  extract_lets l d j src codes
  have codes_follow : ∀ va operand k, ExceptHolds (s₀.Follows ·.1) (s₀.Follows ·.1) (codes va operand k) := by
    intro va operand k
    unfold codes
    split
    next e₁ => exact (h.readCodes.of_eq e₁ :)
    next e₁ => exact (h.readCodes.of_eq e₁ :)
    next e₁ => exact (h.readCodes.of_eq e₁ :)
  have tail : ∀ t' j, s₀.Follows t' → VecRead.Follows s₀ (t'.readTail l p e t.kvh j ans c.ids) := fun _ _ ht => ht.readTail
  split
  · exact codes_follow ..
  · exact codes_follow ..
  · split
    next e₁ => exact ((h.readTokens tail).of_eq e₁ :)
    next e₁ => exact ((h.readTokens tail).of_eq e₁ :)

theorem State.Follows.appendStep {c : Cmd} {p : AttnParams} {e : SeqEntry} {t : AppendStep} {ans : HostAns} (h : s₀.Follows s) :
    AppendRes.Follows s₀ (s.appendStep c p e t ans) := by
  unfold State.appendStep
  split
  next t1 _ _ e1 => exact (h.pageOf.of_eq e1 :)
  next t1 e1 => exact (h.pageOf.of_eq e1 :)
  next t1 e1 => exact State.Follows.modAttn (h.pageOf.of_eq e1)
  next t1 _ e1 =>
    split
    next t2 e2 => exact ((State.Follows.appendBytes (h.pageOf.of_eq e1)).of_eq e2 :)
    next t2 _ e2 => exact ((State.Follows.appendBytes (h.pageOf.of_eq e1)).of_eq e2 :)
    next t2 _ _ _ e2 =>
      split
      · exact ((State.Follows.appendBytes (h.pageOf.of_eq e1)).of_eq e2 :)
      · exact ((State.Follows.appendBytes (h.pageOf.of_eq e1)).of_eq e2 :)
      next t3 _ e3 => exact (State.Follows.modCmd ((State.Follows.writeRow ((State.Follows.appendBytes (h.pageOf.of_eq e1)).of_eq e2)).of_eq e3)).modAttn

theorem State.Follows.appendRun {s : State} {c : Cmd} {p : AttnParams} {es : List SeqEntry} {ans : HostAns} {x5 : List AppendStep}
    (h : s₀.Follows s) : AppendRes.Follows s₀ (s.appendRun c p es ans x5) := by
  unfold State.appendRun
  split
  · exact h
  · split
    · split
      · exact h.modAttn.appendRun
      · split
        next t4 e4 => exact State.Follows.appendRun (h.appendStep.of_eq e4)
        · exact h.appendStep
    · exact h

theorem State.Follows.startAppend {c : Cmd} {ans : HostAns} (h : s₀.Follows s) : s₀.Follows (s.startAppend c ans) := by
  unfold State.startAppend
  split
  · dsimp only
    split
    · exact h
    · split
      next t3 e3 => exact State.Follows.modCmd (h.appendRun.of_eq e3)
      next t3 _ _ e3 => exact (State.Follows.modCmd (h.appendRun.of_eq e3)).endWith
      next t3 e3 =>
        split
        · exact h.appendRun.of_eq e3
        · exact (((State.Follows.ite (h.appendRun.of_eq e3) (State.Follows.noticeCmd (h.appendRun.of_eq e3))).noteSequences).modCmd).finish
  · dsimp only
    split
    · exact h.lit
    · split
      next t3 e3 => exact State.Follows.modCmd (h.lit.appendRun.of_eq e3)
      next t3 _ _ e3 => exact (State.Follows.modCmd (h.lit.appendRun.of_eq e3)).endWith
      next t3 e3 =>
        split
        · exact h.lit.appendRun.of_eq e3
        · exact (((State.Follows.ite (h.lit.appendRun.of_eq e3) (State.Follows.noticeCmd (h.lit.appendRun.of_eq e3))).noteSequences).modCmd).finish

theorem State.Follows.startAttn {c : Cmd} (h : s₀.Follows s) : s₀.Follows (s.startAttn c) := h.lit.finishAttn

theorem execUnitDispatch_answers {cmd entry mb nb seg col : Nat} (h : s₀.Follows s) : s₀.Answers False (execUnitDispatch cmd entry mb nb
    seg col s) := by
  unfold execUnitDispatch
  split
  · split
    · exact h
    · exact State.Answers.ite h h.dispatchMat
  · split
    · exact h
    · split
      · exact h
      · exact State.Answers.ite h h.dispatchAttn

/-! ### Thread groups -/

theorem State.Follows.modLaunch {id : Nat} {f : Launch → Launch} (h : s₀.Follows s) : s₀.Follows (s.modLaunch id f) := h.lit

theorem State.Follows.modBlock {id : Nat} {f : Block → Block} (h : s₀.Follows s) : s₀.Follows (s.modBlock id f) := h.lit

theorem State.Follows.modThreads {blk grp : Nat} {ts : List Nat} {f : Thread → Thread} (h : s₀.Follows s) : s₀.Follows (s.modThreads blk
    grp ts f) :=
  h.modBlock

theorem State.Follows.settleLaunch {id : Nat} (h : s₀.Follows s) : s₀.Follows (s.settleLaunch id) := by
  unfold State.settleLaunch
  split
  · exact h
  · exact State.Follows.ite h h.finish

theorem State.Follows.dropBlock {b : Block} (h : s₀.Follows s) : s₀.Follows (s.dropBlock b) := h.lit.modCmd.touchDomain

theorem State.Follows.haltGroup {b : Block} {grp st d : Nat} (h : s₀.Follows s) : s₀.Follows (s.haltGroup b grp st d) :=
  h.log.event.dropBlock.failCmd.settleLaunch

theorem State.Follows.wakeBlock {blk : Nat} (h : s₀.Follows s) : s₀.Follows (s.wakeBlock blk) := by
  unfold State.wakeBlock
  split
  · exact h
  · exact h.modBlock

theorem State.Follows.commit {x : Issue} {retired : Bool} (h : s₀.Follows s) : s₀.Follows (s.commit x retired) := by
  unfold State.commit
  split
  · exact State.Follows.ite h.modBlock.modCore.count.count.count h.modBlock.modCore.count.count
  · exact State.Follows.ite h.modBlock.modCore.count.count h.modBlock.modCore.count

theorem State.Follows.goOn {x : Issue} {next : Nat} (h : s₀.Follows s) : s₀.Follows (s.goOn x next) := h.modThreads

theorem State.Follows.hint {x : Issue} {spin : Bool} (h : s₀.Follows s) : s₀.Follows (s.hint x spin) := State.Follows.ite h.modBlock h

theorem State.Follows.block {x : Issue} {holds : Nat → List Nat} (h : s₀.Follows s) : s₀.Follows (s.block x holds) :=
  State.Follows.foldl h (fun _ _ hu => State.Follows.ite hu hu.modThreads) _

theorem State.Follows.whenHeld {x : Issue} {rs : List Nat} {run : State} (h : s₀.Follows s) (h2 : s₀.Follows run) : s₀.Follows
    (s.whenHeld x rs run) :=
  State.Follows.ite h2 h.block

theorem State.Follows.haltIssue {x : Issue} {st d : Nat} (h : s₀.Follows s) : s₀.Follows (s.haltIssue x st d) := h.commit.haltGroup

theorem State.Follows.launchCheck {c : Cmd} {ans : HostAns} (h : s₀.Follows s) : CheckRes.Follows s₀ (s.launchCheck c ans) := by
  unfold State.launchCheck
  split
  · exact h
  · split
    next t2 _ _ e2 => exact (h.vread.of_eq e2 :)
    next t2 e2 => exact (h.vread.of_eq e2 :)
    next t2 _ _ e2 =>
      split
      · exact (h.vread.of_eq e2 :)
      · split
        · exact (h.vread.of_eq e2 :)
        · exact (h.vread.of_eq e2 :)

theorem State.Follows.startLaunch {c : Cmd} (h : s₀.Follows s) : s₀.Follows (s.startLaunch c) := h.lit.settleLaunch

theorem State.Follows.restoreBlock {b : Block} {col : Nat} (h : s₀.Follows s) : s₀.Follows (s.restoreBlock b col) := h.modBlock

theorem execBlockPlacement_answers {cmd col : Nat} (h : s₀.Follows s) : s₀.Answers False (execBlockPlacement cmd col s) := by
  unfold execBlockPlacement
  split
  · exact h
  · split
    · dsimp only
      split
      · exact h
      · split
        · exact h.requestWake
        · exact ((((State.Follows.ite h.modCore h).restoreBlock).modLaunch).noteColumn).touchDomain
    · dsimp only
      split
      · exact h
      · exact State.Answers.ite h.requestWake (((((State.Follows.ite h.modCore h).lit).modLaunch).noteColumn).touchDomain)

theorem State.Follows.fillLine {col lod va : Nat} {b : List Byte} {p : List Bool} (h : s₀.Follows s) : s₀.Follows (s.fillLine col lod va
    b p) :=
  h.modCore

theorem State.Follows.fetchPredicted {b : Block} {va : Nat} {wrong : Bool} {ids : Nat × Nat} (h : s₀.Follows s) : s₀.Follows
    (s.fetchPredicted b va wrong ids) := by
  unfold State.fetchPredicted
  split
  · dsimp only
    split
    · split
      · exact h.count
      · exact State.Follows.ite h.count.readRange.fillLine h.count
    · exact h.count
  · dsimp only
    split
    · split
      · exact h
      · exact State.Follows.ite h.readRange.fillLine h
    · exact h

theorem State.Follows.fetchTaken {b : Block} {grp va : Nat} {ans : HostAns} {ids : Nat × Nat} (h : s₀.Follows s) : s₀.Follows
    (s.fetchTaken b grp va ans ids) := by
  unfold State.fetchTaken
  split
  next t1 _ _ e1 => exact State.Follows.haltGroup (h.vread.of_eq e1)
  next t1 e1 => exact h.vread.of_eq e1
  next t1 _ _ e1 => exact State.Follows.fillLine (h.vread.of_eq e1)

theorem execInstructionFetch_answers {blk grp va : Nat} {path : FetchPath} {ans : HostAns} (h : s₀.Follows s) : s₀.Answers False
    (execInstructionFetch blk grp va path ans s) := by
  unfold execInstructionFetch
  split
  · exact h
  · split
    · exact h
    · split
      · exact h.fetchPredicted
      · split
        · exact h
        · exact State.Answers.ite h.fetchTaken h

theorem State.Follows.branchOn {x : Issue} {code cond target next : Nat} (h : s₀.Follows s) : s₀.Follows (s.branchOn x code cond target
    next) :=
  h.modThreads.modThreads.modBlock

theorem State.Follows.arith {x : Issue} {op : CoreOp} (h : s₀.Follows s) : s₀.Follows (s.arith x op) := by
  unfold State.arith
  split
  · exact h.count
  · exact h.haltIssue
  · exact State.Follows.foldl h.commit (fun _ _ hu => hu.modThreads) _
  · exact h.commit.modThreads
  · exact State.Follows.ite h.haltIssue h.commit.branchOn

theorem execArithmeticInstruction_answers {blk grp : Nat} {op : CoreOp} {spin : Bool} (h : s₀.Follows s) : s₀.Answers False
    (execArithmeticInstruction blk grp op spin s) := by
  unfold execArithmeticInstruction
  split
  · exact h
  · exact h.whenHeld h.arith.hint

theorem State.Follows.markWrites {blk grp thr : Nat} {sc : Scope} (h : s₀.Follows s) : s₀.Follows (s.markWrites blk grp thr sc) :=
  h.lit

theorem State.Follows.releaseBy {blk grp thr : Nat} {sc : Scope} (h : s₀.Follows s) : s₀.Follows (s.releaseBy blk grp thr sc) := by
  unfold State.releaseBy
  exact h.markWrites.modThreads

theorem State.Follows.awaitTxns {blk grp thr : Nat} {ids : List Nat} (h : s₀.Follows s) : s₀.Follows (s.awaitTxns blk grp thr ids) :=
  State.Follows.ite h h.modThreads

theorem State.Follows.fenceBy {blk grp thr : Nat} {form : FenceForm} {sc : Scope} (h : s₀.Follows s) : s₀.Follows (s.fenceBy blk grp thr
    form sc) := by
  unfold State.fenceBy
  split
  · exact h.releaseBy
  · exact h.awaitTxns
  · exact h.markWrites.awaitTxns

theorem execBarrier_answers {blk grp creg next : Nat} {spin : Bool} (h : s₀.Follows s) : s₀.Answers False (execBarrier blk grp creg next
    spin s) := by
  unfold execBarrier
  split
  · exact h
  · exact h.whenHeld (State.Follows.ite h.haltIssue (((State.Follows.foldl h.commit.modThreads (fun _ _ hu => hu.markWrites) _).hint).wakeBlock))

theorem execFence_answers {blk grp : Nat} {form : FenceForm} {scope : Scope} {next : Nat} {spin : Bool} (h : s₀.Follows s) : s₀.Answers
    False (execFence blk grp form scope next spin s) := by
  unfold execFence
  split
  · exact h
  · exact (State.Follows.foldl h.commit.goOn (fun _ _ hu => hu.fenceBy) _).hint

theorem State.Follows.endBlock {b : Block} (h : s₀.Follows s) : s₀.Follows (s.endBlock b) := h.dropBlock.modLaunch.settleLaunch

theorem State.Follows.lateEnd {blk : Nat} (h : s₀.Follows s) : s₀.Follows (s.lateEnd blk) := by
  unfold State.lateEnd
  split
  · exact h
  · exact h.modPorter.log

theorem execThreadExit_answers {blk grp : Nat} (h : s₀.Follows s) : s₀.Answers False (execThreadExit blk grp s) := by
  unfold execThreadExit
  split
  · exact State.Answers.ite h h.lateEnd
  · dsimp only
    split
    · exact h.commit.modThreads
    · exact State.Answers.ite h.commit.modThreads.endBlock h.commit.modThreads.wakeBlock

theorem execLaunchTimeout_answers {cmd : Nat} (h : s₀.Follows s) : s₀.Answers False (execLaunchTimeout cmd s) := by
  unfold execLaunchTimeout
  split
  · exact State.Answers.ite (((((State.Follows.foldl h (fun _ _ hu => hu.dropBlock) _).modPorter).failCmd).finish).modCmd) h
  · exact h

/-! ### The memory instructions -/

theorem State.Follows.memoryOp {x : Issue} {a : CoreAcc} {need : Nat} {rs : List Nat} {bad : Option Status} {more : Nat → List Nat}
    {run : State} (h : s₀.Follows s) (hrun : s₀.Follows run) : s₀.Follows (s.memoryOp x a need rs bad more run) := by
  unfold State.memoryOp
  refine State.Follows.whenHeld h ?_
  split
  · exact h.haltIssue
  · exact .ite h.block (.ite h hrun)

theorem State.Follows.loadThreads {s : State} {x : Issue} {dst : Nat} {a : CoreAcc} {x4 : List Nat} (h : s₀.Follows s) : Access.Follows
    s₀ (s.loadThreads x dst a x4) := by
  unfold State.loadThreads
  split
  · exact h
  · split
    · dsimp only
      split
      next t3 _ e3 => exact (h.loadThreads.of_eq e3 :)
      · exact h.loadThreads
    · dsimp only
      split
      next t3 _ _ e3 => exact (h.vread.of_eq e3 :)
      next t3 e3 => exact (State.Follows.newTxn (h.vread.of_eq e3)).loadThreads
      next t3 _ _ e3 =>
        split
        next t4 _ e4 => exact ((State.Follows.loadThreads (h.vread.of_eq e3)).of_eq e4 :)
        · exact State.Follows.loadThreads (h.vread.of_eq e3)

theorem State.Follows.putLoad {blk grp thr dst size : Nat} {b : List Byte} {p : Bool} (h : s₀.Follows s) : s₀.Follows (s.putLoad blk grp
    thr dst size b p) :=
  h.modThreads

theorem State.Follows.issueTxns {s : State} {x : Issue} {a : CoreAcc} {need : Nat} {kind : Nat → TxnKind} {x5 : List Nat}
    (h : s₀.Follows s) : s₀.Follows (s.issueTxns x a need kind x5) := by
  unfold State.issueTxns
  split
  · exact h
  · exact (State.Follows.ite h.newTxn.emit h.newTxn).issueTxns

theorem State.Follows.loadOp {x : Issue} {dst : Nat} {a : CoreAcc} (h : s₀.Follows s) : s₀.Follows (s.loadOp x dst a) := by
  unfold State.loadOp
  split
  · exact h.commit.goOn.issueTxns
  · split
    · exact h
    next t2 _ _ e2 => exact State.Follows.haltIssue (h.loadThreads.of_eq e2)
    next t2 _ e2 => exact (State.Follows.foldl ((State.Follows.commit (h.loadThreads.of_eq e2)).goOn) (fun _ _ hu => hu.putLoad) _).purgeBuffers

theorem execCoreLoad_answers {blk grp dst : Nat} {acc : CoreAcc} (h : s₀.Follows s) : s₀.Answers False (execCoreLoad blk grp dst acc s)
    := by
  unfold execCoreLoad
  split
  · exact h
  · exact h.memoryOp h.loadOp.hint

theorem State.Follows.storeThreads {s : State} {x : Issue} {src : Nat} {a : CoreAcc} {x4 : List Nat} (h : s₀.Follows s) : Access.Follows
    s₀ (s.storeThreads x src a x4) := by
  unfold State.storeThreads
  split
  · exact h
  · split
    · exact h.modBlock.storeThreads
    · dsimp only
      split
      · split
        · exact h
        · exact h
        next t4 e4 => exact State.Follows.storeThreads (h.remoteStore.of_eq e4)
      · exact h.writeRange.storeThreads

theorem State.Follows.storeOp {x : Issue} {src : Nat} {a : CoreAcc} (h : s₀.Follows s) : s₀.Follows (s.storeOp x src a) := by
  unfold State.storeOp
  split
  · exact h.commit.goOn.issueTxns
  · split
    · exact h
    next t2 _ _ e2 => exact State.Follows.haltIssue (h.storeThreads.of_eq e2)
    next t2 _ e2 => exact (State.Follows.commit (h.storeThreads.of_eq e2)).goOn

theorem execCoreStore_answers {blk grp src : Nat} {acc : CoreAcc} (h : s₀.Follows s) : s₀.Answers False (execCoreStore blk grp src acc
    s) := by
  unfold execCoreStore
  split
  · exact h
  · exact h.memoryOp h.storeOp.hint

theorem State.Follows.atomicHome {lod pa size : Nat} {op : AtomOp} {src cmp : Nat} {bad : Bool} {ids : Nat × Nat} (h : s₀.Follows s) :
    s₀.Follows (s.atomicHome lod pa size op src cmp bad ids).s := by
  unfold State.atomicHome
  dsimp only
  split
  · exact h.readSector.count
  · split
    · exact h.readSector.count.storeSector
    · split
      · exact h.readSector.count
      · exact h.readSector.count.storeSector

theorem State.Follows.putAtomic {blk grp thr dst size old : Nat} {p : Bool} (h : s₀.Follows s) : s₀.Follows (s.putAtomic blk grp thr dst
    size old p) :=
  h.modThreads

theorem State.Follows.hostAtomicOp {lod pa : Nat} {a : AtomTxn} {kind : TxnKind} (h : s₀.Follows s) : s₀.Follows (s.hostAtomicOp lod pa
    a kind) :=
  h.newTxn.emit

theorem State.Follows.atomicThreads {s : State} {x : Issue} {g : AtomArgs} {a : CoreAcc} {x4 : List Nat} (h : s₀.Follows s) :
    Access.Follows s₀ (s.atomicThreads x g a x4) := by
  unfold State.atomicThreads
  split
  · exact h
  · split
    · exact h.modBlock.putAtomic.atomicThreads
    · dsimp only
      split
      · exact h.hostAtomicOp.atomicThreads
      · split
        · exact h.sendHomes
        · split
          · exact h
          · exact h.sendHomes
          next t5 e5 => exact State.Follows.atomicThreads (h.sendHomes.newTxn.cylSend.of_eq e5)
      · exact (State.Follows.putAtomic h.atomicHome).atomicThreads

theorem State.Follows.atomicOp {x : Issue} {g : AtomArgs} {a : CoreAcc} (h : s₀.Follows s) : s₀.Follows (s.atomicOp x g a) := by
  unfold State.atomicOp
  extract_lets t done
  have ht : s₀.Follows t := .ite (.foldl h (fun _ _ hu => hu.markWrites) _) h
  have hdone : OptionHolds s₀.Follows done := by
    unfold done
    split
    · exact ht.commit.goOn.issueTxns
    · split
      · trivial
      next e => exact State.Follows.haltIssue (ht.atomicThreads.of_eq e)
      next e => exact State.Follows.goOn (State.Follows.commit (ht.atomicThreads.of_eq e))
  cases hd : done with
  | none => exact ht
  | some u =>
    have hu : s₀.Follows u := hdone.of_eq hd
    exact .ite (.foldl hu (fun _ _ hu => hu.awaitTxns) _) hu

theorem execCoreAtomic_answers {blk grp dst src cmp : Nat} {op : AtomOp} {order : MemOrder} {scope : Scope} {acc : CoreAcc}
    (h : s₀.Follows s) : s₀.Answers False (execCoreAtomic blk grp dst src cmp op order scope acc s) := by
  unfold execCoreAtomic
  split
  · exact h
  · exact State.Answers.ite h.haltIssue (h.memoryOp h.atomicOp.hint)

theorem State.Follows.acceptXfers {s : State} {x : Issue} {dreg : Nat} {x3 : List Nat} (h : s₀.Follows s) : s₀.Follows (s.acceptXfers x
    dreg x3) := by
  unfold State.acceptXfers
  split
  · exact h
  · exact h.modBlock.acceptXfers

theorem State.Follows.handOver {x : Issue} {dreg next : Nat} (h : s₀.Follows s) : s₀.Follows (s.handOver x dreg next) := by
  unfold State.handOver
  split
  · exact h.haltIssue
  · split
    · exact h.haltIssue
    · dsimp only
      split
      · exact h.block
      · exact State.Follows.ite h ((State.Follows.foldl h.commit.modThreads (fun _ _ hu => hu.markWrites) _).acceptXfers)

theorem execFeederIssue_answers {blk grp dreg next : Nat} {spin : Bool} (h : s₀.Follows s) : s₀.Answers False (execFeederIssue blk grp
    dreg next spin s) := by
  unfold execFeederIssue
  split
  · exact h
  · exact h.whenHeld h.handOver.hint

theorem execFeederWait_answers {blk grp counter value next : Nat} {spin : Bool} (h : s₀.Follows s) : s₀.Answers False (execFeederWait
    blk grp counter value next spin s) := by
  unfold execFeederWait
  split
  · exact h
  · exact h.commit.modThreads.hint.wakeBlock

theorem State.Follows.feedSource {b : Block} {f : FeederXfer} {n : Nat} {ans : HostAns} {ids : Nat × Nat} (h : s₀.Follows s) :
    Access.Follows s₀ (s.feedSource b f n ans ids) := by
  unfold State.feedSource
  split
  · exact h
  · split
    · split
      · dsimp only
        split
        · exact h
        · exact h
      · dsimp only
        split
        · exact h
        · exact h
    · dsimp only
      split
      · exact h
      · split
        next t4 _ _ e4 => exact (h.vread.of_eq e4 :)
        next t4 e4 => exact (h.vread.of_eq e4 :)
        next t4 _ _ e4 => exact (h.vread.of_eq e4 :)

theorem State.Follows.feedPiece {b : Block} {f : FeederXfer} {ans : HostAns} {ids : Nat × Nat} (h : s₀.Follows s) : Access.Follows s₀
    (s.feedPiece b f ans ids) := by
  unfold State.feedPiece
  split
  · dsimp only
    split
    next t2 e2 => exact (h.feedSource.of_eq e2 :)
    next t2 _ _ e2 => exact (h.feedSource.of_eq e2 :)
    next t2 _ _ e2 =>
      split
      · exact (h.feedSource.of_eq e2 :)
      · exact State.Follows.modBlock (h.feedSource.of_eq e2)
  · dsimp only
    split
    next t2 e2 => exact (h.feedSource.of_eq e2 :)
    next t2 _ _ e2 => exact (h.feedSource.of_eq e2 :)
    next t2 _ _ e2 =>
      split
      · exact h
      · split
        · exact (h.feedSource.of_eq e2 :)
        · exact h
        next t4 _ e4 => exact ((State.Follows.vwriteAs (h.feedSource.of_eq e2)).of_eq e4 :)

theorem State.Follows.feedPieces {s : State} {b : Block} {ans : HostAns} {ids : Nat × Nat} {x4 : FeederXfer} {x5 : Nat}
    (h : s₀.Follows s) : Access.Follows s₀ (s.feedPieces b ans ids x4 x5) := by
  unfold State.feedPieces
  split
  · exact h
  · split
    · exact h
    · split
      next t3 _ e3 => exact State.Follows.feedPieces (h.feedPiece.of_eq e3)
      next t3 e3 => exact (h.feedPiece.of_eq e3 :)
      next t3 _ _ e3 => exact h.feedPiece.of_eq e3

theorem State.Follows.settleFeed {blk idx : Nat} (h : s₀.Follows s) : s₀.Follows (s.settleFeed blk idx) := by
  unfold State.settleFeed
  split
  · exact h
  · split
    · exact h
    · exact State.Follows.ite h h.modBlock.wakeBlock.purgeBuffers

theorem execFeederTransferComplete_answers {blk idx pieces : Nat} {ans : HostAns} (h : s₀.Follows s) : s₀.Answers False
    (execFeederTransferComplete blk idx pieces ans s) := by
  unfold execFeederTransferComplete
  split
  · exact h
  · split
    · exact h
    · split
      · exact h
      · split
        next t4 e4 => exact (h.feedPieces.of_eq e4 :)
        next t4 _ _ e4 => exact State.Follows.haltGroup (h.feedPieces.of_eq e4)
        next t4 _ e4 => exact (State.Follows.modBlock (h.feedPieces.of_eq e4)).settleFeed

/-! ### The DMA engines -/

theorem State.Follows.modChan {gch : Nat} {f : DmaCh → DmaCh} (h : s₀.Follows s) : s₀.Follows (s.modChan gch f) := h.lit

theorem State.Follows.modDmaRegs {k : Nat} {f : DmaRegs → DmaRegs} (h : s₀.Follows s) : s₀.Follows (s.modDmaRegs k f) := h.lit

theorem State.Follows.evalPace {stack src : Nat} (h : s₀.Follows s) : s₀.Follows (s.evalPace stack src) := h.lit

theorem State.Follows.addLevel {stack src : Nat} {d : Int} (h : s₀.Follows s) : s₀.Follows (s.addLevel stack src d) :=
  (State.Follows.ite h.modDmaRegs h.lit).evalPace

theorem State.Follows.haltChannel {gch st d : Nat} (h : s₀.Follows s) : s₀.Follows (s.haltChannel gch st d) := h.modChan.lit

theorem State.Follows.endInterrupt {gch : Nat} (h : s₀.Follows s) : s₀.Follows (s.endInterrupt gch) := State.Follows.ite h.raise h

theorem State.Follows.triggerEach {s : State} {x1 : Nat} {x2 : List Nat} (h : s₀.Follows s) : s₀.Follows (s.triggerEach x1 x2) := by
  unfold State.triggerEach
  split
  · exact h
  · exact State.Follows.foldl h (fun _ _ hu => State.Follows.ite hu.modChan.setNow.endInterrupt.triggerEach hu.modChan) _

theorem State.Follows.triggerAll {stack trig fuel : Nat} (h : s₀.Follows s) : s₀.Follows (s.triggerAll stack trig fuel) :=
  h.triggerEach

theorem State.Follows.endTrigger {gch : Nat} (h : s₀.Follows s) : s₀.Follows (s.endTrigger gch) := h.triggerAll

theorem State.Follows.endSignals {gch : Nat} (h : s₀.Follows s) : s₀.Follows (s.endSignals gch) := h.endInterrupt.endTrigger

theorem State.Follows.startChannel {gch : Nat} (h : s₀.Follows s) : s₀.Follows (s.startChannel gch) := by
  unfold State.startChannel
  dsimp only
  split
  · exact h
  · split
    · exact h.haltChannel
    · exact State.Follows.ite h.modChan (State.Follows.ite h.modChan (State.Follows.ite h.modChan.setNow.endSignals h.modChan))

theorem State.Follows.goChannel {gch : Nat} (h : s₀.Follows s) : s₀.Follows (s.goChannel gch) := h.modChan.startChannel

theorem execDmaGo_answers {stack ch : Nat} (h : s₀.Follows s) : s₀.Answers False (execDmaGo stack ch s) :=
  State.Answers.ite h.goChannel h

theorem execDmaStop_answers {stack ch : Nat} (h : s₀.Follows s) : s₀.Answers False (execDmaStop stack ch s) :=
  State.Answers.ite h.haltChannel h

theorem State.Follows.loadShadow {gch : Nat} (h : s₀.Follows s) : s₀.Follows (s.loadShadow gch) := h.modChan.startChannel

theorem execDmaArmShadow_answers {stack ch : Nat} (h : s₀.Follows s) : s₀.Answers False (execDmaArmShadow stack ch s) :=
  State.Answers.ite h (State.Answers.ite h.modChan.loadShadow.modChan h.modChan)

theorem execDmaRegWrite_answers {stack ch off value : Nat} (h : s₀.Follows s) : s₀.Answers False (execDmaRegWrite stack ch off value s)
    := by
  unfold execDmaRegWrite
  split
  · exact h
  · split
    · exact State.Answers.ite h.modChan.setNow h.modChan
    · exact State.Answers.ite (State.Answers.ite h.modChan.setNow h.modChan) (State.Answers.ite h.modChan h)

theorem execDmaSwqAdj_answers {stack q value : Nat} (h : s₀.Follows s) : s₀.Answers False (execDmaSwqAdj stack q value s) := h.addLevel

theorem execDmaTimerFire_answers {stack t : Nat} (h : s₀.Follows s) : s₀.Answers False (execDmaTimerFire stack t s) :=
  State.Answers.ite h.triggerAll h

theorem State.Follows.modCopy {id : Nat} {f : CopyOp → CopyOp} (h : s₀.Follows s) : s₀.Follows (s.modCopy id f) := h.lit

theorem State.Follows.dealSegments {s : State} {id : Nat} {x2 : List Nat} (h : s₀.Follows s) : s₀.Follows (s.dealSegments id x2) := by
  unfold State.dealSegments
  split
  · exact h
  · split
    · exact State.Follows.ite h.modChan.modCopy.dealSegments h.dealSegments
    · exact h

theorem State.Follows.settleCopy {id : Nat} (h : s₀.Follows s) : s₀.Follows (s.settleCopy id) := by
  unfold State.settleCopy
  split
  · exact h
  · exact State.Follows.ite h.finish h

theorem State.Follows.dealAll {k : Nat} (h : s₀.Follows s) : s₀.Follows (s.dealAll k) :=
  State.Follows.foldl h (fun _ _ hu => hu.dealSegments) _

theorem State.Follows.startCopy {c : Cmd} (h : s₀.Follows s) : s₀.Follows (s.startCopy c) := h.lit.dealSegments.settleCopy

theorem State.Follows.segmentEnded {gch : Nat} {f : Option Status} (h : s₀.Follows s) : s₀.Follows (s.segmentEnded gch f) := by
  unfold State.segmentEnded
  split
  · dsimp only
    split
    · exact h
    · exact h.failCmd.modCopy.modChan.dealAll.settleCopy
  · dsimp only
    split
    · exact h
    · exact h.modCopy.modChan.dealAll.settleCopy

theorem State.Follows.channelError {gch st d : Nat} (h : s₀.Follows s) : s₀.Follows (s.channelError gch st d) :=
  h.haltChannel.segmentEnded

theorem State.Follows.askLine {gch lod line : Nat} (h : s₀.Follows s) : OptionHolds s₀.Follows (s.askLine gch lod line) := by
  unfold State.askLine
  split
  · exact h
  · dsimp only
    split
    · trivial
    · split
      next t3 e3 => exact (h.sendHomes.newTxn.cylSend.of_eq e3 :)
      · exact h
      · trivial

theorem State.Follows.dmaReadPiece {gch : Nat} {cached : Bool} {operand : Nat} {ans : HostAns} {pa n : Nat} (h : s₀.Follows s) :
    Side.Follows s₀ (s.dmaReadPiece gch cached operand ans pa n) := by
  unfold State.dmaReadPiece
  split
  · split
    · dsimp only
      split
      next t3 _ _ e3 => exact (h.remoteLine.of_eq e3 :)
      next t3 e3 => exact (h.remoteLine.of_eq e3 :)
      next t3 _ _ e3 =>
        split
        · exact (h.remoteLine.of_eq e3 :)
        · exact (h.remoteLine.of_eq e3 :)
      next t3 e3 => exact (h.remoteLine.of_eq e3 :)
    · dsimp only
      split
      · exact h
      · split
        next t4 e4 => exact (h.askLine.of_eq e4 :)
        · exact h
  · split
    · exact h
    · exact h
    · exact h
    · exact State.Follows.ite h.readRange.logHost h.readRange
  · exact h.readRange
  · split
    · exact h
    · exact h.readRange
  · exact h

theorem State.Follows.dmaReadPieces {s : State} {gch : Nat} {cached : Bool} {operand : Nat} {ans : HostAns} {x5 : List (Nat × Nat)}
    (h : s₀.Follows s) : Side.Follows s₀ (s.dmaReadPieces gch cached operand ans x5) := by
  unfold State.dmaReadPieces
  split
  · exact h
  · split
    next t2 _ e2 =>
      split
      next t3 _ e3 => exact ((State.Follows.dmaReadPieces (h.dmaReadPiece.of_eq e2)).of_eq e3 :)
      · exact State.Follows.dmaReadPieces (h.dmaReadPiece.of_eq e2)
    next t2 e2 =>
      split
      next t3 _ e3 => exact ((State.Follows.dmaReadPieces (h.dmaReadPiece.of_eq e2)).of_eq e3 :)
      · exact State.Follows.dmaReadPieces (h.dmaReadPiece.of_eq e2)
    · exact h.dmaReadPiece

theorem State.Follows.dmaReadSource {gch n : Nat} {ans : HostAns} (h : s₀.Follows s) : Side.Follows s₀ (s.dmaReadSource gch n ans) := by
  unfold State.dmaReadSource
  dsimp only
  split
  · exact h
  · split
    next t2 _ e2 =>
      split
      · exact State.Follows.useUpPieces (h.dmaReadPieces.of_eq e2)
      · exact State.Follows.useUpPieces (h.dmaReadPieces.of_eq e2)
    · exact h.dmaReadPieces

theorem State.Follows.dmaRead {gch n : Nat} {ans : HostAns} (h : s₀.Follows s) : Side.Follows s₀ (s.dmaRead gch n ans) := by
  unfold State.dmaRead
  split
  · split
    · exact h
    · exact h.dmaReadSource
  · exact h.dmaReadSource

theorem State.Follows.dmaStore {gch operand pa : Nat} {b : List Byte} {p : Bool} (h : s₀.Follows s) : Side.Follows s₀ (s.dmaStore gch
    operand pa b p) := by
  unfold State.dmaStore
  split
  · dsimp only
    split
    · exact h
    · exact h
    next t2 e2 => exact (h.remoteStore.of_eq e2 :)
  · exact h.writeRange
  · exact h
  · exact h
  · split
    · exact h
    · split
      · exact h
      · exact h.writeRange

theorem State.Follows.dmaStores {s : State} {gch operand : Nat} {x3 : List (Nat × List Byte × Bool)} (h : s₀.Follows s) : Side.Follows
    s₀ (s.dmaStores gch operand x3) := by
  unfold State.dmaStores
  split
  · exact h
  · split
    next t2 _ e2 => exact ((State.Follows.addBytes (h.dmaStore.of_eq e2)).modChan).dmaStores
    · exact h.dmaStore

theorem State.Follows.dmaWrite {gch : Nat} {b : List Byte} {f : List Bool} (h : s₀.Follows s) : Side.Follows s₀ (s.dmaWrite gch b f) := by
  unfold State.dmaWrite
  dsimp only
  split
  · exact h
  · exact h.dmaStores

theorem State.Follows.burstFail {gch : Nat} (h : s₀.Follows s) : s₀.Follows (s.burstFail gch) :=
  State.Follows.ite h.lit.channelError (State.Follows.ite h.lit.channelError h.lit.modChan)

theorem State.Follows.burstDone {gch : Nat} (h : s₀.Follows s) : s₀.Follows (s.burstDone gch) := by
  unfold State.burstDone
  split
  · exact h
  · split
    · exact h
    · exact State.Follows.ite h.modChan h

theorem State.Follows.reserve {gch n : Nat} (h : s₀.Follows s) : s₀.Follows (s.reserve gch n) := State.Follows.ite h.modChan.addLevel h

theorem State.Follows.runBurst {gch : Nat} {ans : HostAns} (h : s₀.Follows s) : s₀.Follows (s.runBurst gch ans) := by
  unfold State.runBurst
  extract_lets c
  split
  · exact h
  next b _ =>
    split
    · exact h
    · have hs : Side.Follows s₀ (if b.readDone then Side.ok s (c.staging, c.stagingPoison) else s.dmaRead gch b.bytes ans) := by
        split
        · exact h
        · exact h.dmaRead
      dsimp only
      generalize (if b.readDone then Side.ok s (c.staging, c.stagingPoison) else s.dmaRead gch b.bytes ans) = staged at hs ⊢
      cases staged with
      | wait t => exact hs
      | fail t => exact State.Follows.burstFail hs
      | halt t st d => exact State.Follows.channelError hs
      | ok t x =>
        dsimp only
        split
        next e => exact (State.Follows.modChan (s := t) hs).dmaWrite.of_eq e
        next e => exact State.Follows.burstFail ((State.Follows.modChan (s := t) hs).dmaWrite.of_eq e)
        next e => exact State.Follows.channelError ((State.Follows.modChan (s := t) hs).dmaWrite.of_eq e)
        next e => exact State.Follows.burstDone (State.Follows.modChan ((State.Follows.modChan (s := t) hs).dmaWrite.of_eq e))

theorem execDmaBurstStart_answers {stack ch : Nat} {ans : HostAns} (h : s₀.Follows s) : s₀.Answers False (execDmaBurstStart stack ch ans
    s) :=
  State.Answers.ite h.runBurst (State.Answers.ite h.lit.reserve.modChan.runBurst h)

theorem execDmaEndOfCount_answers {stack ch : Nat} (h : s₀.Follows s) : s₀.Answers False (execDmaEndOfCount stack ch s) := by
  unfold execDmaEndOfCount
  extract_lets g c t u
  have ht : s₀.Follows t := h.modChan.setNow.endInterrupt
  have hu : s₀.Follows u := .ite ht.segmentEnded (ht.andIf (·.loadShadow))
  exact .ite (hu.andIf (·.triggerEach)).endTrigger h

theorem execDmaBurstTimeout_answers {stack ch : Nat} (h : s₀.Follows s) : s₀.Answers False (execDmaBurstTimeout stack ch s) := by
  unfold execDmaBurstTimeout
  dsimp only
  split
  · exact State.Answers.ite h.burstFail h
  · exact h

theorem execDmaRetryStart_answers {stack ch : Nat} (h : s₀.Follows s) : s₀.Answers False (execDmaRetryStart stack ch s) := by
  unfold execDmaRetryStart
  dsimp only
  split
  · exact State.Answers.ite h.modChan h
  · exact h

theorem State.Follows.dmaLine {gch line : Nat} {b : List Byte} {poison : Nat} (h : s₀.Follows s) : s₀.Follows (s.dmaLine gch line b
    poison) :=
  h.modChan

theorem State.Follows.dmaLateArrival {gch : Nat} (h : s₀.Follows s) : s₀.Follows (s.dmaLateArrival gch) := h.modDmaRegs.log

/-! ### Regulation -/

theorem State.Follows.setBreach {l level key detail : Nat} {opens : Bool} (h : s₀.Follows s) : s₀.Follows (s.setBreach l level key
    detail opens) :=
  State.Follows.ite h h.modLod.event

theorem State.Follows.coreShares {l : Nat} {c : Contract} (h : s₀.Follows s) : s₀.Follows (s.coreShares l c) := h.setBreach.setBreach

theorem State.Follows.memoryShares {l : Nat} {c : Contract} (h : s₀.Follows s) : s₀.Follows (s.memoryShares l c) :=
  h.setBreach.setBreach.setBreach.setBreach

theorem State.Follows.recomputeShares (h : s₀.Follows s) : s₀.Follows (s.recomputeShares) := by
  unfold State.recomputeShares
  refine State.Follows.foldl ?_ (fun u x hu => ?_) _
  · exact h
  · split
    · split
      · refine State.Follows.memoryShares ?_
        refine State.Follows.coreShares ?_
        exact hu
      · exact hu
    · exact hu

theorem State.Follows.discardUnit {col : Nat} (h : s₀.Follows s) : s₀.Follows (s.discardUnit col) := by
  unfold State.discardUnit
  split
  · exact h
  · exact State.Follows.ite h.setRun h.giveUpUnit
  · exact State.Follows.ite h.setRun h.giveUpAttn

theorem State.Follows.discardUnits {cols : List Nat} (h : s₀.Follows s) : s₀.Follows (s.discardUnits cols) :=
  State.Follows.foldl h (fun _ _ hu => hu.discardUnit) _

theorem State.Follows.sweepFailed (h : s₀.Follows s) : s₀.Follows (s.sweepFailed) :=
  State.Follows.foldl h (fun _ _ hu => State.Follows.ite hu.endFailedMat (State.Follows.ite hu.endFailedAttn hu)) _

theorem State.Follows.saveBlocks {l d : Nat} {saved : Bool} (h : s₀.Follows s) : s₀.Follows (s.saveBlocks l d saved) := h.lit

theorem State.Follows.switchTurn {d : Nat} {from' : Option Nat} {to' : Nat} {credit : Tab Int} (h : s₀.Follows s) : s₀.Follows
    (s.switchTurn d from' to' credit) := by
  unfold State.switchTurn
  cases from' with
  | none => exact h.saveBlocks.lit
  | some a => exact h.discardUnits.saveBlocks.sweepFailed.saveBlocks.lit

theorem State.Follows.keepTurn {d : Nat} {credit : Tab Int} (h : s₀.Follows s) : s₀.Follows (s.keepTurn d credit) := h.lit

theorem execTurnEnd_answers {cluster : Nat} (h : s₀.Follows s) : s₀.Answers False (execTurnEnd cluster s) := by
  unfold execTurnEnd
  dsimp only
  split
  · exact h
  · split
    · exact h
    · exact State.Answers.ite h.keepTurn h.switchTurn
    · split
      · exact h
      · exact State.Answers.ite h.keepTurn h.switchTurn

theorem execLodSliceWrite_answers {value : Nat} (h : s₀.Follows s) : s₀.Answers False (execLodSliceWrite value s) := by
  unfold execLodSliceWrite
  dsimp only
  split
  · exact h
  · have hlt : bits value 0 16 < 2 ^ 16 := Nat.mod_lt _ (by decide)
    exact h.trans_of rfl le_rfl fun hs => { hs with quantum := by dsimp only; omega }

theorem State.Follows.grantReq {q : QReq} (h : s₀.Follows s) : s₀.Follows (s.grantReq q) :=
  (State.Follows.ite ((State.Follows.ite h.count h).count) (State.Follows.ite h.count h)).lit

theorem execRequestAgeRaise_answers {req : Nat} (h : s₀.Follows s) : s₀.Answers False (execRequestAgeRaise req s) :=
  State.Answers.ite h.lit h

theorem execQosWindowBoundary_answers (h : s₀.Follows s) : s₀.Answers False (execQosWindowBoundary s) := State.Answers.ite h h.lit

theorem execFloorBreach_answers {lod res cls : Nat} (h : s₀.Follows s) : s₀.Answers False (execFloorBreach lod res cls s) :=
  State.Answers.ite h.setBreach (State.Answers.ite h.setBreach h)

theorem execQosClassCfgWrite_answers {reg value : Nat} (h : s₀.Follows s) : s₀.Answers False (execQosClassCfgWrite reg value s) :=
  State.Answers.ite h.lit (State.Answers.ite h h.lit)

theorem execLatencyBreachClose_answers {lod : Nat} (h : s₀.Follows s) : s₀.Answers False (execLatencyBreachClose lod s) :=
  State.Answers.ite h.setBreach h

/-! ### Records -/

theorem State.Follows.storeDigest {c : Cmd} (h : s₀.Follows s) : s₀.Follows (s.storeDigest c) := by
  unfold State.storeDigest
  split
  · split
    · exact h
    · exact h.modLod
  · exact h

theorem State.Follows.startDigestRead {c : Cmd} (h : s₀.Follows s) : s₀.Follows (s.startDigestRead c) := by
  unfold State.startDigestRead
  dsimp only
  split
  · exact h.finish
  · split
    · exact h.endWith
    · exact h.modCmd
    next t2 _ e2 => exact (State.Follows.modCmd (h.vwrite.of_eq e2)).finish

theorem State.Follows.startTraceMark {c : Cmd} (h : s₀.Follows s) : s₀.Follows (s.startTraceMark c) :=
  (State.Follows.foldl h.trace (fun _ _ hu => hu.trace) _).finish

theorem execTraceHeaderUpdate_answers {lod stack : Nat} (h : s₀.Follows s) : s₀.Answers False (execTraceHeaderUpdate lod stack s) := by
  unfold execTraceHeaderUpdate
  split
  · exact h
  · exact h.writeRange.modLod

theorem execTraceDropRecord_answers {lod stack : Nat} {room : Bool} (h : s₀.Follows s) : s₀.Answers False (execTraceDropRecord lod stack
    room s) := by
  unfold execTraceDropRecord
  split
  · exact h
  · exact (State.Follows.ite h.putTrace h).modLod

theorem execPmcSample_answers {i : Nat} (h : s₀.Follows s) : s₀.Answers False (execPmcSample i s) := by
  unfold execPmcSample
  dsimp only
  split
  · exact h
  · split
    · exact h.lit
    · exact h.lit.trace

theorem execInkPmcCfgWrite_answers {i value : Nat} (h : s₀.Follows s) : s₀.Answers False (execInkPmcCfgWrite i value s) := h.lit

theorem execDbgLedgerSel_answers {value : Nat} (h : s₀.Follows s) : s₀.Answers False (execDbgLedgerSel value s) :=
  State.Answers.ite h h.lit

/-! ### The checks of packets -/

theorem CheckRes.ofBad_follows {x1 : Option Status} (h : s₀.Follows s) : CheckRes.Follows s₀ (CheckRes.ofBad s x1) := by
  unfold CheckRes.ofBad
  split
  · exact h
  · exact h

theorem State.Follows.fieldCheck {c : Cmd} {ans : HostAns} (h : s₀.Follows s) : CheckRes.Follows s₀ (s.fieldCheck c ans) := by
  unfold State.fieldCheck
  split
  · exact h.gemmCheck
  · exact h.gemmCheck
  · exact h.gemmCheck
  · exact h.gemmCheck
  · exact h.gemmCheck
  · exact h.attnCheck
  · exact h.attnCheck
  · exact h.attnCheck
  · exact h.attnCheck
  · exact h.launchCheck
  · exact CheckRes.ofBad_follows h
  · exact CheckRes.ofBad_follows h
  · exact CheckRes.ofBad_follows h
  · exact CheckRes.ofBad_follows h
  · exact CheckRes.ofBad_follows h
  · exact CheckRes.ofBad_follows h
  · exact CheckRes.ofBad_follows h
  · exact CheckRes.ofBad_follows h
  · exact h.mapCheck
  · exact CheckRes.ofBad_follows h
  · exact CheckRes.ofBad_follows h
  · exact h

theorem State.Follows.dispatchCheck {c : Cmd} {ans : HostAns} (h : s₀.Follows s) : CheckRes.Follows s₀ (s.dispatchCheck c ans) := by
  unfold State.dispatchCheck
  split
  next t1 _ _ e1 =>
    split
    · exact (h.fieldCheck.of_eq e1 :)
    · exact h.fieldCheck.of_eq e1
  · exact h.fieldCheck

theorem State.Follows.countCheck {c : Cmd} (h : s₀.Follows s) : s₀.Follows (s.countCheck c) := h.modPorter.log

/-! ### The start of a command -/

theorem State.Follows.sendSignal {c : Cmd} (h : s₀.Follows s) : s₀.Follows (s.sendSignal c) := by
  unfold State.sendSignal
  dsimp only
  split
  next t1 e1 => exact State.Follows.modCmd (h.newTxn.cylSend.of_eq e1)
  · exact h.modCmd
  · exact h.endWith

theorem State.Follows.startSignalWrite {c : Cmd} (h : s₀.Follows s) : s₀.Follows (s.startSignalWrite c) :=
  State.Follows.ite h.sendSignal h.updateSignal.finish

theorem State.Follows.startSignalWait {c : Cmd} (h : s₀.Follows s) : s₀.Follows (s.startSignalWait c) :=
  State.Follows.ite h.finish (State.Follows.ite h.modCmd.endWith h)

theorem State.Follows.startEffect {c : Cmd} {ans : HostAns} (h : s₀.Follows s) : s₀.Follows (s.startEffect c ans) := by
  unfold State.startEffect
  split
  · exact h.startMat
  · exact h.startMat
  · exact h.startMat
  · exact h.startMat
  · exact h.startMat
  · exact h.startAttn
  · exact h.startAttn
  · exact h.startAttn
  · exact h.startAppend
  · exact h.startLaunch
  · exact h.startCopy
  · exact h.startCopy
  · exact h.startCopy
  · exact h.startPush
  · exact h.startFlush
  · exact h.startInvalidate
  · exact h.startSignalWrite
  · exact h.startSignalWait
  · exact h.startMap
  · exact h.startUnmap
  · exact h.startDigestRead
  · exact h.startTraceMark
  · exact h.finish

theorem State.Follows.startCmd {c : Cmd} {ans : HostAns} (h : s₀.Follows s) : s₀.Follows (s.startCmd c ans) :=
  h.modCmd.traceStart.startEffect

theorem State.Follows.dispatch {k : Nat} {p : Porter} {c : Cmd} {ans : HostAns} (h : s₀.Follows s) : s₀.Follows (s.dispatch k p c ans)
    := by
  unfold State.dispatch
  split
  next t1 e1 => exact h.dispatchCheck.of_eq e1
  next t1 _ _ e1 => exact ((State.Follows.usePorter (h.dispatchCheck.of_eq e1)).countCheck).modCmd
  next t1 _ _ e1 => exact ((State.Follows.usePorter (h.dispatchCheck.of_eq e1)).modCmd).startCmd

theorem State.Follows.dispatchLoop {s : State} {k : Nat} {ans : HostAns} {x3 : Nat} (h : s₀.Follows s) : s₀.Follows (s.dispatchLoop k
    ans x3) := by
  unfold State.dispatchLoop
  split
  · exact h
  · split
    · exact h
    · split
      · exact h
      · exact h.dispatch.dispatchLoop

theorem State.Follows.startAll {ans : optParam HostAns HostAns.data} (h : s₀.Follows s) : s₀.Follows (s.startAll ans) :=
  State.Follows.foldl h (fun _ _ hu => hu.dispatchLoop) _

/-! ### Delivery -/

theorem State.Follows.respond {f : Flit} (h : s₀.Follows s) : s₀.Follows (s.respond f) := h.lit

theorem State.Follows.ackFlit {f : Flit} (h : s₀.Follows s) : s₀.Follows (s.ackFlit f) := h.respond

theorem State.Follows.faultFlit {f : Flit} {st : Nat} (h : s₀.Follows s) : s₀.Follows (s.faultFlit f st) := h.respond

theorem State.Follows.dataHalf {f : Flit} {wanted half : Nat} {get : Nat → Sector} (h : s₀.Follows s) : s₀.Follows (s.dataHalf f wanted
    half get) := by
  unfold State.dataHalf
  split
  · split
    · split
      · exact h
      · exact h.respond
      · exact h.respond
      · exact State.Follows.ite h.respond h.respond.respond
    · split
      · exact h
      · exact h.respond
      · exact h.respond
      · exact State.Follows.ite h.respond h.respond.respond
  · split
    · split
      · exact h
      · exact h.respond
      · exact h.respond
      · exact State.Follows.ite h.respond h.respond.respond
    · split
      · exact h
      · exact h.respond
      · exact h.respond
      · exact State.Follows.ite h.respond h.respond.respond

theorem State.Follows.sendData {f : Flit} {get : Nat → Sector} (h : s₀.Follows s) : s₀.Follows (s.sendData f get) :=
  h.dataHalf.dataHalf

theorem State.Follows.retryRemote {s : State} {x1 : List HeldRead} (h : s₀.Follows s) : s₀.Follows (s.retryRemote x1) := by
  unfold State.retryRemote
  split
  · exact h
  · split
    · split
      next t3 _ _ e3 => exact ((State.Follows.lit (h.remoteLine.of_eq e3)).sendData).retryRemote
      next t3 e3 => exact State.Follows.retryRemote (h.remoteLine.of_eq e3)
      next t3 _ _ e3 => exact ((State.Follows.lit (h.remoteLine.of_eq e3)).faultFlit).retryRemote
      next t3 e3 => exact ((State.Follows.lit (h.remoteLine.of_eq e3)).faultFlit).retryRemote
    · exact h.retryRemote

theorem State.Follows.ackOne {id : Nat} (h : s₀.Follows s) : s₀.Follows (s.ackOne id) := h.modCmd

theorem State.Follows.ackCmd {id : Nat} (h : s₀.Follows s) : s₀.Follows (s.ackCmd id) := h.ackOne.settle

theorem State.Follows.performed {t : Txn} {blk : Nat} (h : s₀.Follows s) : s₀.Follows (s.performed t blk) := by
  unfold State.performed
  split
  · exact h.dropTxn.ackOne
  · exact h.dropTxn.wakeBlock

theorem State.Follows.haltAccess {t : Txn} {st d : Nat} (h : s₀.Follows s) : s₀.Follows (s.haltAccess t st d) := by
  unfold State.haltAccess
  split
  · exact h.dropTxn.failCmd.ackOne
  · split
    · exact h.dropTxn
    · dsimp only
      split
      · exact h.dropTxn.haltGroup
      · exact h.dropTxn

theorem State.Follows.haltFeed {t : Txn} {blk idx st d : Nat} (h : s₀.Follows s) : s₀.Follows (s.haltFeed t blk idx st d) := by
  unfold State.haltFeed
  split
  · exact h.dropTxn.failCmd.ackOne
  · dsimp only
    split
    · exact h.dropTxn
    · split
      · exact h.dropTxn.haltGroup
      · exact h.dropTxn

theorem State.Follows.fedOne {t : Txn} {blk idx : Nat} (h : s₀.Follows s) : s₀.Follows (s.fedOne t blk idx) := by
  unfold State.fedOne
  split
  · exact h.dropTxn.ackOne
  · exact h.dropTxn.modBlock.settleFeed

theorem State.Follows.loadArrives {t : Txn} {b : List Byte} {p : Bool} (h : s₀.Follows s) : s₀.Follows (s.loadArrives t b p) := by
  unfold State.loadArrives
  split
  · exact h.putLoad.dropTxn.wakeBlock
  · exact h

theorem State.Follows.atomicArrives {t : Txn} {old : Nat} {p : Bool} (h : s₀.Follows s) : s₀.Follows (s.atomicArrives t old p) := by
  unfold State.atomicArrives
  split
  · exact h.putAtomic.performed
  · exact h.putAtomic.performed
  · exact h.dropTxn.cylReply
  · exact h.dropTxn.respond
  · exact h.dropTxn
  · exact h

theorem State.Follows.homeRefused {t : Txn} {cmds : List Nat} {l : CacheLine} {st d : Nat} (h : s₀.Follows s) : s₀.Follows
    (s.homeRefused t cmds l st d) :=
  State.Follows.foldl (State.Follows.ite h.dropTxn.homeUnreached h.dropTxn.discardReduce) (fun _ _ hu => hu.failCmd.ackCmd) _

theorem State.Follows.faultNoted {t : Txn} {st d : Nat} (h : s₀.Follows s) : s₀.Follows (s.faultNoted t st d) := by
  unfold State.faultNoted
  split
  · exact h.haltAccess
  · exact h.haltAccess
  · exact h.haltAccess
  · exact h.haltAccess
  · exact h.haltFeed
  · exact State.Follows.ite h.dropTxn.burstFail h.dropTxn.channelError
  · exact h.dropTxn.dmaLateArrival
  · exact h.dropTxn.newTxn
  · exact h
  · exact h.dropTxn.failCmd.ackOne
  · exact h.dropTxn
  · exact h.dropTxn.failCmd.ackCmd
  · exact h.homeRefused
  · exact h.dropTxn
  · exact h.dropTxn.cylReply
  · exact h.dropTxn.faultFlit

theorem State.Follows.trySend {i : Nat} (h : s₀.Follows s) : Sent.Follows s₀ (s.trySend i) := by
  unfold State.trySend
  split
  · trivial
  · exact h.lit.cylSend

theorem State.Follows.sendWaiting {s : State} {x1 : Nat} (h : s₀.Follows s) : s₀.Follows (s.sendWaiting x1) := by
  unfold State.sendWaiting
  split
  · exact h
  · split
    · exact h
    · split
      next t3 _ e3 _ =>
        refine State.Follows.sendWaiting ?_
        split
        · exact (State.Follows.lit (h.trySend.of_eq e3)).grantReq
        · exact State.Follows.lit (h.trySend.of_eq e3)
      · split
        · exact h.lit.faultNoted.sendWaiting
        · exact h.lit.sendWaiting
      · exact h

theorem State.Follows.retryLoads {s : State} {x1 : List Txn} (h : s₀.Follows s) : s₀.Follows (s.retryLoads x1) := by
  unfold State.retryLoads
  split
  · exact h
  · split
    · split
      · split
        next t4 _ _ e4 => exact (State.Follows.loadArrives (h.remoteLine.of_eq e4)).retryLoads
        next t4 e4 => exact State.Follows.retryLoads (h.remoteLine.of_eq e4)
        next t4 _ _ e4 => exact (State.Follows.haltAccess (h.remoteLine.of_eq e4)).retryLoads
        next t4 e4 => exact (State.Follows.haltAccess (h.remoteLine.of_eq e4)).retryLoads
      · exact h.retryLoads
    · exact h.retryLoads

theorem State.Follows.resume {c : Cmd} (h : s₀.Follows s) : s₀.Follows (s.resume c) := State.Follows.ite h.startEffect h

theorem State.Follows.pump (h : s₀.Follows s) : s₀.Follows (s.pump) := by
  unfold State.pump
  refine State.Follows.startAll ?_
  refine State.Follows.foldl ?_ (fun u x hu => ?_) _
  · exact State.Follows.foldl h.sendWaiting.retryRemote.retryLoads (fun _ _ hu => hu.useUp) _
  · split
    · refine State.Follows.resume ?_
      exact hu
    · exact hu

theorem State.Follows.holdShared {lod line : Nat} {keep : Bool} {b : List Byte} {p : Nat} (h : s₀.Follows s) : s₀.Follows (s.holdShared
    lod line keep b p) := by
  unfold State.holdShared
  split
  · exact h
  · split
    · exact h.addLine
    · split
      next t3 _ e3 => exact h.allocate.of_eq e3
      · exact h.addLine

theorem State.Follows.lineArrives {t : Txn} {b : List Byte} {p : Nat} (h : s₀.Follows s) : s₀.Follows (s.lineArrives t b p) := by
  unfold State.lineArrives
  split
  · exact h.dropTxn.holdShared.pump
  · exact h.dropTxn.dmaLine
  · exact h.dropTxn.dmaLateArrival
  · exact h.dropTxn.sendData
  · exact h.dropTxn

theorem State.Follows.sectorsArrive {t : Txn} {xs : Tab (List Byte × Bool)} (h : s₀.Follows s) : s₀.Follows (s.sectorsArrive t xs) :=
  State.Follows.ite h.lineArrives h.lit

theorem State.Follows.ackArrives {t : Txn} {flag : Bool} (h : s₀.Follows s) : s₀.Follows (s.ackArrives t flag) := by
  unfold State.ackArrives
  split
  · exact h.performed
  · exact h.fedOne
  · exact h.dropTxn.burstDone
  · exact h.dropTxn.dmaLateArrival
  · exact h.dropTxn.ackOne
  · exact h.dropTxn.ackCmd
  · exact State.Follows.foldl h.dropTxn (fun _ _ hu => (State.Follows.ite hu.noticeCmd hu).ackCmd) _
  · exact h.dropTxn.ackFlit
  · exact h.dropTxn

theorem State.Follows.faultArrives {t : Txn} {st d : Nat} (h : s₀.Follows s) : s₀.Follows (s.faultArrives t st d) := by
  unfold State.faultArrives
  split
  · exact h.faultNoted.pump
  · exact h.faultNoted

/-! ### Windows -/

theorem State.Follows.advisory {k : Nat} (h : s₀.Follows s) : s₀.Follows (s.advisory k) := h.emit

theorem State.Follows.dropBell {l : Nat} (h : s₀.Follows s) : s₀.Follows (s.dropBell l) := State.Follows.ite h h.modLod

theorem State.Follows.dropCtrl {l : Nat} (h : s₀.Follows s) : s₀.Follows (s.dropCtrl l) := State.Follows.ite h h.modLod

theorem State.Follows.ring {l g tail : Nat} (h : s₀.Follows s) : s₀.Follows (s.ring l g tail) :=
  State.Follows.ite h (State.Follows.ite h.modGalley h.stopGalley)

theorem execGalleyDoorbell_answers {vf off width value : Nat} {ep : Bool} (h : s₀.Follows s) : s₀.Answers False (execGalleyDoorbell vf
    off width value ep s) :=
  State.Answers.ite h.advisory (State.Answers.ite h.dropBell h.ring)

theorem State.Follows.enableStopped {l g st : Nat} (h : s₀.Follows s) : s₀.Follows (s.enableStopped l g st) := h.modGalley

theorem State.Follows.readDesc {l g : Nat} {ans : HostAns} (h : s₀.Follows s) : s₀.Follows (s.readDesc l g ans).1 := by
  unfold State.readDesc
  split
  · exact h
  · dsimp only
    split
    · exact State.Follows.ite h.logHost h
    · split
      · split
        · exact h.logHost.readAt
        · exact h.logHost.readAt
      · split
        · exact h.readAt
        · exact h.readAt

theorem State.Follows.enable {l g : Nat} {ans : HostAns} (h : s₀.Follows s) : s₀.Follows (s.enable l g ans) := by
  unfold State.enable
  split
  next t1 _ _ e1 => exact (((h.readDesc.fst e1).enableStopped).noteFault).writeBackDesc
  next t1 _ e1 =>
    split
    · exact ((((h.readDesc.fst e1).modGalley).enableStopped).writeBackDesc).raiseGalley
    · split
      · exact ((((h.readDesc.fst e1).modGalley).enableStopped).writeBackDesc).raiseGalley
      · exact (((h.readDesc.fst e1).modGalley).modGalley).writeBackDesc

theorem execGalleyEnable_answers {vf g : Nat} {ans : HostAns} {ep : Bool} (h : s₀.Follows s) : s₀.Answers False (execGalleyEnable vf g
    ans ep s) :=
  State.Answers.ite h.advisory (State.Answers.ite h.dropCtrl h.enable)

theorem State.Follows.abortWaits {l g d : Nat} (h : s₀.Follows s) : s₀.Follows (s.abortWaits l g d) := h.lit

theorem execGalleyDisable_answers {vf g : Nat} {ep : Bool} (h : s₀.Follows s) : s₀.Answers False (execGalleyDisable vf g ep s) :=
  State.Answers.ite h.advisory (State.Answers.ite h.dropCtrl h.modGalley.abortFetched.abortWaits.writeBackDesc)

theorem execGalleyResume_answers {vf g : Nat} {ep : Bool} (h : s₀.Follows s) : s₀.Answers False (execGalleyResume vf g ep s) :=
  State.Answers.ite h.advisory (State.Answers.ite h.dropCtrl h.modGalley.writeBackDesc)

theorem execDrainComplete_answers {vf g : Nat} (h : s₀.Follows s) : s₀.Answers False (execDrainComplete vf g s) :=
  State.Answers.ite h.modGalley.writeBackDesc h

theorem execGdtBaseWrite_answers {vf value : Nat} {ep : Bool} (h : s₀.Follows s) : s₀.Answers False (execGdtBaseWrite vf value ep s) :=
  State.Answers.ite h.advisory (State.Answers.ite h.dropCtrl h.modLod)

theorem execSignalAreaWrite_answers {vf off width value : Nat} {ep : Bool} (h : s₀.Follows s) : s₀.Answers False (execSignalAreaWrite vf
    off width value ep s) :=
  State.Answers.ite h.advisory (State.Answers.ite h.dropBell h.updateSignal.startAll)

theorem execSignalWaitTimeout_answers {cmd : Nat} (h : s₀.Follows s) : s₀.Answers False (execSignalWaitTimeout cmd s) := by
  unfold execSignalWaitTimeout
  split
  · exact h
  · exact State.Answers.ite h.modCmd.startAll h

theorem State.Follows.reject {fn : Fn} (h : s₀.Follows s) : s₀.Follows (s.reject fn) := h.modMbx

theorem execMbxCmdWrite_answers {fn : Fn} {off : Nat} {bytes : List Byte} {ep : Bool} (h : s₀.Follows s) : s₀.Answers False
    (execMbxCmdWrite fn off bytes ep s) :=
  State.Answers.ite h.advisory (State.Answers.ite h.reject (State.Answers.ite h h.modMbx))

/-! ### Resets -/

theorem State.Follows.lastBurst {gch : Nat} (h : s₀.Follows s) : s₀.Follows (s.lastBurst gch) := by
  unfold State.lastBurst
  dsimp only
  split
  · exact h.modChan
  · exact h.segmentEnded

theorem State.Follows.abortLodging {l : Nat} (h : s₀.Follows s) : s₀.Follows (s.abortLodging l) := by
  unfold State.abortLodging
  extract_lets ids fetched waits failed units swept dropped settled chans last copies
  have hwaits : s₀.Follows waits := h.lit.foldl (fun _ _ hu => hu.abortWaits) _
  have hfailed : s₀.Follows failed := hwaits.foldl (fun _ _ hu => hu.failCmd) _
  have hdropped : s₀.Follows dropped := hfailed.discardUnits.sweepFailed.foldl (fun _ _ hu => hu.dropBlock) _
  have hsettled : s₀.Follows settled := hdropped.foldl (fun _ _ hu => hu.settleLaunch) _
  have hlast : s₀.Follows last := hsettled.foldl (fun _ _ hu => hu.lastBurst) _
  have hcopies : s₀.Follows copies := hlast.foldl (fun _ _ hu => hu.settleCopy) _
  exact hcopies.foldl (fun _ _ hu => hu.endCmd) _

theorem State.Follows.beginReset {l : Nat} {st : LState} (h : s₀.Follows s) : s₀.Follows (s.beginReset l st).1 := h.modLod.abortLodging

theorem State.Follows.resetReduce {s : State} {destroy : Bool} {x2 : List CacheLine} (h : s₀.Follows s) : s₀.Follows (s.resetReduce
    destroy x2) := by
  unfold State.resetReduce
  split
  · exact h
  · exact (State.Follows.getD (State.Follows.ite h.discardReduce h) h.sendHome).resetReduce

theorem State.Follows.resetLines {l : Nat} {destroy : Bool} (h : s₀.Follows s) : s₀.Follows (s.resetLines l destroy).1 :=
  h.resetReduce.lit.unkeep

theorem State.Follows.clearTrace {l : Nat} (h : s₀.Follows s) : s₀.Follows (s.clearTrace l) := by
  unfold State.clearTrace
  dsimp only
  split
  · exact h.modLod
  · exact State.Follows.ite h.modLod (State.Follows.foldl h.modLod (fun _ _ hu => hu.writeRange) _)

theorem State.Follows.clearLodging {l : Nat} (h : s₀.Follows s) : s₀.Follows (s.clearLodging l) := h.lit.modLod.clearTrace

theorem State.Follows.resetSteps {l : Nat} {destroy : Bool} (h : s₀.Follows s) : s₀.Follows (s.resetSteps l destroy).1 := by
  unfold State.resetSteps
  split
  · exact h
  · split
    next t2 e2 => exact (h.resetLines.fst e2).clearLodging
    next t2 e2 => exact h.resetLines.fst e2

theorem State.Follows.finishReset {l : Nat} (h : s₀.Follows s) : s₀.Follows (s.finishReset l).1 := by
  unfold State.finishReset
  split
  next t1 e1 => exact ((h.resetSteps.fst e1).modLod).event
  next t1 e1 => exact h.resetSteps.fst e1

theorem State.Follows.unmapTarget {l lo n : Nat} (h : s₀.Follows s) : s₀.Follows (s.unmapTarget l lo n) :=
  State.Follows.foldl h (fun _ _ hu => hu.removePages) _

theorem State.Follows.clearScratch {lo n : Nat} (h : s₀.Follows s) : s₀.Follows (s.clearScratch lo n) :=
  h.litMem fun hm => Memory.wf_filter _ hm _ _

theorem State.Follows.returnPages {lo n : Nat} (h : s₀.Follows s) : s₀.Follows (s.returnPages lo n) := h.lit

theorem State.Follows.dropTurns {l mask : Nat} (h : s₀.Follows s) : s₀.Follows (s.dropTurns l mask) := h.lit

theorem State.Follows.finishDestroy {l : Nat} (h : s₀.Follows s) : s₀.Follows (s.finishDestroy l).1 := by
  unfold State.finishDestroy
  split
  next e => exact h.resetSteps.fst e
  next t e =>
    have ht : s₀.Follows t := h.resetSteps.fst e
    refine State.Follows.recomputeShares (State.Follows.modLod (State.Follows.lit ?_))
    split
    · exact .foldl ht (fun _ _ hu => hu.removePages) _
    · exact (State.Follows.foldl (.foldl (.foldl ht (fun _ _ hu => hu.removePages) _) (fun _ _ hu => hu.clearScratch) _)
        (fun _ _ hu => hu.returnPages) _).dropTurns

theorem State.Follows.carryFlr {l : Nat} (h : s₀.Follows s) : s₀.Follows (s.carryFlr l) :=
  State.Follows.ite h.finishReset (State.Follows.ite h.finishDestroy h)

theorem State.Follows.startFlr {l : Nat} (h : s₀.Follows s) : s₀.Follows (s.startFlr l) := h.beginReset.carryFlr

theorem State.Follows.releaseFlr {l : Nat} (h : s₀.Follows s) : s₀.Follows (s.releaseFlr l) :=
  State.Follows.ite (State.Follows.ite h.modLod.startFlr h.modLod) h

theorem execFunctionLevelReset_answers {vf : Nat} (h : s₀.Follows s) : s₀.Answers False (execFunctionLevelReset vf s) := by
  unfold execFunctionLevelReset
  dsimp only
  split
  · exact h.lit
  · exact State.Answers.ite h.lit.modLod h.lit.startFlr
  · exact h.lit.carryFlr
  · exact h.lit.carryFlr

/-! ### Contracts -/

theorem State.Follows.createLodging {l : Nat} {c : Contract} (h : s₀.Follows s) : s₀.Follows (s.createLodging l c) :=
  (((h.modLod.litVitals (by rfl) (by rfl) (by rfl)).clearTrace).recomputeShares).event

theorem State.Follows.withdrawClusters {l mask : Nat} (h : s₀.Follows s) : s₀.Follows (s.withdrawClusters l mask) :=
  State.Follows.foldl h.discardUnits.dropTurns (fun _ _ hu => hu.saveBlocks) _

theorem State.Follows.emptyFrames {l k : Nat} (h : s₀.Follows s) : s₀.Follows (s.emptyFrames l k) :=
  State.Follows.foldl h (fun _ _ hu => State.Follows.getD hu hu.ackedLine.replace) _

theorem State.Follows.settlePins {l k : Nat} (h : s₀.Follows s) : s₀.Follows (s.settlePins l k) :=
  State.Follows.foldl (State.Follows.foldl h (fun _ _ hu => hu.swapLine) _) (fun _ _ hu => hu.useLine) _

theorem State.Follows.changeContract {l : Nat} {c : Contract} (h : s₀.Follows s) : s₀.Follows (s.changeContract l c) := by
  unfold State.changeContract
  split
  · exact h
  · extract_lets withdrawn kept frames gibs unmapped returned changed emptied contracted pinned traced dealt
    have hunmapped : s₀.Follows unmapped := h.withdrawClusters.foldl (fun _ _ hu => hu.unmapTarget.clearScratch) _
    have hreturned : s₀.Follows returned := hunmapped.foldl (fun _ _ hu => hu.unmapTarget.returnPages) _
    have hemptied : s₀.Follows emptied := hreturned.foldl (fun _ _ hu => hu.emptyFrames) _
    have hpinned : s₀.Follows pinned := hemptied.modLod.foldl (fun _ _ hu => hu.settlePins) _
    have htraced : s₀.Follows traced := hpinned.unless (·.clearTrace)
    have hdealt : s₀.Follows dealt := htraced.foldl (fun _ _ hu => hu.dealAll) _
    exact hdealt.recomputeShares.event

/-! ### The porters -/

theorem State.Follows.advance {c : Cmd} {used : Nat} (h : s₀.Follows s) : s₀.Follows (s.advance c used) := h.modGalley

theorem State.Follows.headBack {l g used : Nat} (h : s₀.Follows s) : s₀.Follows (s.headBack l g used) :=
  State.Follows.ite h.writeBackDesc h

theorem State.Follows.addCmd {c : Cmd} (h : s₀.Follows s) : s₀.Follows (s.addCmd c) := h.lit

theorem State.Follows.refusedAtFetch {p : Porter} {c : Cmd} {st d used : Nat} (h : s₀.Follows s) : s₀.Follows (s.refusedAtFetch p c st d
    used) :=
  h.usePorter.countCheck.addCmd.advance.headBack

theorem State.Follows.fetchRow {l g : Nat} {want : Nat → Bool} {ans : HostAns} (h : s₀.Follows s) : s₀.Follows (s.fetchRow l g want ans)
    := by
  unfold State.fetchRow
  have hc : s₀.Follows (s.chain l g).1 := h.chain
  generalize s.chain l g = x at hc ⊢
  obtain ⟨t, r⟩ := x
  split
  · exact h
  · cases r with
    | packets b used bad =>
      refine .ite h ?_
      split
      · exact State.Follows.refusedAtFetch hc
      · refine .ite ?_ (State.Follows.startAll (State.Follows.headBack (State.Follows.advance (State.Follows.addCmd hc))))
        split
        next e => exact (State.Follows.dispatchCheck hc).of_eq e
        next e => exact State.Follows.refusedAtFetch ((State.Follows.dispatchCheck hc).of_eq e)
        next w _ _ e =>
          have hw : s₀.Follows w := (State.Follows.dispatchCheck hc).of_eq e
          exact hw.usePorter.addCmd.advance.headBack.startCmd.startAll
    | _ => exact h

theorem execNop_answers {lod g : Nat} (h : s₀.Follows s) : s₀.Answers False (execNop lod g s) := h.fetchRow

theorem execGemm_answers {lod g : Nat} (h : s₀.Follows s) : s₀.Answers False (execGemm lod g s) := h.fetchRow

theorem execGemmGrouped_answers {lod g : Nat} {ans : HostAns} (h : s₀.Follows s) : s₀.Answers False (execGemmGrouped lod g ans s) :=
  h.fetchRow

theorem execGemmMultiword_answers {lod g : Nat} (h : s₀.Follows s) : s₀.Answers False (execGemmMultiword lod g s) := h.fetchRow

theorem execGemmComplex_answers {lod g : Nat} (h : s₀.Follows s) : s₀.Answers False (execGemmComplex lod g s) := h.fetchRow

theorem execElementwiseArray_answers {lod g : Nat} (h : s₀.Follows s) : s₀.Answers False (execElementwiseArray lod g s) := h.fetchRow

theorem execAttentionFwd_answers {lod g : Nat} {ans : HostAns} (h : s₀.Follows s) : s₀.Answers False (execAttentionFwd lod g ans s) :=
  h.fetchRow

theorem execAttentionBwd_answers {lod g : Nat} {ans : HostAns} (h : s₀.Follows s) : s₀.Answers False (execAttentionBwd lod g ans s) :=
  h.fetchRow

theorem execAttentionDecode_answers {lod g : Nat} {ans : HostAns} (h : s₀.Follows s) : s₀.Answers False (execAttentionDecode lod g ans
    s) :=
  h.fetchRow

theorem execKvAppend_answers {lod g : Nat} {ans : HostAns} (h : s₀.Follows s) : s₀.Answers False (execKvAppend lod g ans s) :=
  h.fetchRow

theorem execKernelLaunch_answers {lod g : Nat} {ans : HostAns} (h : s₀.Follows s) : s₀.Answers False (execKernelLaunch lod g ans s) :=
  h.fetchRow

theorem execCopy_answers {lod g : Nat} (h : s₀.Follows s) : s₀.Answers False (execCopy lod g s) := h.fetchRow

theorem execFill_answers {lod g : Nat} (h : s₀.Follows s) : s₀.Answers False (execFill lod g s) := h.fetchRow

theorem execCopyRemote_answers {lod g : Nat} (h : s₀.Follows s) : s₀.Answers False (execCopyRemote lod g s) := h.fetchRow

theorem execReducePush_answers {lod g : Nat} {ans : HostAns} (h : s₀.Follows s) : s₀.Answers False (execReducePush lod g ans s) :=
  h.fetchRow

theorem execEpochFlush_answers {lod g : Nat} (h : s₀.Follows s) : s₀.Answers False (execEpochFlush lod g s) := h.fetchRow

theorem execEpochInvalidate_answers {lod g : Nat} (h : s₀.Follows s) : s₀.Answers False (execEpochInvalidate lod g s) := h.fetchRow

theorem execSignalWrite_answers {lod g : Nat} (h : s₀.Follows s) : s₀.Answers False (execSignalWrite lod g s) := h.fetchRow

theorem execSignalWait_answers {lod g : Nat} (h : s₀.Follows s) : s₀.Answers False (execSignalWait lod g s) := h.fetchRow

theorem execMap_answers {lod g : Nat} {ans : HostAns} (h : s₀.Follows s) : s₀.Answers False (execMap lod g ans s) := h.fetchRow

theorem execUnmap_answers {lod g : Nat} (h : s₀.Follows s) : s₀.Answers False (execUnmap lod g s) := h.fetchRow

theorem execDigestRead_answers {lod g : Nat} (h : s₀.Follows s) : s₀.Answers False (execDigestRead lod g s) := h.fetchRow

theorem execTraceMark_answers {lod g : Nat} (h : s₀.Follows s) : s₀.Answers False (execTraceMark lod g s) := h.fetchRow

theorem execBadOpcode_answers {lod g : Nat} (h : s₀.Follows s) : s₀.Answers False (execBadOpcode lod g s) := h.fetchRow

theorem execAdminInGalley_answers {lod g : Nat} (h : s₀.Follows s) : s₀.Answers False (execAdminInGalley lod g s) := h.fetchRow

theorem State.Follows.poisonStop {l g : Nat} {p : Porter} {b : List Byte} {used : Nat} (h : s₀.Follows s) : s₀.Follows (s.poisonStop l g
    p b used) :=
  h.usePorter.addCmd.advance.stopGalley

theorem execPoisonedPacket_answers {lod g k : Nat} {ans : HostAns} (h : s₀.Follows s) : s₀.Answers False (execPoisonedPacket lod g k ans
    s) := by
  unfold execPoisonedPacket
  split
  · exact h
  · split
    · exact h.chain.logHost.poisonStop
    · dsimp only
      split
      next t3 _ _ e3 => exact (h.chain.fst e3).poisonStop
      · exact h

theorem execRingSlotReadFault_answers {lod g k : Nat} {unsupported : Bool} (h : s₀.Follows s) : s₀.Answers False (execRingSlotReadFault
    lod g k unsupported s) := by
  unfold execRingSlotReadFault
  have hc : s₀.Follows (s.chain lod g).1 := h.chain
  generalize s.chain lod g = x at hc ⊢
  obtain ⟨t, r⟩ := x
  split
  · exact h
  next p _ =>
    extract_lets stop x
    have hstop : ∀ {t : State} (st : Nat), s₀.Follows t → s₀.Follows (stop t st) := fun st ht =>
      ht.usePorter.stopGalley.noteFault
    refine .ite (hstop _ (State.Follows.logHost hc)) ?_
    cases r with
    | fault st d => exact hstop st hc
    | _ => exact h

theorem State.Follows.writeRecord {c : Cmd} (h : s₀.Follows s) : s₀.Follows (s.writeRecord c) := by
  unfold State.writeRecord
  dsimp only
  split
  · exact h.storeDigest.writeAt.modGalley
  · exact h.storeDigest.stopGalley.noteFault

theorem State.Follows.doneSignal {c : Cmd} (h : s₀.Follows s) : s₀.Follows (s.doneSignal c) := State.Follows.ite h.updateSignal h

theorem State.Follows.doneInterrupt {c : Cmd} (h : s₀.Follows s) : s₀.Follows (s.doneInterrupt c) := State.Follows.ite h.raiseGalley h

theorem State.Follows.countNotices {c : Cmd} (h : s₀.Follows s) : s₀.Follows (s.countNotices c) :=
  State.Follows.ite (((State.Follows.ite h h.modLod).modLod).setBreach) (State.Follows.ite h h.modLod)

theorem State.Follows.dropCmd {c : Cmd} (h : s₀.Follows s) : s₀.Follows (s.dropCmd c) := h.lit.purgeBuffers

theorem execCommandCompletion_answers {cmd : Nat} (h : s₀.Follows s) : s₀.Answers False (execCommandCompletion cmd s) := by
  unfold execCommandCompletion
  split
  · exact h
  · refine .ite h ?_
    extract_lets c recorded noted signalled dropped brd timed stopped written
    have hnoted : s₀.Follows noted := h.modCmd.writeRecord.traceEnd.countNotices
    have htimed : s₀.Follows timed := hnoted.doneSignal.doneInterrupt.dropCmd.lit
    have hstopped : s₀.Follows stopped := htimed.andIf (·.stopGalley)
    have hwritten : s₀.Follows written := hstopped.andIf (·.writeBackDesc)
    exact hwritten.startAll.carryFlr

/-! ### The fabric -/

theorem State.Follows.takeCredits {f : Flit} (h : s₀.Follows s) : s₀.Follows (s.takeCredits f) := State.Follows.ite h h.lit

theorem State.Follows.takeFlit {f : Flit} (h : s₀.Follows s) : s₀.Follows (s.takeFlit f) := h.takeCredits.lit

theorem State.Follows.crossLink {lod cls i : Nat} (h : s₀.Follows s) : s₀.Follows (s.crossLink lod cls i) := h.lit.addBytes.grant

theorem State.Follows.travel {f : Flit} {a k : Nat} (h : s₀.Follows s) : s₀.Follows (s.travel f a k) :=
  (State.Follows.foldl h (fun _ _ hu => hu.crossLink) _).grant

theorem State.Follows.noteOrder {f : Flit} (h : s₀.Follows s) : s₀.Follows (s.noteOrder f) := h.lit

theorem State.Follows.arrive {f : Flit} {perform : State → Host.Outcome State Fault Refusal} (h : s₀.Follows s)
    (hp : ∀ t, s₀.Follows t → s₀.Answers (Astray f) (perform t)) : s₀.Answers (Astray f) (s.arrive f perform) := by
  unfold State.arrive
  split
  · exact h
  · split
    next e => exact .inl e
    next e => exact .inr e
    · dsimp only
      split
      · exact h.takeFlit.travel.faultFlit
      · exact hp _ h.takeFlit.travel

theorem State.Follows.askSector {f : Flit} {sector : Nat} (h : s₀.Follows s) : s₀.Follows (s.askSector f sector) := h.lit

theorem State.Follows.readLocal {f : Flit} (h : s₀.Follows s) : s₀.Follows (s.readLocal f) := by
  unfold State.readLocal
  extract_lets line lod r held
  have hr : s₀.Follows r.1 := by
    refine State.Follows.foldlFst h (fun u i hu => ?_) _
    dsimp only
    split
    · exact hu.askSector
    · exact hu.readSector
  exact .ite hr.sendData hr.lit

theorem execRead_answers {f : Flit} (h : s₀.Follows s) : s₀.Answers (Astray (s.carried f)) (execRead f s) := by
  unfold execRead
  dsimp only
  refine h.arrive fun t ht => ?_
  exact .ite ht.lit.retryRemote ht.readLocal

theorem State.Follows.passOn {f : Flit} {op addr : Nat} {b : List Byte} (h : s₀.Follows s) : OptionHolds s₀.Follows (s.passOn f op addr
    b) := by
  unfold State.passOn
  dsimp only
  split
  · exact h.sendHomes.faultFlit
  · split
    next t2 e2 => exact (h.sendHomes.newTxn.cylSend.of_eq e2 :)
    · trivial
    · exact h.sendHomes.faultFlit

theorem State.Follows.storeFlit {f : Flit} {pa : Nat} {b : List Byte} (h : s₀.Follows s) : OptionHolds s₀.Follows (s.storeFlit f pa b)
    := by
  unfold State.storeFlit
  split
  · split
    next t2 e2 => exact (h.remoteStore.of_eq e2 :)
    · trivial
    · exact h.faultFlit
  · exact h.writeRange.noteOrder.ackFlit

theorem execWrite_answers {f : Flit} (h : s₀.Follows s) : s₀.Answers (Astray (s.carried f)) (execWrite f s) := by
  refine .ite h (h.arrive fun t ht => ?_)
  split
  · exact ht.ackFlit
  · split
    next e => exact ht.storeFlit.of_eq e
    · exact h

theorem execWritePartial_answers {f : Flit} (h : s₀.Follows s) : s₀.Answers (Astray (s.carried f)) (execWritePartial f s) := by
  refine .ite h (h.arrive fun t ht => .ite (.getD h ht.passOn) ?_)
  exact State.Follows.ackFlit (State.Follows.noteOrder (.foldl ht (fun _ _ hu => hu.storeSector) _))

theorem execAtomic_answers {f : Flit} (h : s₀.Follows s) : s₀.Answers (Astray (s.carried f)) (execAtomic f s) := by
  refine .ite h (h.arrive fun t ht => ?_)
  split
  · exact ht.faultFlit
  · refine .ite ht.faultFlit ?_
    split
    · exact .getD h ht.passOn
    · exact .ite ht.hostAtomicOp ht.faultFlit
    · exact ht.atomicHome.noteOrder.respond

theorem execAddToLine_answers {f : Flit} (h : s₀.Follows s) : s₀.Answers (Astray f) (execAddToLine f s) := by
  refine h.arrive fun t ht => ?_
  dsimp only
  split
  · exact ht.faultFlit
  · split
    · exact .ite ht.faultFlit (State.Follows.ite ht.contribute.noticeIds ht.contribute).ackFlit
    · exact ht.faultFlit

theorem State.Follows.writtenHome {f : Flit} {fs : List Flit} (h : s₀.Follows s) : OptionHolds s₀.Follows (s.writtenHome f fs) := by
  unfold State.writtenHome
  split
  · dsimp only
    split
    · exact h.faultFlit
    · split
      · exact h.faultFlit
      · exact h.passOn
  · dsimp only
    split
    · exact h.faultFlit
    · split
      · exact h.faultFlit
      · exact h.performHome.ackFlit

theorem execWriteHome_answers {f : Flit} (h : s₀.Follows s) : s₀.Answers (Astray f) (execWriteHome f s) :=
  h.arrive fun _ ht => .ite (.getD h ht.lit.writtenHome) ht.lit

theorem execSignal_answers {f : Flit} (h : s₀.Follows s) : s₀.Answers False (execSignal f s) :=
  State.Answers.ite h (State.Answers.ite h.takeFlit.travel.updateSignal.startAll.ackFlit h.takeFlit.travel.ackFlit)

theorem State.Follows.takeResp {f : Flit} (h : s₀.Follows s) : s₀.Follows (s.takeResp f) := h.lit.takeFlit.travel

theorem State.Follows.deliver {f : Flit} {take : State → Txn → State} (h : s₀.Follows s)
    (ht : ∀ u t, s₀.Follows u → s₀.Follows (take u t)) : s₀.Answers False (s.deliver f take) := by
  unfold State.deliver
  split
  · exact h
  · split
    · exact h.takeResp
    · exact ht _ _ h.takeResp

theorem execData_answers {f : Flit} (h : s₀.Follows s) : s₀.Answers False (execData f s) := by
  refine h.deliver fun u t hu => ?_
  split
  · exact .ite hu.loadArrives hu
  · exact hu

theorem execAck_answers {f : Flit} (h : s₀.Follows s) : s₀.Answers False (execAck f s) := by
  refine h.deliver fun u t hu => ?_
  split
  · exact hu.ackArrives
  · exact hu

theorem execResult_answers {f : Flit} (h : s₀.Follows s) : s₀.Answers False (execResult f s) := by
  refine h.deliver fun u t hu => ?_
  split
  · exact hu.atomicArrives
  · exact hu

theorem execFault_answers {f : Flit} (h : s₀.Follows s) : s₀.Answers False (execFault f s) := h.deliver fun _ _ hu => hu.faultArrives

theorem execCredit_answers {f : Flit} (h : s₀.Follows s) : s₀.Answers False (execCredit f s) := h.lit

theorem State.Follows.emitCredits {s : State} {input net cls x4 x5 : Nat} (h : s₀.Follows s) : s₀.Follows (s.emitCredits input net cls
    x4 x5).1 := by
  unfold State.emitCredits
  split
  · exact h
  · split
    · exact h.emit.emitCredits
    · exact h.emit

theorem execCreditReturnTimer_answers {input net cls : Nat} (h : s₀.Follows s) : s₀.Answers False (execCreditReturnTimer input net cls
    s) :=
  State.Answers.ite h h.emitCredits.lit

theorem execFlitUnusedOp_answers {f : Flit} (h : s₀.Follows s) : s₀.Answers False (execFlitUnusedOp f s) :=
  State.Answers.ite h h.takeFlit.log.lit

theorem execD2dLinkReplay_answers {link flit : Nat} (h : s₀.Follows s) : s₀.Answers False (execD2dLinkReplay link flit s) :=
  State.Answers.ite h.lit h

theorem execHbmReadComplete_answers {line sector : Nat} {errs : List (Nat × Nat)} (h : s₀.Follows s) : s₀.Answers False
    (execHbmReadComplete line sector errs s) := by
  unfold execHbmReadComplete
  dsimp only
  split
  · exact h
  · split
    · exact h
    · exact State.Follows.foldl (((State.Follows.ite h.grantReq.lit h.grantReq.lit).readSector).lit) (fun _ _ hu => hu.sendData) _

/-! ### Spares and takeovers -/

theorem State.Follows.dropTakeover {t : Takeover} (h : s₀.Follows s) : s₀.Follows (s.dropTakeover t) := h.lit

theorem State.Follows.beginTakeover {t : Takeover} (h : s₀.Follows s) : s₀.Follows (s.beginTakeover t) := h.lit.log.noteRates

theorem State.Follows.logRepair {kind place : Nat} (h : s₀.Follows s) : s₀.Follows (s.logRepair kind place) :=
  h.litVitals (by rfl) (by rfl) (by rfl)

theorem State.Follows.endTakeover {t : Takeover} (h : s₀.Follows s) : s₀.Follows (s.endTakeover t) :=
  ((State.Follows.ite h.noteRates.dropTakeover.log h.noteRates.dropTakeover.log.logRepair).lit).raise

theorem State.Follows.noteLoss (h : s₀.Follows s) : s₀.Follows (s.noteLoss) := h.lit.recomputeShares.raise

theorem State.Follows.triggerRescue {cause lost unreached : Nat} (h : s₀.Follows s) : s₀.Follows (s.triggerRescue cause lost unreached) :=
  h.lit

theorem State.Follows.failBlocks {cols : List Nat} (h : s₀.Follows s) : s₀.Follows (s.failBlocks cols) :=
  State.Follows.foldl h (fun _ _ hu => hu.dropBlock.failCmd.settleLaunch) _

theorem State.Follows.loseCore {col : Nat} (h : s₀.Follows s) : s₀.Follows (s.loseCore col) :=
  h.discardUnits.sweepFailed.failBlocks.modCore.lit.noteLoss

theorem State.Follows.loseCluster {d : Nat} (h : s₀.Follows s) : s₀.Follows (s.loseCluster d) := by
  unfold State.loseCluster
  refine State.Follows.noteLoss (State.Follows.failBlocks (State.Follows.sweepFailed (State.Follows.discardUnits ?_)))
  exact h.lit

theorem State.Follows.retireChannel {col : Nat} (h : s₀.Follows s) : s₀.Follows (s.retireChannel col) := h.modChannel.noteLoss

theorem State.Follows.takeOut {l : CacheLine} (h : s₀.Follows s) : s₀.Follows (s.takeOut l) :=
  State.Follows.foldl h (fun _ _ hu => hu.checkWord.lit) _

theorem State.Follows.moveLine {l : CacheLine} (h : s₀.Follows s) : s₀.Follows (s.moveLine l) := by
  unfold State.moveLine
  split
  · exact h.removeLine
  · split
    · exact h.removeLine
    · dsimp only
      split
      next t3 _ e3 => exact State.Follows.foldl (h.takeOut.removeLine.allocate.of_eq e3) (fun _ _ hu => hu.writeWord) _
      · exact h.takeOut.ackedLine.writeBack.removeLine
    · dsimp only
      split
      next t3 _ e3 => exact h.checkCopy.removeLine.allocate.of_eq e3
      · exact h.checkCopy.swapLine
    · dsimp only
      split
      next t3 _ e3 => exact h.checkCopy.removeLine.allocate.of_eq e3
      · exact State.Follows.getD h h.sendHome

theorem State.Follows.retireSlice {col : Nat} (h : s₀.Follows s) : s₀.Follows (s.retireSlice col) := by
  unfold State.retireSlice
  dsimp only
  split
  · exact ((State.Follows.foldl h.modSlice.modSlice (fun _ _ hu => hu.moveLine) _).noteLoss).triggerRescue
  · exact (State.Follows.foldl h.modSlice.modSlice (fun _ _ hu => hu.moveLine) _).noteLoss

theorem execCoreTakeover_answers {col : Nat} (h : s₀.Follows s) : s₀.Answers False (execCoreTakeover col s) := by
  unfold execCoreTakeover
  split
  · exact h
  · exact State.Answers.ite h.dropTakeover.loseCore h.beginTakeover

theorem State.Follows.takeColumn {col : Nat} (h : s₀.Follows s) : s₀.Follows (s.takeColumn col) :=
  h.discardUnits.sweepFailed.modCore.lit

theorem execRowTakeover_answers {col bank row : Nat} (h : s₀.Follows s) : s₀.Answers False (execRowTakeover col bank row s) := by
  unfold execRowTakeover
  split
  · exact h
  · exact State.Answers.ite h.dropTakeover.askBank h.beginTakeover

theorem execBankTakeover_answers {col bank : Nat} (h : s₀.Follows s) : s₀.Answers False (execBankTakeover col bank s) := by
  unfold execBankTakeover
  split
  · exact h
  · exact State.Answers.ite h.dropTakeover.retireSlice h.beginTakeover

theorem State.Follows.copyWords {col bank : Nat} {row : Option Nat} (h : s₀.Follows s) : s₀.Follows (s.copyWords col bank row) :=
  (State.Follows.foldl h (fun _ _ hu => hu.checkWord.lit) _).writeWord

theorem State.Follows.takeRow {col bank row : Nat} (h : s₀.Follows s) : s₀.Follows (s.takeRow col bank row) := h.copyWords.modSlice

theorem State.Follows.takeBank {col bank : Nat} (h : s₀.Follows s) : s₀.Follows (s.takeBank col bank) := h.copyWords.modSlice

theorem execHbmLaneRemap_answers {channel : Nat} {spareLeft : Bool} (h : s₀.Follows s) : s₀.Answers False (execHbmLaneRemap channel
    spareLeft s) := by
  unfold execHbmLaneRemap
  split
  · exact h
  · exact State.Answers.ite h.beginTakeover.modChannel h.dropTakeover.retireChannel

theorem State.Follows.finishTakeover {t : Takeover} {ok : Bool} (h : s₀.Follows s) : s₀.Follows (s.finishTakeover t ok) := by
  unfold State.finishTakeover
  split
  · exact State.Follows.ite h (State.Follows.ite h.takeColumn.endTakeover h.dropTakeover.logRepair.lit.loseCore)
  · exact State.Follows.ite h.takeRow.endTakeover h.dropTakeover.logRepair.modSlice.askRow
  · exact State.Follows.ite h (State.Follows.ite h.takeBank.endTakeover h.dropTakeover.logRepair.modSlice.retireSlice)
  · split
    · exact State.Follows.ite h.modChannel.endTakeover.retireChannel h.modChannel.endTakeover
    · exact h.dropTakeover.retireChannel
  · exact h

theorem execTakeoverCompleted_answers {stack : Nat} {ok : Bool} (h : s₀.Follows s) : s₀.Answers False (execTakeoverCompleted stack ok s)
    := by
  unfold execTakeoverCompleted
  split
  · exact h.finishTakeover
  · split
    · exact State.Answers.ite h.beginTakeover.endTakeover h
    · exact h

theorem State.Follows.rescueCommands (h : s₀.Follows s) : s₀.Follows (s.rescueCommands) := h.lit

theorem State.Follows.rescueReduce {l : CacheLine} (h : s₀.Follows s) : s₀.Follows (s.rescueReduce l) := by
  unfold State.rescueReduce
  split
  · dsimp only
    split
    · split
      · exact h.checkCopy.putTransfer.removeLine.modStnRegs.count
      · exact h.checkCopy.discardReduce
    · exact h
  · dsimp only
    split
    · split
      · exact h.checkCopy.discardReduce
      · exact h.checkCopy.discardReduce
    · exact h

theorem State.Follows.rescueLine {l : CacheLine} (h : s₀.Follows s) : s₀.Follows (s.rescueLine l) := by
  unfold State.rescueLine
  split
  · exact h.removeLine
  · split
    · exact h.writeBack.removeLine
    · dsimp only
      split
      · exact h.unpin.writeBack.removeLine
      · exact h.unpin
    · exact h

theorem State.Follows.retireLost (h : s₀.Follows s) : s₀.Follows (s.retireLost) :=
  State.Follows.foldl h (fun _ _ hu => hu.modChannel) _

theorem State.Follows.rescueOff (h : s₀.Follows s) : s₀.Follows s.rescueOff := by
  unfold State.rescueOff
  extract_lets t remote p c f
  have ht : s₀.Follows t := .foldl h (fun _ _ hu => hu.modDomain) _
  clear_value t
  exact ht.litVitals rfl rfl rfl

theorem State.Follows.enterRescue {cause : Nat} (h : s₀.Follows s) : s₀.Follows (s.enterRescue cause) := by
  unfold State.enterRescue
  refine State.Follows.foldl (State.Follows.raise (State.Follows.lit (State.Follows.rescueOff (State.Follows.lit ?_))))
    (fun _ _ hu => hu.event) _
  refine State.Follows.retireLost (State.Follows.foldl ?_ (fun _ _ hu => hu.rescueLine) _)
  exact State.Follows.foldl h.rescueCommands (fun _ _ hu => hu.rescueReduce) _

theorem execRescueEntry_answers (h : s₀.Follows s) : s₀.Answers False (execRescueEntry s) := by
  unfold execRescueEntry
  split
  · exact h
  · exact h.enterRescue

/-! ### Lanes -/

theorem State.Follows.countReplay {l : Lane} (h : s₀.Follows s) : s₀.Follows (s.countReplay l) := h.lit.count

theorem State.Follows.replayLane {l : Lane} {tag cycle : Nat} (h : s₀.Follows s) : s₀.Follows (s.replayLane l tag cycle) :=
  State.Follows.ite h.modLane.countReplay h

theorem State.Follows.orphan {l : Lane} {tag : Nat} {pairing : Option (Nat × Nat)} (h : s₀.Follows s) : s₀.Follows (s.orphan l tag
    pairing) :=
  h.lit.log.modLane.emit

theorem State.Follows.firstHalf {l : Lane} {tag cycle : Nat} (h : s₀.Follows s) : s₀.Follows (s.firstHalf l tag cycle) := by
  unfold State.firstHalf
  dsimp only
  split
  · exact State.Follows.ite h.modLane h.orphan
  · exact State.Follows.ite h.modLane (State.Follows.ite h h.modLane)

theorem State.Follows.paired {l : Lane} {tag : Nat} (h : s₀.Follows s) : s₀.Follows (s.paired l tag) := by
  unfold State.paired
  refine State.Follows.emit ?_
  split
  · exact h.modLane.addBytes
  · exact h.modLane

theorem State.Follows.secondHalf {l : Lane} {tag cycle : Nat} (h : s₀.Follows s) : s₀.Follows (s.secondHalf l tag cycle) := by
  unfold State.secondHalf
  dsimp only
  split
  · exact State.Follows.ite (State.Follows.ite h.paired h.orphan) (State.Follows.ite h h.orphan)
  · exact State.Follows.ite h h.orphan

theorem execLineBurst_answers {lane : Lane} {addr half tag cycle : Nat} (h : s₀.Follows s) : s₀.Answers False (execLineBurst lane addr
    half tag cycle s) := by
  unfold execLineBurst
  split
  · exact h
  · split
    · dsimp only
      split
      · exact State.Answers.ite (((State.Follows.ite h h.modLane).modLane).firstHalf) (State.Follows.ite h h.modLane)
      · exact (State.Follows.ite h h.modLane).firstHalf
    · split
      · dsimp only
        split
        · exact h
        · exact h.secondHalf
      · exact h

theorem execLaneAck_answers {lane : Lane} {tag : Nat} (h : s₀.Follows s) : s₀.Answers False (execLaneAck lane tag s) :=
  State.Answers.ite h.modLane h

theorem execLaneNak_answers {lane : Lane} {tag cycle : Nat} (h : s₀.Follows s) : s₀.Answers False (execLaneNak lane tag cycle s) :=
  h.replayLane

theorem execPairingWindowExpiry_answers {lane : Lane} {cycle : Nat} (h : s₀.Follows s) : s₀.Answers False (execPairingWindowExpiry lane
    cycle s) := by
  unfold execPairingWindowExpiry
  split
  · exact State.Answers.ite h.orphan h
  · exact h

theorem execLaneReplayTimer_answers {lane : Lane} {cycle : Nat} (h : s₀.Follows s) : s₀.Answers False (execLaneReplayTimer lane cycle s)
    := by
  unfold execLaneReplayTimer
  split
  · exact h.replayLane
  · exact h

theorem State.Follows.askVia {col : Nat} (h : s₀.Follows s) : s₀.Follows (s.askVia col) := h.askTakeover

theorem State.Follows.noLane {l : Lane} (h : s₀.Follows s) : s₀.Follows (s.noLane l) := by
  unfold State.noLane
  split
  · exact h.askCore
  · exact State.Follows.ite h.retireChannel h
  · exact h

theorem execLaneSuspect_answers {lane : Lane} (h : s₀.Follows s) : s₀.Answers False (execLaneSuspect lane s) := by
  unfold execLaneSuspect
  split
  · dsimp only
    split
    · exact h
    · split
      · exact h.modLane.log.modLane
      · exact h.modLane.log.noLane
  · dsimp only
    split
    · exact h
    · refine State.Follows.noteColumns ?_
      refine State.Follows.askVia ?_
      split
      · exact h.modLane.log.modLane
      · exact h.modLane.log.noLane
  · dsimp only
    split
    · exact h
    · refine State.Follows.askVia ?_
      split
      · exact h.modLane.log.modLane
      · exact h.modLane.log.noLane

theorem execColumnQuiesce_answers {col : Nat} (h : s₀.Follows s) : s₀.Answers False (execColumnQuiesce col s) := by
  unfold execColumnQuiesce
  split
  · exact h
  · exact State.Answers.ite h h.beginTakeover.lit

theorem State.Follows.repairLanes {col : Nat} {ok : Bool} (h : s₀.Follows s) : s₀.Follows (s.repairLanes col ok) :=
  State.Follows.foldl h (fun _ _ hu => hu.modLane) _

theorem execQuiesceHoldExpiry_answers {col viasNeeded : Nat} (h : s₀.Follows s) : s₀.Answers False (execQuiesceHoldExpiry col viasNeeded
    s) := by
  unfold execQuiesceHoldExpiry
  split
  · exact h
  · refine .ite h ?_
    extract_lets ok t c t' u v dead
    have ht : s₀.Follows t' := State.Follows.lit (s := t) h.repairLanes
    have hu : s₀.Follows u := .ite ht.logRepair ht
    have hv : s₀.Follows v := by
      unfold v
      split
      · exact .ite hu.endTakeover hu.dropTakeover
      · exact hu
    exact State.Follows.ite hv.retireChannel hv

theorem execD2dLinkFail_answers {link : Nat} (h : s₀.Follows s) : s₀.Answers False (execD2dLinkFail link s) :=
  State.Answers.ite h (State.Follows.ite h.lit.lit h.lit.lit.triggerRescue)

/-! ### Maintenance -/

theorem execWritebackAck_answers {line : Nat} (h : s₀.Follows s) : s₀.Answers False (execWritebackAck line s) := h.ackedLine

theorem execLaneMark_answers {channel : Nat} (h : s₀.Follows s) : s₀.Answers False (execLaneMark channel s) := by
  unfold execLaneMark
  dsimp only
  split
  · exact h
  · split
    · exact h.modChannel.log.askTakeover
    · split
      · exact h
      · split
        · exact State.Answers.ite h.modChannel h.modChannel.dropTakeover.retireChannel
        · exact h.modChannel.retireChannel

theorem State.Follows.scrubHbm {sector : Nat} (h : s₀.Follows s) : s₀.Follows (s.scrubHbm sector) := by
  unfold State.scrubHbm
  dsimp only
  split
  · exact h.countVerdict.rewriteArray
  · exact State.Follows.ite h.countVerdict.rewriteArray h.countVerdict
  · exact h.countVerdict.poisonSector
  · exact h.countVerdict

theorem execHbmScrubSector_answers {sector : Nat} {errs : List (Nat × Nat)} (h : s₀.Follows s) : s₀.Answers False (execHbmScrubSector
    sector errs s) := by
  unfold execHbmScrubSector
  split
  · exact h
  · split
    · exact State.Answers.ite h.modChannel (State.Answers.ite h.modChannel h.modChannel.scrubHbm)
    · exact State.Answers.ite h.modChannel (State.Answers.ite h.modChannel h.modChannel.lit.scrubHbm)

theorem State.Follows.flipWord {key flips : Nat} (h : s₀.Follows s) : s₀.Follows (s.flipWord key flips) := h.lit

theorem State.Follows.rewriteWord {col key : Nat} (h : s₀.Follows s) : s₀.Follows (s.rewriteWord col key) := h.modStnRegs.writeWord

theorem State.Follows.scrubWord {col word : Nat} (h : s₀.Follows s) : s₀.Follows (s.scrubWord col word) := by
  unfold State.scrubWord
  split
  · exact State.Follows.ite h (State.Follows.ite h.rewriteWord h.checkWord)
  · dsimp only
    split
    · exact h
    · exact State.Follows.ite (State.Follows.ite h.rewriteWord.modSlice.rowTest h.rewriteWord.modSlice) h.checkWord

theorem State.Follows.scrubCopy {col word flips : Nat} (h : s₀.Follows s) : s₀.Follows (s.scrubCopy col word flips) := by
  unfold State.scrubCopy
  split
  · exact h
  · exact State.Follows.ite h.flipWord (State.Follows.ite h.flipWord.rewriteWord h.flipWord.checkCopy)

theorem execStnScrubWord_answers {col word flips : Nat} {bitmap : Bool} (h : s₀.Follows s) : s₀.Answers False (execStnScrubWord col word
    flips bitmap s) := by
  unfold execStnScrubWord
  split
  · split
    · exact h
    · split
      · exact State.Answers.ite h.modSlice h
      · dsimp only
        split
        · split
          · exact h.modSlice
          · exact State.Follows.ite h.modSlice.flipWord.checkBitmapWord.writeWord h.modSlice.flipWord.checkBitmapWord
        · split
          · exact h.modSlice
          · exact State.Follows.ite h.modSlice.flipWord.checkBitmapWord.writeWord h.modSlice.flipWord.checkBitmapWord
  · split
    · exact h
    · split
      · exact State.Answers.ite h.modSlice h
      · split
        · exact State.Answers.ite h.modSlice h.modSlice.scrubCopy
        · exact State.Answers.ite h.modSlice (State.Answers.ite h.modSlice h.modSlice.flipWord.scrubWord)

theorem State.Follows.drainLine {l : CacheLine} (h : s₀.Follows s) : s₀.Follows (s.drainLine l) := by
  unfold State.drainLine
  split
  · exact State.Follows.ite h h.writeBack.removeLine
  · exact h.moveLine

theorem State.Follows.drain {holder n : Nat} (h : s₀.Follows s) : s₀.Follows (s.drain holder n) :=
  State.Follows.foldl h (fun _ _ hu => hu.drainLine) _

theorem execReliefRequest_answers {col : Nat} (h : s₀.Follows s) : s₀.Answers False (execReliefRequest col s) := by
  unfold execReliefRequest
  split
  · exact h
  · exact State.Answers.ite (h.litVitals (by rfl) (by rfl) (by rfl)) ((h.litVitals (by rfl) (by rfl) (by rfl)).modSlice)

theorem execReliefEndRequest_answers {col : Nat} (h : s₀.Follows s) : s₀.Answers False (execReliefEndRequest col s) := by
  unfold execReliefEndRequest
  split
  · exact h
  · exact State.Answers.ite ((h.litVitals (by rfl) (by rfl) (by rfl)).modSlice) (h.litVitals (by rfl) (by rfl) (by rfl))

theorem execReliefDrainEnd_answers {col : Nat} (h : s₀.Follows s) : s₀.Answers False (execReliefDrainEnd col s) := by
  unfold execReliefDrainEnd
  split
  · exact State.Answers.ite h.drain.modSlice h.drain
  · exact State.Answers.ite h.drain.modSlice h.drain
  · exact h

/-! ### The Cytil ports -/

theorem State.Follows.moveXfer {port : Nat} {e : SentXfer} (h : s₀.Follows s) : s₀.Follows (s.moveXfer port e) := by
  unfold State.moveXfer
  split
  next t1 e1 => exact h.cylSend.of_eq e1
  · exact h.enqueue
  · split
    · exact h
    · split
      · exact h.faultArrives
      · exact h

theorem State.Follows.portDown {port : Nat} (h : s₀.Follows s) : s₀.Follows (s.portDown port) :=
  (((State.Follows.foldl h.modPort.lit (fun _ _ hu => hu.moveXfer) _).lit).recomputeShares).pump

theorem State.Follows.portFails {port arg : Nat} (h : s₀.Follows s) : s₀.Follows (s.portFails port arg) := h.log.portDown

theorem State.Follows.replayPort {port : Nat} {hit : SentXfer → Bool} (h : s₀.Follows s) : s₀.Follows (s.replayPort port hit) :=
  State.Follows.ite h (State.Follows.ite h.modPort.count.portFails h.modPort.count)

theorem State.Follows.answer {x : Header} {op addr : Nat} {bytes : List Byte} {poison : Bool} (h : s₀.Follows s) : s₀.Follows (s.answer
    x op addr bytes poison) :=
  h.cylReply

theorem State.Follows.cylFault {x : Header} {st : Nat} (h : s₀.Follows s) : s₀.Follows (s.cylFault x st) := h.answer

theorem State.Follows.homeRead {x : Header} {lod : Nat} (h : s₀.Follows s) : s₀.Follows (s.homeRead x lod) := by
  unfold State.homeRead
  extract_lets line wanted r part bytes t
  have hr : s₀.Follows r.1 := by
    refine State.Follows.foldlFst h (fun _ _ hu => ?_) _
    exact hu.readSector
  have ht : s₀.Follows t := hr.unless (·.answer)
  exact .ite h.cylFault (.ite h.cylFault (ht.unless (·.answer)))

theorem State.Follows.homeWrite {x : Header} {lod : Nat} {body : List (List Byte)} (h : s₀.Follows s) : s₀.Follows (s.homeWrite x lod
    body) := by
  unfold State.homeWrite
  dsimp only
  split
  · exact h.cylFault
  · exact State.Follows.ite h.cylFault ((State.Follows.foldl h (fun _ _ hu => hu.writeRange) _).answer)

theorem State.Follows.homePartial {x : Header} {lod : Nat} {b : List Byte} (h : s₀.Follows s) : s₀.Follows (s.homePartial x lod b) := by
  unfold State.homePartial
  dsimp only
  split
  · exact h.cylFault
  · split
    · exact h.cylFault
    · exact (State.Follows.foldl h (fun _ _ hu => State.Follows.foldl hu (fun _ _ hu => hu.storeSector) _) _).answer

theorem State.Follows.homeAtomic {x : Header} {lod : Nat} {body : List Byte} (h : s₀.Follows s) : s₀.Follows (s.homeAtomic x lod body)
    := by
  unfold State.homeAtomic
  split
  · exact h.cylFault
  · split
    · exact h.cylFault
    · exact State.Follows.ite h.cylFault (State.Follows.ite h.hostAtomicOp (State.Follows.answer h.atomicHome))

theorem State.Follows.homeAdd {x : Header} {lod : Nat} (h : s₀.Follows s) : s₀.Follows (s.homeAdd x lod) := by
  unfold State.homeAdd
  dsimp only
  split
  · exact h.cylFault
  · split
    · exact State.Follows.ite h.cylFault h.contribute.answer
    · exact h.cylFault

theorem State.Follows.homeLine {x : Header} {lod : Nat} {body : List Byte} (h : s₀.Follows s) : s₀.Follows (s.homeLine x lod body) := by
  unfold State.homeLine
  split
  · exact h.cylFault
  · split
    · exact h.cylFault
    · split
      · exact h.cylFault
      · exact h.performHome.answer

theorem State.Follows.homeSignal {x : Header} {lod : Nat} (h : s₀.Follows s) : s₀.Follows (s.homeSignal x lod) :=
  h.updateSignal.startAll.answer

theorem State.Follows.homeRequest {x : Header} {lod : Nat} {body : List (List Byte)} (h : s₀.Follows s) : s₀.Follows (s.homeRequest x
    lod body) := by
  unfold State.homeRequest
  split
  · exact h.homeRead
  · exact h.homeWrite
  · exact h.homePartial
  · exact h.homeAtomic
  · exact h.homeAdd
  · exact h.homeLine
  · exact h.homeSignal
  · exact h

theorem State.Follows.homeResponse {x : Header} {body : List (List Byte)} (h : s₀.Follows s) : s₀.Follows (s.homeResponse x body) := by
  unfold State.homeResponse
  split
  · exact h
  · split
    · exact h.sectorsArrive
    · exact h.ackArrives
    · exact h.atomicArrives
    · exact h.faultArrives
    · exact h

theorem State.Follows.forward {x : Header} {body : List (List Byte)} (h : s₀.Follows s) : s₀.Follows (s.forward x body) := by
  unfold State.forward
  split
  · dsimp only
    split
    next t2 e2 => exact h.lit.sendOrWait.of_eq e2
    · exact h.lit.cylFault
  · dsimp only
    split
    next t2 e2 => exact h.lit.sendOrWait.of_eq e2
    · exact h.lit.cylFault

theorem State.Follows.acceptXfer {port : Nat} {x : Header} {body : List (List Byte)} (h : s₀.Follows s) : s₀.Follows (s.acceptXfer port
    x body) := by
  unfold State.acceptXfer
  split
  · exact h
  · split
    · exact h.log
    · split
      · exact h.forward
      · split
        · exact h.homeResponse
        · split
          · exact h.cylFault
          · exact h.homeRequest

theorem execCytilTransfer_answers {port : Nat} {hdr : List Byte} {body : List (List Byte)} {fecOk gcmOk : Bool} (h : s₀.Follows s) :
    s₀.Answers False (execCytilTransfer port hdr body fecOk gcmOk s) := by
  unfold execCytilTransfer
  split
  · dsimp only
    split
    · exact h
    · split
      · exact State.Answers.ite h h.modPort.emit
      · split
        · exact h
        · split
          · exact State.Answers.ite h.modPort (State.Answers.ite h h.modPort.emit)
          · exact State.Answers.ite h.modPort.setNow.portFails h.modPort.addBytes.acceptXfer.pump
  · dsimp only
    split
    · exact h
    · split
      · exact State.Answers.ite h.modPort h.modPort.modPort.emit
      · split
        · exact h.modPort
        · split
          · exact State.Answers.ite h.modPort.modPort (State.Answers.ite h.modPort h.modPort.modPort.emit)
          · exact State.Answers.ite h.modPort.modPort.setNow.portFails h.modPort.modPort.addBytes.acceptXfer.pump

theorem execCytilNak_answers {port seq : Nat} (h : s₀.Follows s) : s₀.Answers False (execCytilNak port seq s) := h.replayPort

theorem execCytilIdle_answers {port ackSeq : Nat} {credits : List Nat} (h : s₀.Follows s) : s₀.Answers False (execCytilIdle port ackSeq
    credits s) :=
  State.Answers.ite h.modPort.pump h

theorem execCytilReplayTimer_answers {port : Nat} (h : s₀.Follows s) : s₀.Answers False (execCytilReplayTimer port s) := h.replayPort

theorem execCytilLaneFail_answers {port lane : Nat} {peerHasSpare : Bool} (h : s₀.Follows s) : s₀.Answers False (execCytilLaneFail port
    lane peerHasSpare s) := by
  unfold execCytilLaneFail
  split
  · dsimp only
    split
    · exact h
    · exact State.Answers.ite h.modPort.log (State.Answers.ite h.modPort.log.modPort.replayPort h.modPort.log.modPort.portDown)
  · dsimp only
    split
    · exact h
    · exact State.Answers.ite h.modPort.log (State.Answers.ite h.modPort.log.modPort.portDown h.modPort.log.modPort.portDown)

theorem execCytilPortUp_answers {port : Nat} {peerEncrypt : Bool} (h : s₀.Follows s) : s₀.Answers False (execCytilPortUp port
    peerEncrypt s) := by
  unfold execCytilPortUp
  dsimp only
  split
  · exact h
  · exact ((State.Follows.ite (h.modPort.litVitals (by rfl) (by rfl) (by rfl)) h.modPort).recomputeShares).pump

theorem execTimeSync_answers {port masterTime delay : Nat} (h : s₀.Follows s) : s₀.Answers False (execTimeSync port masterTime delay s)
    := by
  refine .ite h (.ite (.ite ?_ h.modPort.lit) h.modPort)
  exact h.trans_of rfl le_rfl fun hs => { hs with clock := Nat.mod_lt _ (by decide) }

theorem execTimeSyncPeriod_answers (h : s₀.Follows s) : s₀.Answers False (execTimeSyncPeriod s) :=
  State.Follows.foldl h (fun _ _ hu => hu.modPort.emit) _

theorem execTimeBaseAligned_answers {masterTime : Nat} (h : s₀.Follows s) : s₀.Answers False (execTimeBaseAligned masterTime s) :=
  .ite (h.trans_of rfl le_rfl fun hs => { hs with clock := Nat.mod_lt _ (by decide) }) h

theorem execCylDomainWrite_answers {value masterTime : Nat} (h : s₀.Follows s) : s₀.Answers False (execCylDomainWrite value masterTime
    s) := by
  unfold execCylDomainWrite
  extract_lets was c _ t u
  have ht : s₀.Follows t := h.lit
  have hu : s₀.Follows u := .ite (.ite ht ht.lit) (.ite ht (.ite
    (ht.trans_of rfl le_rfl fun hs => { hs with clock := Nat.mod_lt _ (by decide) }) (.ite ht.lit ht)))
  exact State.Follows.ite hu.pump hu

theorem execCylRouteWrite_answers {dev value : Nat} (h : s₀.Follows s) : s₀.Answers False (execCylRouteWrite dev value s) :=
  State.Answers.ite h h.lit.pump

theorem execCylPortCtrlWrite_answers {port value : Nat} (h : s₀.Follows s) : s₀.Answers False (execCylPortCtrlWrite port value s) :=
  State.Answers.ite h.modPort.portDown h.modPort

/-! ### Power delivery -/

theorem State.Follows.linkDown (h : s₀.Follows s) : s₀.Follows (s.linkDown) := h.lit

theorem State.Follows.switchOff {d : Nat} (h : s₀.Follows s) : s₀.Follows (s.switchOff d) := by
  unfold State.switchOff
  dsimp only
  split
  · exact (State.Follows.foldl h.modDomain (fun _ _ hu => hu.modCore) _).loseCluster
  · exact State.Follows.foldl h.modDomain (fun _ _ hu => hu.modCore) _

theorem State.Follows.noteWake {amps : Nat} (h : s₀.Follows s) : s₀.Follows (s.noteWake amps) := h.litVitals (by rfl) (by rfl) (by rfl)

theorem State.Follows.queueWake {d : Nat} (h : s₀.Follows s) : s₀.Follows (s.queueWake d) := h.litVitals (by rfl) (by rfl) (by rfl)

theorem execDomainWake_answers {dom : Nat} (h : s₀.Follows s) : s₀.Answers False (execDomainWake dom s) :=
  State.Answers.ite (h.noteWake.modDomain.litVitals (by rfl) (by rfl) (by rfl)) h

theorem execRampComplete_answers {dom : Nat} (h : s₀.Follows s) : s₀.Answers False (execRampComplete dom s) :=
  State.Answers.ite h.modDomain h

theorem execIdleGateExpiry_answers {dom : Nat} (h : s₀.Follows s) : s₀.Answers False (execIdleGateExpiry dom s) :=
  State.Answers.ite h.switchOff h

theorem State.Follows.domainFailed {d : Nat} (h : s₀.Follows s) : s₀.Follows (s.domainFailed d) := by
  unfold State.domainFailed
  split
  · exact h.loseCluster
  · split
    · exact h.triggerRescue
    · exact State.Follows.ite h (State.Follows.ite h.triggerRescue (State.Follows.ite h.triggerRescue h.triggerRescue))

theorem State.Follows.domainStops {d : Nat} (h : s₀.Follows s) : s₀.Follows (s.domainStops d) := by
  unfold State.domainStops
  split
  · exact h.discardUnits.sweepFailed.failBlocks
  · exact State.Follows.ite (State.Follows.foldl h (fun _ _ hu => hu.portDown) _) (State.Follows.ite h.linkDown h)

theorem execRegulatorOvercurrent_answers {dom : Nat} (h : s₀.Follows s) : s₀.Answers False (execRegulatorOvercurrent dom s) := by
  unfold execRegulatorOvercurrent
  dsimp only
  split
  · exact h
  · split
    · exact (((State.Follows.ite h.log.domainStops h.log).switchOff).modDomain).domainFailed
    · exact ((State.Follows.ite h.log.domainStops h.log).switchOff).modDomain

theorem execHiccupRetry_answers {dom : Nat} (h : s₀.Follows s) : s₀.Answers False (execHiccupRetry dom s) :=
  State.Answers.ite h.modDomain.queueWake h

theorem execPhaseFail_answers {dom : Nat} (h : s₀.Follows s) : s₀.Answers False (execPhaseFail dom s) :=
  State.Answers.ite h (State.Answers.ite h.modDomain.askTakeover h.modDomain.noteLoss)

theorem execSensePathOpen_answers {dom diffMillivolts : Nat} (h : s₀.Follows s) : s₀.Answers False (execSensePathOpen dom diffMillivolts
    s) :=
  State.Answers.ite h h.modDomain.noteColumns

theorem execCrackedConnection_answers {dom : Nat} {steps : List (Nat × Nat)} (h : s₀.Follows s) : s₀.Answers False
    (execCrackedConnection dom steps s) :=
  State.Answers.ite h h.modDomain.log.noteColumns

/-- The limiter's procedure leaves `FRAC` and `MEM_CAP` in their ranges (15, R361). -/
theorem limiterStep_inRange {frac memCap sum n inst lim : Nat} {admits : Bool} (hf : 8 ≤ frac ∧ frac ≤ 64) (hm : 2 ≤ memCap ∧ memCap ≤ 8) :
    8 ≤ (limiterStep frac memCap sum n inst lim admits).frac ∧ (limiterStep frac memCap sum n inst lim admits).frac ≤ 64 ∧
      2 ≤ (limiterStep frac memCap sum n inst lim admits).memCap ∧ (limiterStep frac memCap sum n inst lim admits).memCap ≤ 8 := by
  unfold limiterStep
  split
  · split
    · dsimp only; omega
    · split <;> dsimp only <;> omega
  · split
    · split
      · dsimp only; omega
      · split <;> dsimp only <;> omega
    · dsimp only; omega

theorem execPowerLimiterUpdate_answers {milliwatts vinMilliamps riseAmps : Nat} {stackMilliamps : List Nat} (h : s₀.Follows s) :
    s₀.Answers False (execPowerLimiterUpdate milliwatts vinMilliamps riseAmps stackMilliamps s) := by
  unfold execPowerLimiterUpdate
  extract_lets p t high frac admits r u q
  have ht : s₀.Follows t := h.litVitals rfl rfl rfl
  by_cases hoff : t.pwr.frac = 0 ∨ t.brd.dead = true
  · rw [if_pos hoff]
    exact ht
  · rw [if_neg hoff]
    have hu : s₀.Follows u := .ite ht.noteWake ht
    have hup : u.pwr.vitals = t.pwr.vitals := by
      unfold u
      split <;> rfl
    refine State.Follows.countStretch (State.Follows.noteStretch (State.Follows.noteRates ?_))
    refine hu.trans_of rfl le_rfl fun hs => { hs with limit := hs.limit, brake := hs.brake, rates := .inr ?_ }
    have hr := hs.rates
    simp only [Pwr.vitals, Prod.mk.injEq] at hup
    rw [hup.2.2.1, hup.2.2.2] at hr
    have hf : 8 ≤ frac ∧ frac ≤ 64 := by
      dsimp only [frac]
      split <;> omega
    exact limiterStep_inRange hf (by omega)

theorem execBrakeAssert_answers (h : s₀.Follows s) : s₀.Answers False (execBrakeAssert s) := by
  unfold execBrakeAssert
  extract_lets inst frac
  refine .ite h (State.Follows.noteRates (State.Follows.setNow ?_))
  refine h.trans_of rfl le_rfl fun hs => { hs with limit := hs.limit, brake := hs.brake, rates := ?_ }
  have hr := hs.rates
  change (frac = 0 ∧ s.pwr.memCap = 0) ∨ (8 ≤ frac ∧ frac ≤ 64 ∧ 2 ≤ s.pwr.memCap ∧ s.pwr.memCap ≤ 8)
  dsimp only [frac]
  split
  · exact hr
  · omega

theorem execBrakeRelease_answers (h : s₀.Follows s) : s₀.Answers False (execBrakeRelease s) := h.litVitals (by rfl) (by rfl) (by rfl)

/-! ### The admin operations -/

theorem State.Follows.modOp {fn : Fn} {f : AdminOp → AdminOp} (h : s₀.Follows s) : s₀.Follows (s.modOp fn f) :=
  State.Follows.ite (h.litVitals (by rfl) (by rfl) (by rfl)) h.modMbx

theorem State.Follows.decideOp {fn : Fn} {o : AdminOp} {st : Status} {work : Nat} (h : s₀.Follows s) : s₀.Follows (s.decideOp fn o st
    work) :=
  State.Follows.ite ((h.litVitals (by rfl) (by rfl) (by rfl)).releaseFlr) h.modMbx

theorem State.Follows.opDone {fn : Fn} {o : AdminOp} {work : Nat} (h : s₀.Follows s) : s₀.Follows (s.opDone fn o work) := h.decideOp

theorem State.Follows.serveOp {fn : Fn} {opcode : Nat} {run : State → AdminOp → State} (h : s₀.Follows s)
    (hrun : ∀ o, s₀.Follows (run s o)) : s₀.Follows (s.serveOp fn opcode run) := by
  unfold State.serveOp
  split
  · exact h
  · refine .ite (hrun _) ?_
    split
    · exact h.decideOp
    · exact hrun _

theorem execMbxDoorbell_answers {fn : Fn} {ep : Bool} (h : s₀.Follows s) : s₀.Answers False (execMbxDoorbell fn ep s) := by
  unfold execMbxDoorbell
  split
  · exact h.advisory
  · split
    · exact h.reject
    · dsimp only
      split
      · split
        · exact h.modMbx.decideOp
        · exact h.modMbx
      · exact h.modMbx

theorem State.Follows.endOp {fn : Fn} {o : AdminOp} (h : s₀.Follows s) : s₀.Follows (s.endOp fn o) := h.modMbx.setNow.raise

theorem execMbxOperationEnd_answers {fn : Fn} (h : s₀.Follows s) : s₀.Answers False (execMbxOperationEnd fn s) := by
  unfold execMbxOperationEnd
  split
  · exact h
  · split
    · exact h
    · split
      · exact h.endOp.releaseFlr
      · split
        · split
          · exact h.endOp
          · exact h
        · exact h

theorem State.Follows.adminRead {h0 n : Nat} {ans : HostAns} (h : s₀.Follows s) : s₀.Follows (s.adminRead h0 n ans).1 := by
  unfold State.adminRead
  split
  · exact h
  · split
    · exact h.logHost
    · dsimp only
      split
      · exact h.logHost.readRange
      · exact h.logHost.readRange

theorem execLodgingCreate_answers {fn : Fn} {ans : HostAns} (h : s₀.Follows s) : s₀.Answers False (execLodgingCreate fn ans s) := by
  refine State.Follows.serveOp h fun o => ?_
  dsimp only
  split
  next e => exact (h.adminRead.fst e).decideOp
  next e =>
    split
    · exact (h.adminRead.fst e).decideOp
    · exact (h.adminRead.fst e).createLodging.opDone

theorem execLodgingDestroy_answers {fn : Fn} (h : s₀.Follows s) : s₀.Answers False (execLodgingDestroy fn s) := by
  refine State.Follows.serveOp h fun o => ?_
  dsimp only
  split
  next e => exact ((State.Follows.ite h h.beginReset.modOp).finishDestroy.fst e).opDone
  next e => exact (State.Follows.ite h h.beginReset.modOp).finishDestroy.fst e

theorem execLodgingReset_answers {fn : Fn} (h : s₀.Follows s) : s₀.Answers False (execLodgingReset fn s) := by
  refine State.Follows.serveOp h fun o => ?_
  extract_lets l b r
  have hr : s₀.Follows r.1 := by
    unfold r
    split
    · exact h
    · exact h.beginReset.modOp
  split
  next e => exact (hr.finishReset.fst e).opDone
  next e => exact hr.finishReset.fst e

theorem execContractSet_answers {fn : Fn} {ans : HostAns} (h : s₀.Follows s) : s₀.Answers False (execContractSet fn ans s) := by
  refine State.Follows.serveOp h fun o => ?_
  dsimp only
  split
  next e => exact (h.adminRead.fst e).decideOp
  next e =>
    split
    · exact (h.adminRead.fst e).decideOp
    · exact (h.adminRead.fst e).changeContract.opDone

theorem State.Follows.modSlot {i : Nat} {f : Slot → Slot} (h : s₀.Follows s) : s₀.Follows (s.modSlot i f) :=
  h.litVitals (by rfl) (by rfl) (by rfl)

theorem State.Follows.programImage {img : List Byte} {len : Nat} {readBackOk : Bool} (h : s₀.Follows s) : s₀.Follows (s.programImage img
    len readBackOk).1 := by
  unfold State.programImage
  split
  · exact h
  · dsimp only
    split
    · dsimp only
      exact h.modSlot
    · split
      · dsimp only
        exact h.modSlot
      · dsimp only
        exact h.modSlot

theorem execFwUpdate_answers {fn : Fn} {ans : HostAns} {readBackOk : Bool} (h : s₀.Follows s) : s₀.Answers False (execFwUpdate fn ans
    readBackOk s) := by
  refine State.Follows.serveOp h fun o => .ite h.decideOp ?_
  dsimp only
  split
  next e => exact (h.adminRead.fst e).decideOp
  next e => exact (h.adminRead.fst e).programImage.decideOp

theorem State.Follows.bistCore {p : Nat} (h : s₀.Follows s) : s₀.Follows (s.bistCore p) := by
  unfold State.bistCore
  split
  · dsimp only
    split
    · exact h.askCore
    · exact h.lit.logRepair
  · dsimp only
    split
    · exact h.askCore
    · exact h

theorem execBistRun_answers {fn : Fn} {failedCores : List Nat} (h : s₀.Follows s) : s₀.Answers False (execBistRun fn failedCores s) :=
  State.Follows.serveOp h fun _ =>
    ((h.foldl (fun _ _ hu => hu.bistCore) _).foldl (fun _ _ hu => .ite hu hu.switchOff) _).opDone

theorem State.Follows.flipGib {g : Nat} (h : s₀.Follows s) : s₀.Follows (s.flipGib g) := by
  unfold State.flipGib
  refine State.Follows.foldl ?_ (fun u x hu => ?_) _
  · exact h
  · split
    · refine State.Follows.hbmFlip ?_
      exact hu
    · exact hu

theorem State.Follows.eraseGib {g : Nat} (h : s₀.Follows s) : s₀.Follows (s.eraseGib g) :=
  h.returnPages.flipGib.litMem fun hm => Memory.wf_filter _ hm _ _

theorem execSecureErase_answers {fn : Fn} (h : s₀.Follows s) : s₀.Answers False (execSecureErase fn s) := by
  refine State.Follows.serveOp h fun o => ?_
  extract_lets n t
  have ht : s₀.Follows t := h.foldl (fun _ _ hu => hu.eraseGib) _
  clear_value t
  exact (ht.litVitals (by rfl) (by rfl) (by rfl)).opDone

theorem execTelemetryRead_answers {fn : Fn} {ans : HostAns} (h : s₀.Follows s) : s₀.Answers False (execTelemetryRead fn ans s) := by
  refine State.Follows.serveOp h fun o => ?_
  cases fn with
  | pf => exact .ite h.decideOp h.writeRange.opDone
  | vf n =>
    dsimp only
    split
    · exact h.decideOp
    · exact h
    next e => exact State.Follows.opDone (h.vwrite.of_eq e)

theorem execRescueEnter_answers {fn : Fn} (h : s₀.Follows s) : s₀.Answers False (execRescueEnter fn s) :=
  State.Follows.serveOp h fun _ => h.triggerRescue.enterRescue.opDone

/-! ### Temperature -/

theorem State.Follows.decidePlacement {r : Readings} {v : RoundVals} (h : s₀.Follows s) : s₀.Follows (s.decidePlacement r v).1 :=
  h.litVitals (by rfl) (by rfl) (by rfl)

theorem State.Follows.roundBegins (h : s₀.Follows s) : s₀.Follows s.roundBegins :=
  h.trans_of rfl le_rfl fun hs => { hs with relief := hs.nextRelief, nextRelief := hs.nextRelief, trip := hs.trip }

theorem State.Follows.keepReadings {r : Readings} {v : RoundVals} (h : s₀.Follows s) : s₀.Follows (s.keepReadings r v) :=
  h.litVitals (by rfl) (by rfl) (by rfl)

theorem State.Follows.decideLimits {v : RoundVals} {refused : Bool} (h : s₀.Follows s) : s₀.Follows (s.decideLimits v refused) :=
  h.trans_of rfl le_rfl fun hs => { hs with
    relief := hs.relief, nextRelief := hs.nextRelief, trip := fun htrip => by
      show (s.thm.therm || v.locs.any (·.atMax)) = true
      rw [hs.trip htrip, Bool.true_or] }

theorem State.Follows.publishDies {v : RoundVals} (h : s₀.Follows s) : s₀.Follows (s.publishDies v) :=
  h.litVitals (by rfl) (by rfl) (by rfl)

theorem State.Follows.removeBlind {v : RoundVals} (h : s₀.Follows s) : s₀.Follows (s.removeBlind v) :=
  State.Follows.foldl h (fun _ _ hu => (hu.litVitals (by rfl) (by rfl) (by rfl)).loseCluster) _

theorem State.Follows.evalRound {r : Readings} (h : s₀.Follows s) : s₀.Follows (s.evalRound r) :=
  h.roundBegins.keepReadings.decidePlacement.decideLimits.publishDies.removeBlind.takeFree

theorem State.Follows.roundDone (h : s₀.Follows s) : s₀.Follows s.roundDone := by
  have key : ∀ due onTime, s₀.Follows { s with ink := { s.ink with roundDue := due, onTime := onTime } } :=
    fun _ _ => h.litVitals rfl rfl rfl
  exact key _ _

theorem execHousekeepingRound_answers {r : Readings} (h : s₀.Follows s) : s₀.Answers False (execHousekeepingRound r s) := by
  unfold execHousekeepingRound
  split
  · exact h
  · exact State.Answers.ite (h.litVitals (by rfl) (by rfl) (by rfl)) (State.Answers.ite h h.evalRound.roundDone)

theorem execThermNRelease_answers (h : s₀.Follows s) : s₀.Answers False (execThermNRelease s) := by
  unfold execThermNRelease
  split
  next hc =>
    have hnot : s.thm.tripped = false := by simpa using hc.2.2
    exact h.trans_of rfl le_rfl fun hs => { hs with
      relief := hs.relief, nextRelief := hs.nextRelief, trip := fun htrip => absurd htrip (by simp [hnot]) }
  · exact h

theorem execSensorBroken_answers {region : Nat} (h : s₀.Follows s) : s₀.Answers False (execSensorBroken region s) :=
  State.Answers.ite h ((h.litVitals (by rfl) (by rfl) (by rfl)).log)

theorem State.Follows.allOff (h : s₀.Follows s) : s₀.Follows s.allOff := by
  unfold State.allOff
  extract_lets t p b
  have ht : s₀.Follows t := .foldl h (fun _ _ hu => hu.modDomain) _
  clear_value t
  exact State.Follows.linkDown (ht.litVitals (by rfl) (by rfl) (by rfl))

theorem execSupervisorTrip_answers (h : s₀.Follows s) : s₀.Answers False (execSupervisorTrip s) := by
  refine .ite h (State.Follows.allOff ?_)
  exact h.trans_of rfl le_rfl fun hs => { hs with relief := hs.relief, nextRelief := hs.nextRelief, trip := fun _ => rfl }

/-! ### Register writes -/

theorem execPtrClassWeightWrite_answers {stack reg value : Nat} (h : s₀.Follows s) : s₀.Answers False (execPtrClassWeightWrite stack reg
    value s) :=
  State.Answers.ite h h.modPorter

theorem execMxaProofTolWrite_answers {stack value : Nat} (h : s₀.Follows s) : s₀.Answers False (execMxaProofTolWrite stack value s) :=
  State.Answers.ite h.lit h

theorem execScrubPeriodWrite_answers {stack : Nat} {hbm : Bool} {value : Nat} (h : s₀.Follows s) : s₀.Answers False
    (execScrubPeriodWrite stack hbm value s) :=
  State.Answers.ite (State.Answers.ite h.modHbmRegs h) (State.Answers.ite h.modStnRegs h)

theorem execStnFlipMaskWrite_answers {stack reg value : Nat} (h : s₀.Follows s) : s₀.Answers False (execStnFlipMaskWrite stack reg value
    s) := by
  unfold execStnFlipMaskWrite
  split
  · exact h.modStnRegs
  · exact h.modStnRegs
  · exact h.modStnRegs
  · exact h

theorem execHbmFlipMaskWrite_answers {stack value : Nat} (h : s₀.Follows s) : s₀.Answers False (execHbmFlipMaskWrite stack value s) :=
  h.modHbmRegs

theorem execPwrLimitWrite_answers {brake : Bool} {value : Nat} (h : s₀.Follows s) : s₀.Answers False (execPwrLimitWrite brake value s)
    := by
  cases brake with
  | false =>
    rw [execPwrLimitWrite_limit]
    split
    next hw => exact h.trans_of rfl le_rfl fun hs => { hs with limit := hw, brake := hs.brake, rates := hs.rates }
    · exact h
  | true =>
    rw [execPwrLimitWrite_brake]
    refine h.trans_of rfl le_rfl fun hs => { hs with limit := hs.limit, brake := ?_, rates := hs.rates }
    dsimp only
    split
    next hw => exact hw
    · exact hs.brake

theorem execThmReliefWrite_answers {place : Bool} {value : Nat} (h : s₀.Follows s) : s₀.Answers False (execThmReliefWrite place value s)
    := by
  cases place with
  | false =>
    rw [execThmReliefWrite_relief]
    split
    next hw => exact h.trans_of rfl le_rfl fun hs => { hs with relief := hs.relief, nextRelief := hw, trip := hs.trip }
    · exact h
  | true => exact h.litVitals rfl rfl rfl

theorem execLampCtrlWrite_answers {lamp value : Nat} (h : s₀.Follows s) : s₀.Answers False (execLampCtrlWrite lamp value s) :=
  State.Answers.ite h h.lit

theorem State.Follows.drawNonce (h : s₀.Follows s) : s₀.Follows (s.drawNonce) := h.litVitals (by rfl) (by rfl) (by rfl)

theorem execDbgUnlockGo_answers {value : Nat} (h : s₀.Follows s) : s₀.Answers False (execDbgUnlockGo value s) :=
  State.Answers.ite h.lit h.lit.drawNonce.takeFree

theorem execMsixControlWrite_answers {fn : Fn} {w : MsixWrite} (h : s₀.Follows s) : s₀.Answers False (execMsixControlWrite fn w s) := by
  unfold execMsixControlWrite
  split
  · exact h.lit.releasePending
  · exact State.Answers.ite h h.lit.releasePending

theorem State.Follows.row {f : State → Host.Outcome State Fault Refusal} (h : s₀.Follows s) (hf : s₀.Answers False (f s)) : s₀.Follows
    (s.row f) := by
  unfold State.row
  split
  next e => exact (e ▸ hf :)
  · exact h

theorem State.Follows.writeLampStatus {set : Nat} (h : s₀.Follows s) : s₀.Follows (s.writeLampStatus set) := h.lit

theorem State.Follows.writeMsixWord {fn : Fn} {o new : Nat} (h : s₀.Follows s) : s₀.Follows (s.writeMsixWord fn o new) := by
  unfold State.writeMsixWord
  extract_lets v r put
  have hp : ∀ a d mk, s₀.Follows (put a d mk) := fun _ _ _ => h.row (execMsixControlWrite_answers h)
  split
  · exact hp ..
  · exact hp ..
  · exact hp ..
  · exact hp ..

theorem State.Follows.writeFn {fn : Fn} {o new set : Nat} (h : s₀.Follows s) : s₀.Follows (s.writeFn fn o new set) :=
  .ite (h.row (execMbxDoorbell_answers h)) (.ite h.modMbx (.ite h.writeMsixWord h))

theorem State.Follows.writeDmaWord {k ch q new set : Nat} (h : s₀.Follows s) : s₀.Follows (s.writeDmaWord k ch q new set) := by
  have go : ∀ u, s₀.Follows u → s₀.Follows (u.row (execDmaGo k ch)) := fun _ hu => hu.row (execDmaGo_answers hu)
  have stop : ∀ u, s₀.Follows u → s₀.Follows (u.row (execDmaStop k ch)) := fun _ hu => hu.row (execDmaStop_answers hu)
  have arm : ∀ u, s₀.Follows u → s₀.Follows (u.row (execDmaArmShadow k ch)) := fun _ hu => hu.row (execDmaArmShadow_answers hu)
  have hgo := State.Follows.ite (c := bit set 0) (go s h) h
  have hstop := State.Follows.ite (c := bit set 1) (stop _ hgo) hgo
  exact .ite (.ite (h.row (execDmaRegWrite_answers h)) (h.row (execDmaRegWrite_answers h)))
    (.ite (h.row (execDmaRegWrite_answers h)) (.ite (.ite (arm _ hstop) hstop) h))

theorem State.Follows.writePf {off new set : Nat} (h : s₀.Follows s) : s₀.Follows (s.writePf off new set) := by
  unfold State.writePf
  extract_lets o k q
  split
  · exact .ite (h.row (execLampCtrlWrite_answers h)) (.ite h.writeLampStatus (.ite h.writeFn h))
  · exact .ite (h.row (execMxaProofTolWrite_answers h)) h
  · exact .ite (h.row (execStnFlipMaskWrite_answers h)) (.ite (h.row (execScrubPeriodWrite_answers h)) h)
  · exact .ite (h.row (execScrubPeriodWrite_answers h)) (.ite h.modHbmRegs (.ite (h.row (execHbmFlipMaskWrite_answers h)) h))
  · refine .ite (h.row (execCylDomainWrite_answers h)).takeFree (.ite (h.row (execCylRouteWrite_answers h)) (.ite ?_ h))
    split
    · exact h.row (execCylPortCtrlWrite_answers h)
    · exact h.modPort
    · exact h
  · exact .ite (h.row (execPtrClassWeightWrite_answers h)) h
  · exact .ite h.lit (.ite (h.row (execDmaSwqAdj_answers h)) (.ite h.lit (.ite h.writeDmaWord h)))
  · exact .ite (h.row (execLodSliceWrite_answers h)) h
  · exact .ite (h.row (execQosClassCfgWrite_answers h)) h
  · exact .ite (h.row (execPwrLimitWrite_answers h)) (.ite (h.row (execPwrLimitWrite_answers h)) (.ite (h.litVitals rfl rfl rfl)
      (.ite (h.row (execThmReliefWrite_answers h)) (.ite (h.row (execThmReliefWrite_answers h)) h))))
  · exact .ite h.lit (.ite (h.row (execDbgUnlockGo_answers h)) (.ite (h.row (execDbgLedgerSel_answers h)) (.ite h.lit
      (.ite (h.row (execInkPmcCfgWrite_answers h)) h))))
  · exact h

theorem State.Follows.writeVf {n off new set : Nat} (h : s₀.Follows s) : s₀.Follows (s.writeVf n off new set) := by
  unfold State.writeVf
  refine .ite ?_ (.ite h.modLod h.writeFn)
  dsimp only
  split
  · exact h.row (execGalleyEnable_answers h)
  · exact h.row (execGalleyDisable_answers h)
  · exact h.row (execGalleyResume_answers h)
  · exact h

theorem State.Follows.writeWordAt {fn : Fn} {off v m : Nat} (h : s₀.Follows s) : s₀.Follows (s.writeWordAt fn off v m) := by
  unfold State.writeWordAt
  split
  · exact h
  · split
    · split
      · split
        · exact h.writePf
        · exact State.Follows.ite h.lit h
        · exact h.writeVf
      · split
        · exact h.writePf
        · exact State.Follows.ite h.lit h
        · exact h.writeVf
    · split
      · exact h.writePf
      · exact State.Follows.ite h.lit h
      · exact h.writeVf

theorem State.Follows.writeWords {fn : Fn} {off width value : Nat} (h : s₀.Follows s) : s₀.Follows (s.writeWords fn off width value) :=
  State.Follows.foldl h (fun _ _ hu => hu.writeWordAt) _

theorem execRegisterWrite_answers {fn : Fn} {off width value : Nat} {ep : Bool} (h : s₀.Follows s) : s₀.Answers False (execRegisterWrite
    fn off width value ep s) := by
  unfold execRegisterWrite
  refine .ite h.advisory (.ite (execMbxCmdWrite_answers h) ?_)
  cases fn with
  | pf => exact h.writeWords
  | vf n =>
    exact .ite (execGalleyDoorbell_answers h) (.ite (execGdtBaseWrite_answers h) (.ite (execSignalAreaWrite_answers h) h.writeWords))

theorem execConfigRequest_answers {fn : Fn} {reg : Nat} (h : s₀.Follows s) : s₀.Answers False (execConfigRequest fn reg s) :=
  State.Answers.ite h.emit (State.Follows.ite h.emit h.emit.takeFree)

/-! ### The Innkeeper -/

theorem State.Follows.failOp {key : Nat} {o : AdminOp} (h : s₀.Follows s) : s₀.Follows (s.failOp key o) :=
  State.Follows.ite h.endOp (h.endOp.litVitals (by rfl) (by rfl) (by rfl))

theorem execInnkeeperFailover_answers (h : s₀.Follows s) : s₀.Answers False (execInnkeeperFailover s) := by
  unfold execInnkeeperFailover
  split
  · exact h
  · split
    · exact h.litVitals (by rfl) (by rfl) (by rfl)
    · exact ((State.Follows.foldl h (fun _ _ hu => hu.failOp) _).litVitals (by rfl) (by rfl) (by rfl)).log

theorem State.Follows.reply {transport : Nat} {r : List Nat} (h : s₀.Follows s) : s₀.Follows (s.reply transport r) :=
  State.Follows.ite (h.litVitals (by rfl) (by rfl) (by rfl)) h.emit

theorem State.Follows.pldmImage {transport : Nat} {img : List Byte} {readBackOk : Bool} (h : s₀.Follows s) : s₀.Follows (s.pldmImage
    transport img readBackOk) := by
  unfold State.pldmImage
  refine State.Follows.reply ?_
  split
  · exact h
  · exact h.programImage

theorem State.Follows.serveRequests (h : s₀.Follows s) : s₀.Follows s.serveRequests := by
  unfold State.serveRequests
  refine .ite h ?_
  extract_lets waiting images ink taken sent
  have hsent : s₀.Follows sent := (h.litVitals (by rfl) (by rfl) (by rfl)).foldl (fun _ _ hu => hu.emit) _
  exact hsent.foldl (fun _ _ hu => hu.pldmImage) _

theorem execFailoverComplete_answers (h : s₀.Follows s) : s₀.Answers False (execFailoverComplete s) :=
  State.Answers.ite h (((((h.litVitals (by rfl) (by rfl) (by rfl)).log).lit).raise).serveRequests)

theorem execInnkeeperCheckpoint_answers (h : s₀.Follows s) : s₀.Answers False (execInnkeeperCheckpoint s) :=
  State.Answers.ite h (h.litVitals (by rfl) (by rfl) (by rfl))

theorem execSupervisorHold_answers (h : s₀.Follows s) : s₀.Answers False (execSupervisorHold s) :=
  State.Answers.ite h (h.litVitals (by rfl) (by rfl) (by rfl))

theorem execSupervisorRelease_answers (h : s₀.Follows s) : s₀.Answers False (execSupervisorRelease s) :=
  State.Answers.ite (h.litVitals (by rfl) (by rfl) (by rfl)) h

theorem execShedWindow_answers {busyPermille : Nat} (h : s₀.Follows s) : s₀.Answers False (execShedWindow busyPermille s) := by
  unfold execShedWindow
  refine h.trans_of rfl le_rfl fun hs => { hs with shed := ?_ }
  have hle := hs.shed
  dsimp only
  split
  · omega
  · split <;> omega

theorem execTelemetrySnapshot_answers (h : s₀.Follows s) : s₀.Answers False (execTelemetrySnapshot s) :=
  State.Answers.ite h (h.litVitals (by rfl) (by rfl) (by rfl))

theorem execAntiRollbackFuse_answers (h : s₀.Follows s) : s₀.Answers False (execAntiRollbackFuse s) := by
  unfold execAntiRollbackFuse
  split
  next hc => exact h.trans_of rfl (le_of_lt hc.2.1) fun hs => { hs with shed := hs.shed }
  · exact h

theorem execRepairLogWrite_answers (h : s₀.Follows s) : s₀.Answers False (execRepairLogWrite s) := by
  unfold execRepairLogWrite
  split
  · exact h
  · exact State.Answers.ite h (h.litVitals (by rfl) (by rfl) (by rfl))

theorem execPldmPlatformRequest_answers {transport : Nat} {sensors : List Nat} (h : s₀.Follows s) : s₀.Answers False
    (execPldmPlatformRequest transport sensors s) :=
  State.Answers.ite h h.serveRequests.reply.takeFree

theorem execPldmFirmwareUpdate_answers {transport : Nat} {image : List Byte} {readBackOk : Bool} (h : s₀.Follows s) : s₀.Answers False
    (execPldmFirmwareUpdate transport image readBackOk s) := by
  unfold execPldmFirmwareUpdate
  split
  · exact h
  · split
    · exact h.pldmImage.lit
    · exact State.Answers.ite h (State.Answers.ite (h.litVitals (by rfl) (by rfl) (by rfl)) h.serveRequests.pldmImage)

theorem execSpdmRequest_answers {transport kind : Nat} {nonce : List Nat} (h : s₀.Follows s) : s₀.Answers False (execSpdmRequest
    transport kind nonce s) :=
  State.Answers.ite h h.serveRequests.reply

/-! ### The board -/

theorem State.Follows.modRel {f : Rel → Rel} (h : s₀.Follows s) : s₀.Follows (s.modRel f) := h.lit

theorem State.Follows.applyRepair {e : Nat × Nat} (h : s₀.Follows s) : s₀.Follows (s.applyRepair e) := by
  unfold State.applyRepair
  split
  · exact h.modCore.modRel
  · exact h.modSlice
  · exact h.modSlice
  · exact h.lit
  · exact h.modChannel
  · exact h.modDomain
  · exact h.modRel
  · exact h.modSlice
  · exact h

theorem State.reset_sound : State.reset.Sound :=
  { memory := rfl, clock := by decide, quantum := by decide, limit := by decide, brake := by decide, rates := .inl ⟨rfl, rfl⟩,
    relief := by decide, nextRelief := by decide, shed := by decide, trip := fun h => nomatch h }

/-- The memory that a cold start leaves: host memory, with no poison (20, R438). -/
theorem State.coldStarted_memory (h : s.mem.wf = true) : s.coldStarted.mem.wf = true := by
  have hf := Memory.wf_filter s.mem h (fun c => placeOf c.1 == .host) (fun _ => false)
  rwa [List.filter_false] at hf

theorem State.Follows.coldStarted (h : s₀.Follows s) : s₀.Follows s.coldStarted :=
  h.trans_of rfl le_rfl fun hs => { State.reset_sound with memory := State.coldStarted_memory hs.memory }

theorem execColdStart_answers (h : s₀.Follows s) : s₀.Answers False (execColdStart s) := h.coldStarted

theorem execSysRstAssert_answers (h : s₀.Follows s) : s₀.Answers False (execSysRstAssert s) :=
  h.allOff.litVitals (by rfl) (by rfl) (by rfl)

theorem State.Follows.bootFirmware {valid0 valid1 : Bool} (h : s₀.Follows s) : s₀.Follows (s.bootFirmware valid0 valid1) := by
  unfold State.bootFirmware
  split
  · exact h.lit
  · exact h.litVitals (by rfl) (by rfl) (by rfl)

theorem State.Follows.nextStep {valid0 valid1 : Bool} (h : s₀.Follows s) : s₀.Follows (s.nextStep valid0 valid1) := by
  unfold State.nextStep
  extract_lets go
  have hgo : ∀ {t : State} (n : Nat), s₀.Follows t → s₀.Follows (go t n) := fun n ht => ht.lit
  have hwake : ∀ l, s₀.Follows { s with pwr := { s.pwr with wakeQueue := l } } := fun l => h.litVitals rfl rfl rfl
  split
  · exact hgo _ h
  · exact h.bootFirmware
  · exact hgo _ (hwake _)
  · exact .ite (hgo _ h.lit) h
  · exact hgo _ h
  · exact hgo _ (.foldl h (fun _ _ hu => hu.applyRepair) _)
  · exact hgo _ h.lit
  · exact hgo _ h.lit
  · exact h

theorem execStartupStep_answers {slotValid0 slotValid1 : Bool} (h : s₀.Follows s) : s₀.Answers False (execStartupStep slotValid0
    slotValid1 s) :=
  State.Answers.ite h h.nextStep

theorem execStartFail_answers {rail : Nat} (h : s₀.Follows s) : s₀.Answers False (execStartFail rail s) :=
  State.Answers.ite h.allOff.lit h

theorem execRailFault_answers {rail : Nat} (h : s₀.Follows s) : s₀.Answers False (execRailFault rail s) :=
  State.Answers.ite h.allOff.lit h

theorem State.Follows.allPortsDown (h : s₀.Follows s) : s₀.Follows (s.allPortsDown) :=
  State.Follows.foldl h (fun _ _ hu => State.Follows.ite hu.portDown hu) _

theorem State.Follows.missionReset (h : s₀.Follows s) : s₀.Follows s.missionReset := by
  unfold State.missionReset
  extract_lets i t ls u v w
  have ht : s₀.Follows t := h.litVitals rfl rfl rfl
  have hu : s₀.Follows u := .foldl ht (fun _ _ hx => hx.modLod.beginReset) _
  have hv : s₀.Follows v := .foldl hu (fun _ _ hx => hx.carryFlr) _
  have hw : s₀.Follows w := hv.allPortsDown
  clear_value w
  exact hw.trans_of rfl le_rfl fun hs => { hs with quantum := by show 100 ≤ 2000 ∧ 2000 ≤ 65535; decide }

theorem State.Follows.fundamentalReset (h : s₀.Follows s) : s₀.Follows (s.fundamentalReset) :=
  State.Follows.ite h (State.Follows.ite h.linkDown.lit.lit (State.Follows.ite h.linkDown.lit.missionReset h.linkDown.lit))

theorem execPerstAssert_answers (h : s₀.Follows s) : s₀.Answers False (execPerstAssert s) := State.Answers.ite h h.fundamentalReset.lit

theorem execPerstRelease_answers (h : s₀.Follows s) : s₀.Answers False (execPerstRelease s) := h.lit

theorem execRefclkLoss_answers (h : s₀.Follows s) : s₀.Answers False (execRefclkLoss s) :=
  State.Answers.ite h ((State.Follows.ite h h.fundamentalReset).lit)

theorem execRefclkReturn_answers (h : s₀.Follows s) : s₀.Answers False (execRefclkReturn s) := h.lit

theorem execLinkRefclkLoss_answers (h : s₀.Follows s) : s₀.Answers False (execLinkRefclkLoss s) := h.allPortsDown.lit

theorem execLinkRefclkReturn_answers (h : s₀.Follows s) : s₀.Answers False (execLinkRefclkReturn s) := h.lit

theorem execXtalLoss_answers (h : s₀.Follows s) : s₀.Answers False (execXtalLoss s) := h.lit

theorem execPcieLinkUp_answers {rate width : Nat} (h : s₀.Follows s) : s₀.Answers False (execPcieLinkUp rate width s) :=
  State.Answers.ite h.lit h

theorem State.Follows.firstReady (h : s₀.Follows s) : s₀.Follows s.firstReady :=
  h.trans_of rfl le_rfl fun hs => { hs with
    limit := hs.limit, brake := hs.brake, relief := hs.relief, nextRelief := hs.nextRelief, trip := hs.trip
    rates := .inr ⟨by show 8 ≤ 64; decide, le_rfl, by show 2 ≤ 8; decide, le_rfl⟩ }

theorem execConfigReady_answers (h : s₀.Follows s) : s₀.Answers False (execConfigReady s) :=
  State.Answers.ite ((State.Follows.ite h.firstReady h).lit) h

theorem execLampPeriod_answers {lamp microamps : Nat} (h : s₀.Follows s) : s₀.Answers False (execLampPeriod lamp microamps s) := h.lit

theorem execLampOpen_answers {lamp : Nat} (h : s₀.Follows s) : s₀.Answers False (execLampOpen lamp s) :=
  State.Answers.ite h.lit.setNow h

theorem execLampShort_answers {lamp milliamps : Nat} (h : s₀.Follows s) : s₀.Answers False (execLampShort lamp milliamps s) :=
  State.Answers.ite h.lit.setNow h

/-! ### The host's completions -/

theorem execHostReadCompletion_answers {txn : Nat} {ans : HostAns} {bytes : List Byte} (h : s₀.Follows s) : s₀.Answers False
    (execHostReadCompletion txn ans bytes s) := by
  unfold execHostReadCompletion
  split
  · exact h
  · split
    · exact h
    · split
      · exact h.logHost.haltAccess
      · exact (h.logHost.addBytes.litMem (fun hm => Memory.wf_put _ hm _ _)).loadArrives
      · exact h.logHost.addBytes.loadArrives
      · exact h.logHost.loadArrives

theorem execCompletionTimeout_answers {txn : Nat} (h : s₀.Follows s) : s₀.Answers False (execCompletionTimeout txn s) := by
  unfold execCompletionTimeout
  split
  · exact h
  · split
    · exact h
    · exact h.logHost.loadArrives

theorem State.Follows.hostPerformed {pa old : Nat} {a : AtomTxn} (h : s₀.Follows s) : s₀.Follows (s.hostPerformed pa old a) :=
  State.Follows.ite h (h.litMem (fun hm => Memory.wf_put _ hm _ _))

theorem State.Follows.hostRefused {t : Txn} (h : s₀.Follows s) : s₀.Follows (s.hostRefused t) := h.faultNoted

theorem execHostAtomicCompletion_answers {txn : Nat} {ans : HostAns} {old : Nat} (h : s₀.Follows s) : s₀.Answers False
    (execHostAtomicCompletion txn ans old s) := by
  unfold execHostAtomicCompletion
  split
  · exact h
  · split
    · exact h
    · split
      · exact h.logHost.hostRefused
      · exact h.logHost.hostRefused
      · exact h.logHost.hostPerformed.atomicArrives
      · exact h.logHost.hostPerformed.atomicArrives
      · exact h.logHost.atomicArrives

/-! ### Every command -/

/-- The ground on which the command `c` may stop: it is one of the six request flits and carries an address that lies astray (01, R22). -/
def State.MayStop (s : State) (c : Instr) : Prop :=
  ∃ f g : Flit, (c = .read f ∨ c = .write f ∨ c = .writePartial f ∨ c = .atomic f ∨ c = .addToLine f ∨ c = .writeHome f) ∧
    (g = f ∨ g = s.carried f) ∧ Astray g

theorem exec_answers {s : State} : ∀ c : Instr, s.Answers (s.MayStop c) (exec c s)
  | .nop .. => (execNop_answers .refl).mono False.elim
  | .gemm .. => (execGemm_answers .refl).mono False.elim
  | .gemmGrouped .. => (execGemmGrouped_answers .refl).mono False.elim
  | .gemmMultiword .. => (execGemmMultiword_answers .refl).mono False.elim
  | .gemmComplex .. => (execGemmComplex_answers .refl).mono False.elim
  | .elementwiseArray .. => (execElementwiseArray_answers .refl).mono False.elim
  | .attentionFwd .. => (execAttentionFwd_answers .refl).mono False.elim
  | .attentionBwd .. => (execAttentionBwd_answers .refl).mono False.elim
  | .attentionDecode .. => (execAttentionDecode_answers .refl).mono False.elim
  | .kvAppend .. => (execKvAppend_answers .refl).mono False.elim
  | .kernelLaunch .. => (execKernelLaunch_answers .refl).mono False.elim
  | .copy .. => (execCopy_answers .refl).mono False.elim
  | .fill .. => (execFill_answers .refl).mono False.elim
  | .copyRemote .. => (execCopyRemote_answers .refl).mono False.elim
  | .reducePush .. => (execReducePush_answers .refl).mono False.elim
  | .epochFlush .. => (execEpochFlush_answers .refl).mono False.elim
  | .epochInvalidate .. => (execEpochInvalidate_answers .refl).mono False.elim
  | .signalWrite .. => (execSignalWrite_answers .refl).mono False.elim
  | .signalWait .. => (execSignalWait_answers .refl).mono False.elim
  | .map .. => (execMap_answers .refl).mono False.elim
  | .unmap .. => (execUnmap_answers .refl).mono False.elim
  | .digestRead .. => (execDigestRead_answers .refl).mono False.elim
  | .traceMark .. => (execTraceMark_answers .refl).mono False.elim
  | .badOpcode .. => (execBadOpcode_answers .refl).mono False.elim
  | .adminInGalley .. => (execAdminInGalley_answers .refl).mono False.elim
  | .poisonedPacket .. => (execPoisonedPacket_answers .refl).mono False.elim
  | .commandCompletion .. => (execCommandCompletion_answers .refl).mono False.elim
  | .galleyDoorbell .. => (execGalleyDoorbell_answers .refl).mono False.elim
  | .galleyEnable .. => (execGalleyEnable_answers .refl).mono False.elim
  | .galleyDisable .. => (execGalleyDisable_answers .refl).mono False.elim
  | .galleyResume .. => (execGalleyResume_answers .refl).mono False.elim
  | .drainComplete .. => (execDrainComplete_answers .refl).mono False.elim
  | .gdtBaseWrite .. => (execGdtBaseWrite_answers .refl).mono False.elim
  | .signalAreaWrite .. => (execSignalAreaWrite_answers .refl).mono False.elim
  | .signalWaitTimeout .. => (execSignalWaitTimeout_answers .refl).mono False.elim
  | .mbxCmdWrite .. => (execMbxCmdWrite_answers .refl).mono False.elim
  | .mbxOperationEnd .. => (execMbxOperationEnd_answers .refl).mono False.elim
  | .lodgingCreate .. => (execLodgingCreate_answers .refl).mono False.elim
  | .lodgingDestroy .. => (execLodgingDestroy_answers .refl).mono False.elim
  | .lodgingReset .. => (execLodgingReset_answers .refl).mono False.elim
  | .fwUpdate .. => (execFwUpdate_answers .refl).mono False.elim
  | .bistRun .. => (execBistRun_answers .refl).mono False.elim
  | .secureErase .. => (execSecureErase_answers .refl).mono False.elim
  | .contractSet .. => (execContractSet_answers .refl).mono False.elim
  | .telemetryRead _ ans => (execTelemetryRead_answers (ans := ans) .refl).mono False.elim
  | .rescueEnter .. => (execRescueEnter_answers .refl).mono False.elim
  | .functionLevelReset .. => (execFunctionLevelReset_answers .refl).mono False.elim
  | .blockPlacement .. => (execBlockPlacement_answers .refl).mono False.elim
  | .instructionFetch .. => (execInstructionFetch_answers .refl).mono False.elim
  | .arithmeticInstruction .. => (execArithmeticInstruction_answers .refl).mono False.elim
  | .coreLoad .. => (execCoreLoad_answers .refl).mono False.elim
  | .coreStore .. => (execCoreStore_answers .refl).mono False.elim
  | .coreAtomic .. => (execCoreAtomic_answers .refl).mono False.elim
  | .fence .. => (execFence_answers .refl).mono False.elim
  | .barrier .. => (execBarrier_answers .refl).mono False.elim
  | .feederIssue .. => (execFeederIssue_answers .refl).mono False.elim
  | .feederWait .. => (execFeederWait_answers .refl).mono False.elim
  | .feederTransferComplete .. => (execFeederTransferComplete_answers .refl).mono False.elim
  | .threadExit .. => (execThreadExit_answers .refl).mono False.elim
  | .launchTimeout .. => (execLaunchTimeout_answers .refl).mono False.elim
  | .unitDispatch .. => (execUnitDispatch_answers .refl).mono False.elim
  | .arrayPass .. => (execArrayPass_answers .refl).mono False.elim
  | .passRecompute .. => (execPassRecompute_answers .refl).mono False.elim
  | .unitEpilogue .. => (execUnitEpilogue_answers .refl).mono False.elim
  | .segmentCombine .. => (execSegmentCombine_answers .refl).mono False.elim
  | .attentionKeyBlock .. => (execAttentionKeyBlock_answers .refl).mono False.elim
  | .splitMerge .. => (execSplitMerge_answers .refl).mono False.elim
  | .read f => (execRead_answers .refl).mono fun ha => ⟨f, s.carried f, by simp, .inr rfl, ha⟩
  | .write f => (execWrite_answers .refl).mono fun ha => ⟨f, s.carried f, by simp, .inr rfl, ha⟩
  | .writePartial f => (execWritePartial_answers .refl).mono fun ha => ⟨f, s.carried f, by simp, .inr rfl, ha⟩
  | .atomic f => (execAtomic_answers .refl).mono fun ha => ⟨f, s.carried f, by simp, .inr rfl, ha⟩
  | .addToLine f => (execAddToLine_answers .refl).mono fun ha => ⟨f, f, by simp, .inl rfl, ha⟩
  | .writeHome f => (execWriteHome_answers .refl).mono fun ha => ⟨f, f, by simp, .inl rfl, ha⟩
  | .signal .. => (execSignal_answers .refl).mono False.elim
  | .data .. => (execData_answers .refl).mono False.elim
  | .ack .. => (execAck_answers .refl).mono False.elim
  | .result .. => (execResult_answers .refl).mono False.elim
  | .fault .. => (execFault_answers .refl).mono False.elim
  | .credit .. => (execCredit_answers .refl).mono False.elim
  | .flitUnusedOp .. => (execFlitUnusedOp_answers .refl).mono False.elim
  | .creditReturnTimer .. => (execCreditReturnTimer_answers .refl).mono False.elim
  | .lineBurst .. => (execLineBurst_answers .refl).mono False.elim
  | .laneAck .. => (execLaneAck_answers .refl).mono False.elim
  | .laneNak .. => (execLaneNak_answers .refl).mono False.elim
  | .pairingWindowExpiry .. => (execPairingWindowExpiry_answers .refl).mono False.elim
  | .laneReplayTimer .. => (execLaneReplayTimer_answers .refl).mono False.elim
  | .laneSuspect .. => (execLaneSuspect_answers .refl).mono False.elim
  | .columnQuiesce .. => (execColumnQuiesce_answers .refl).mono False.elim
  | .quiesceHoldExpiry .. => (execQuiesceHoldExpiry_answers .refl).mono False.elim
  | .writebackAck .. => (execWritebackAck_answers .refl).mono False.elim
  | .hbmReadComplete .. => (execHbmReadComplete_answers .refl).mono False.elim
  | .laneMark .. => (execLaneMark_answers .refl).mono False.elim
  | .hbmScrubSector .. => (execHbmScrubSector_answers .refl).mono False.elim
  | .stnScrubWord .. => (execStnScrubWord_answers .refl).mono False.elim
  | .reliefRequest .. => (execReliefRequest_answers .refl).mono False.elim
  | .reliefEndRequest .. => (execReliefEndRequest_answers .refl).mono False.elim
  | .reliefDrainEnd .. => (execReliefDrainEnd_answers .refl).mono False.elim
  | .d2dLinkFail .. => (execD2dLinkFail_answers .refl).mono False.elim
  | .cytilTransfer .. => (execCytilTransfer_answers .refl).mono False.elim
  | .cytilNak .. => (execCytilNak_answers .refl).mono False.elim
  | .cytilIdle .. => (execCytilIdle_answers .refl).mono False.elim
  | .cytilReplayTimer .. => (execCytilReplayTimer_answers .refl).mono False.elim
  | .cytilLaneFail .. => (execCytilLaneFail_answers .refl).mono False.elim
  | .cytilPortUp .. => (execCytilPortUp_answers .refl).mono False.elim
  | .timeSync .. => (execTimeSync_answers .refl).mono False.elim
  | .timeSyncPeriod => (execTimeSyncPeriod_answers .refl).mono False.elim
  | .timeBaseAligned .. => (execTimeBaseAligned_answers .refl).mono False.elim
  | .cylDomainWrite .. => (execCylDomainWrite_answers .refl).mono False.elim
  | .cylRouteWrite .. => (execCylRouteWrite_answers .refl).mono False.elim
  | .cylPortCtrlWrite .. => (execCylPortCtrlWrite_answers .refl).mono False.elim
  | .dmaGo .. => (execDmaGo_answers .refl).mono False.elim
  | .dmaStop .. => (execDmaStop_answers .refl).mono False.elim
  | .dmaArmShadow .. => (execDmaArmShadow_answers .refl).mono False.elim
  | .dmaRegWrite .. => (execDmaRegWrite_answers .refl).mono False.elim
  | .dmaSwqAdj .. => (execDmaSwqAdj_answers .refl).mono False.elim
  | .dmaTimerFire .. => (execDmaTimerFire_answers .refl).mono False.elim
  | .dmaBurstStart .. => (execDmaBurstStart_answers .refl).mono False.elim
  | .dmaEndOfCount .. => (execDmaEndOfCount_answers .refl).mono False.elim
  | .dmaBurstTimeout .. => (execDmaBurstTimeout_answers .refl).mono False.elim
  | .dmaRetryStart .. => (execDmaRetryStart_answers .refl).mono False.elim
  | .ptrClassWeightWrite .. => (execPtrClassWeightWrite_answers .refl).mono False.elim
  | .mxaProofTolWrite .. => (execMxaProofTolWrite_answers .refl).mono False.elim
  | .scrubPeriodWrite .. => (execScrubPeriodWrite_answers .refl).mono False.elim
  | .stnFlipMaskWrite .. => (execStnFlipMaskWrite_answers .refl).mono False.elim
  | .hbmFlipMaskWrite .. => (execHbmFlipMaskWrite_answers .refl).mono False.elim
  | .qosClassCfgWrite .. => (execQosClassCfgWrite_answers .refl).mono False.elim
  | .lodSliceWrite .. => (execLodSliceWrite_answers .refl).mono False.elim
  | .pwrLimitWrite .. => (execPwrLimitWrite_answers .refl).mono False.elim
  | .thmReliefWrite .. => (execThmReliefWrite_answers .refl).mono False.elim
  | .lampCtrlWrite .. => (execLampCtrlWrite_answers .refl).mono False.elim
  | .dbgLedgerSel .. => (execDbgLedgerSel_answers .refl).mono False.elim
  | .inkPmcCfgWrite .. => (execInkPmcCfgWrite_answers .refl).mono False.elim
  | .dbgUnlockGo .. => (execDbgUnlockGo_answers .refl).mono False.elim
  | .msixControlWrite .. => (execMsixControlWrite_answers .refl).mono False.elim
  | .registerWrite .. => (execRegisterWrite_answers .refl).mono False.elim
  | .turnEnd .. => (execTurnEnd_answers .refl).mono False.elim
  | .qosWindowBoundary => (execQosWindowBoundary_answers .refl).mono False.elim
  | .requestAgeRaise .. => (execRequestAgeRaise_answers .refl).mono False.elim
  | .floorBreach .. => (execFloorBreach_answers .refl).mono False.elim
  | .powerLimiterUpdate .. => (execPowerLimiterUpdate_answers .refl).mono False.elim
  | .brakeAssert => (execBrakeAssert_answers .refl).mono False.elim
  | .brakeRelease => (execBrakeRelease_answers .refl).mono False.elim
  | .idleGateExpiry .. => (execIdleGateExpiry_answers .refl).mono False.elim
  | .domainWake .. => (execDomainWake_answers .refl).mono False.elim
  | .rampComplete .. => (execRampComplete_answers .refl).mono False.elim
  | .regulatorOvercurrent .. => (execRegulatorOvercurrent_answers .refl).mono False.elim
  | .hiccupRetry .. => (execHiccupRetry_answers .refl).mono False.elim
  | .phaseFail .. => (execPhaseFail_answers .refl).mono False.elim
  | .sensePathOpen .. => (execSensePathOpen_answers .refl).mono False.elim
  | .crackedConnection .. => (execCrackedConnection_answers .refl).mono False.elim
  | .housekeepingRound .. => (execHousekeepingRound_answers .refl).mono False.elim
  | .thermNRelease => (execThermNRelease_answers .refl).mono False.elim
  | .sensorBroken .. => (execSensorBroken_answers .refl).mono False.elim
  | .supervisorTrip => (execSupervisorTrip_answers .refl).mono False.elim
  | .coreTakeover .. => (execCoreTakeover_answers .refl).mono False.elim
  | .rowTakeover .. => (execRowTakeover_answers .refl).mono False.elim
  | .bankTakeover .. => (execBankTakeover_answers .refl).mono False.elim
  | .hbmLaneRemap .. => (execHbmLaneRemap_answers .refl).mono False.elim
  | .innkeeperFailover => (execInnkeeperFailover_answers .refl).mono False.elim
  | .failoverComplete => (execFailoverComplete_answers .refl).mono False.elim
  | .innkeeperCheckpoint => (execInnkeeperCheckpoint_answers .refl).mono False.elim
  | .rescueEntry => (execRescueEntry_answers .refl).mono False.elim
  | .supervisorHold => (execSupervisorHold_answers .refl).mono False.elim
  | .supervisorRelease => (execSupervisorRelease_answers .refl).mono False.elim
  | .shedWindow .. => (execShedWindow_answers .refl).mono False.elim
  | .telemetrySnapshot => (execTelemetrySnapshot_answers .refl).mono False.elim
  | .antiRollbackFuse => (execAntiRollbackFuse_answers .refl).mono False.elim
  | .repairLogWrite => (execRepairLogWrite_answers .refl).mono False.elim
  | .pldmPlatformRequest .. => (execPldmPlatformRequest_answers .refl).mono False.elim
  | .pldmFirmwareUpdate .. => (execPldmFirmwareUpdate_answers .refl).mono False.elim
  | .spdmRequest .. => (execSpdmRequest_answers .refl).mono False.elim
  | .traceHeaderUpdate .. => (execTraceHeaderUpdate_answers .refl).mono False.elim
  | .traceDropRecord .. => (execTraceDropRecord_answers .refl).mono False.elim
  | .pmcSample .. => (execPmcSample_answers .refl).mono False.elim
  | .hostReadCompletion .. => (execHostReadCompletion_answers .refl).mono False.elim
  | .completionTimeout .. => (execCompletionTimeout_answers .refl).mono False.elim
  | .configRequest .. => (execConfigRequest_answers .refl).mono False.elim
  | .coldStart => (execColdStart_answers .refl).mono False.elim
  | .sysRstAssert => (execSysRstAssert_answers .refl).mono False.elim
  | .startupStep .. => (execStartupStep_answers .refl).mono False.elim
  | .startFail .. => (execStartFail_answers .refl).mono False.elim
  | .railFault .. => (execRailFault_answers .refl).mono False.elim
  | .perstAssert => (execPerstAssert_answers .refl).mono False.elim
  | .perstRelease => (execPerstRelease_answers .refl).mono False.elim
  | .pcieLinkUp .. => (execPcieLinkUp_answers .refl).mono False.elim
  | .configReady => (execConfigReady_answers .refl).mono False.elim
  | .linkRefclkLoss => (execLinkRefclkLoss_answers .refl).mono False.elim
  | .refclkLoss => (execRefclkLoss_answers .refl).mono False.elim
  | .xtalLoss => (execXtalLoss_answers .refl).mono False.elim
  | .lampPeriod .. => (execLampPeriod_answers .refl).mono False.elim
  | .lampOpen .. => (execLampOpen_answers .refl).mono False.elim
  | .lampShort .. => (execLampShort_answers .refl).mono False.elim
  | .mbxDoorbell .. => (execMbxDoorbell_answers .refl).mono False.elim
  | .ringSlotReadFault .. => (execRingSlotReadFault_answers .refl).mono False.elim
  | .d2dLinkReplay .. => (execD2dLinkReplay_answers .refl).mono False.elim
  | .latencyBreachClose .. => (execLatencyBreachClose_answers .refl).mono False.elim
  | .hostAtomicCompletion .. => (execHostAtomicCompletion_answers .refl).mono False.elim
  | .takeoverCompleted .. => (execTakeoverCompleted_answers .refl).mono False.elim
  | .refclkReturn => (execRefclkReturn_answers .refl).mono False.elim
  | .linkRefclkReturn => (execLinkRefclkReturn_answers .refl).mono False.elim

theorem exec_follows {c : Instr} {s t : State} (e : exec c s = .next t) : s.Follows t := by
  have h := exec_answers (s := s) c
  rwa [e] at h

theorem mayStop_of_exec_fault {c : Instr} {s : State} {r : Fault} (e : exec c s = .fault r) : s.MayStop c := by
  have h := exec_answers (s := s) c
  rwa [e] at h

theorem exec_ne_refused (c : Instr) (s : State) (r : Refusal) : exec c s ≠ .refused r := by
  intro e
  have h := exec_answers (s := s) c
  rwa [e] at h

theorem State.Sound.take {s : State} (h : s.Sound) (q : List Instr) : ({ s with pending := q } : State).Sound :=
  h.congr id rfl rfl rfl rfl rfl

/-- Settles O3: the values of reset lie in the ranges. -/
theorem resetIsSound : Obligations.ResetIsSound := State.reset_sound

/-- Settles O4: the command at the front keeps the soundness of the state that it finds; with none, the requests that wait are
answered and the time base counts. -/
theorem everyStepKeepsSound : Obligations.EveryStepKeepsSound := by
  intro s t hs e
  unfold step at e
  split at e
  · cases e
    exact (State.Follows.refl.serveRequests.tick).sound hs
  · exact (exec_follows e).sound (hs.take _)

/-- Settles O5. -/
theorem everyCommandLeavesTheQueue : Obligations.EveryCommandLeavesTheQueue := fun _ _ _ e => (exec_follows e).pending

/-- Settles O6. -/
theorem fusesAreNeverUnblown : Obligations.FusesAreNeverUnblown := fun _ _ _ e => (exec_follows e).fuses

/-- Settles O7: only the six request flits have an arm that stops, each at an address astray. -/
theorem onlyFlitsToHolesStop : Obligations.OnlyFlitsToHolesStop :=
  fun c s => ⟨fun _ e => mayStop_of_exec_fault e, exec_ne_refused c s⟩

end Sys2Proof.Machine

/-! ## Settled obligations: signals, the completion record, admin checks and the suspect array (O10, O18, O24, O36) -/

namespace Sys2Proof.Machine

/-! ### An update of a signal (O10) -/

/-- Whether a command waits on a signal that a value ends (R52). -/
def Cmd.endedBy (c : Cmd) (l i v : Nat) : Bool := c.waitsOn l i && c.phase == .running && c.satisfied v

theorem Cmd.endedBy_iff (c : Cmd) (l i v : Nat) :
    c.endedBy l i v = true ↔ c.opcode = 0x0602 ∧ c.lod = l ∧ c.f 16 2 = i ∧ c.phase = .running ∧ c.satisfied v = true := by
  simp [Cmd.endedBy, Cmd.waitsOn, and_assoc]

/-- An update of a signal writes the value, ends the waits that it meets, and beside counts and logs the ones that come too late. -/
theorem State.updateSignal_fields (s : State) (l i : Nat) (u : Nat → Nat) :
    let v := u (s.signal l i) % 2 ^ 64
    let t := s.updateSignal l i u
    t.lods = (s.modLod l (fun x => { x with signals := x.signals.set i v })).lods ∧
    t.cmds = s.cmds.map (fun c => if c.endedBy l i v then { c with phase := .ended, endT := s.now, status := 0, detail := 0, work := v }
      else c) ∧
    t.mem = s.mem ∧ t.pending = s.pending := by
  unfold State.updateSignal
  dsimp only
  split
  · exact ⟨rfl, rfl, rfl, rfl⟩
  · exact ⟨rfl, rfl, rfl, rfl⟩

theorem State.signal_of_lods {s t : State} (h : t.lods = s.lods) (m j : Nat) : t.signal m j = s.signal m j := by
  simp only [State.signal, State.lod, h]

theorem State.modLod_signal_self (s : State) (l i v : Nat) :
    (s.modLod l (fun x => { x with signals := x.signals.set i v })).signal l i = v := by
  simp [State.signal]

theorem State.modLod_signal_ne (s : State) {l i m j : Nat} (v : Nat) (h : m ≠ l ∨ j ≠ i) :
    (s.modLod l (fun x => { x with signals := x.signals.set i v })).signal m j = s.signal m j := by
  by_cases hm : m = l
  · subst hm
    have hj : j ≠ i := h.resolve_left (· rfl)
    simp [State.signal, Tab.get_set_ne _ hj]
  · simp [State.signal, State.modLod_lod_ne _ _ hm]

/-- Settles O10: the update is a write of one signal and a map over the commands. -/
theorem signalUpdates : Obligations.SignalUpdates := by
  intro s l i u v t
  obtain ⟨hlods, hcmds, hmem, hpending⟩ := s.updateSignal_fields l i u
  refine ⟨?_, fun m j h => ?_, ?_, fun k c hc => ?_, hmem, hpending⟩
  · rw [State.signal_of_lods hlods, State.modLod_signal_self]
  · rw [State.signal_of_lods hlods, State.modLod_signal_ne _ _ h]
  · rw [hcmds, List.length_map]
  · rw [← Cmd.endedBy_iff, hcmds, List.getElem?_map, hc]
    exact ⟨fun h => congrArg some (if_pos h), fun h => congrArg some (if_neg h)⟩

/-! ### Bytes, least significant first, and the completion record (O18) -/

@[simp] theorem leBytes_length (n v : Nat) : (leBytes n v).length = n := by
  induction n generalizing v with
  | zero => rfl
  | succ n ih => simp [leBytes, ih]

theorem leNat_leBytes (n v : Nat) : leNat (leBytes n v) = v % 2 ^ (8 * n) := by
  induction n generalizing v with
  | zero => simp [leBytes, leNat, Nat.mod_one]
  | succ n ih =>
    have key : v % 2 ^ (8 * (n + 1)) = v % 256 + 256 * (v / 256 % 2 ^ (8 * n)) := by
      rw [show 8 * (n + 1) = 8 + 8 * n by omega, pow_add, Nat.mod_mul]
      rfl
    simp only [leBytes, leNat, ih, BitVec.toNat_ofNat, key]

/-- A field that lies within the first part of a record. -/
theorem field_append_left {a : List Byte} {off n : Nat} (b : List Byte) (h : off + n ≤ a.length) : field (a ++ b) off n = field a off n := by
  have hd : (a ++ b).drop off = a.drop off ++ b := List.drop_append_of_le_length (by omega)
  have ht : ((a ++ b).drop off).take n = (a.drop off).take n := by
    rw [hd]
    exact List.take_append_of_le_length (by rw [List.length_drop]; omega)
  simp only [field, slice, ht]

/-- The last field of a record. -/
theorem field_append_leBytes {a : List Byte} {off n : Nat} (v : Nat) (h : a.length = off) :
    field (a ++ leBytes n v) off n = v % 2 ^ (8 * n) := by
  subst h
  simp [field, slice, List.take_of_length_le, leNat_leBytes]

/-- Settles O18: each field is the last of the record up to it. -/
theorem completionRecordLayout : Obligations.CompletionRecordLayout := by
  intro seq tag st d start fin work phase r
  have hphase : ofBool phase % 2 ^ (8 * 1) = ofBool phase := by cases phase <;> rfl
  refine ⟨by simp [r, recordBytes], ?seq, ?tag, ?status, ?detail, ?start, ?fin, ?work, ?phase⟩
  case seq =>
    simp only [r, recordBytes, leBytes_length, List.length_append, Nat.reduceAdd, Nat.reduceLeDiff, field_append_left]
    exact field_append_leBytes (a := []) seq rfl
  case phase => rw [← hphase]; exact field_append_leBytes _ (by simp)
  all_goals simp [-List.append_assoc, r, recordBytes, field_append_left, field_append_leBytes]

/-! ### Admin operations (O24) -/

/-- An operation at its first service that a check of R459 refuses. -/
theorem State.serveOp_of_refused {s : State} {fn : Fn} {opcode : Nat} {o : AdminOp} {st : Status} (run : State → AdminOp → State)
    (hready : s.adminReady fn opcode = some o) (hfirst : o.waiting = false) (hcheck : s.adminCheck (fnKey fn) o = some st) :
    s.serveOp fn opcode run = s.decideOp fn o st 0 := by
  simp [State.serveOp, hready, hfirst, hcheck]

/-- An operation at its first service that passes the checks of R459. -/
theorem State.serveOp_of_checked {s : State} {fn : Fn} {opcode : Nat} {o : AdminOp} (run : State → AdminOp → State)
    (hready : s.adminReady fn opcode = some o) (hfirst : o.waiting = false) (hcheck : s.adminCheck (fnKey fn) o = none) :
    s.serveOp fn opcode run = run s o := by
  simp [State.serveOp, hready, hfirst, hcheck]

/-- An operation whose service has begun is not checked again. -/
theorem State.serveOp_of_waiting {s : State} {fn : Fn} {opcode : Nat} {o : AdminOp} (run : State → AdminOp → State)
    (hready : s.adminReady fn opcode = some o) (hwaiting : o.waiting = true) : s.serveOp fn opcode run = run s o := by
  simp [State.serveOp, hready, hwaiting]

/-- The end of an operation, as its mailbox keeps it (R43, R54). -/
def AdminOp.decide (o : AdminOp) (now : Nat) (st : Status) (work : Nat) : AdminOp :=
  { o with decided := true, waiting := false, start := if o.begun then o.start else now, endT := now, status := st.1, detail := st.2,
           work := work }

theorem State.decideOp_of_none_carried {s : State} (h : s.ink.carried = []) (fn : Fn) (o : AdminOp) (st : Status) (work : Nat) :
    s.decideOp fn o st work = s.modMbx fn (fun m => { m with op := m.op.map (·.decide s.now st work) }) := by
  simp only [State.decideOp, h, List.any_nil, Bool.false_eq_true, if_false]
  rfl

theorem State.modMbx_mbx_self (s : State) (fn : Fn) (f : Mailbox → Mailbox) : (s.modMbx fn f).mbx fn = f (s.mbx fn) :=
  Tab.get_mod_self ..

/-- Every admin operation is served under the checks of R459. -/
theorem exec_admin_eq_serveOp (s : State) (fn : Fn) (ans : HostAns) (ok : Bool) (failed : List Nat) :
    ∀ i ∈ [(Instr.lodgingCreate fn ans, 0x0F01), (.lodgingDestroy fn, 0x0F02), (.lodgingReset fn, 0x0F03),
        (.fwUpdate fn ans ok, 0x0F04), (.bistRun fn failed, 0x0F05), (.secureErase fn, 0x0F06), (.contractSet fn ans, 0x0F07),
        (.telemetryRead fn ans, 0x0F08), (.rescueEnter fn, 0x0F09)], ∃ run, exec i.1 s = .next (s.serveOp fn i.2 run) := by
  simp only [List.forall_mem_cons]
  exact ⟨⟨_, rfl⟩, ⟨_, rfl⟩, ⟨_, rfl⟩, ⟨_, rfl⟩, ⟨_, rfl⟩, ⟨_, rfl⟩, ⟨_, rfl⟩, ⟨_, rfl⟩, ⟨_, rfl⟩, by simp⟩

/-- Settles O24: a refused operation only writes its mailbox's operation. -/
theorem adminOperationsAreChecked : Obligations.AdminOperationsAreChecked := by
  intro s fn ans ok failed o st hcarried i hi hready hfirst hcheck
  obtain ⟨run, e⟩ := exec_admin_eq_serveOp s fn ans ok failed i hi
  rw [State.serveOp_of_refused run hready hfirst hcheck, State.decideOp_of_none_carried hcarried] at e
  exact ⟨_, e, rfl, by rw [State.modMbx_mbx_self]; rfl, by rw [State.modMbx_mbx_self], by rw [State.modMbx_mbx_self]⟩

/-! ### A suspect array (O36) -/

@[simp] theorem State.setRun_core_self (s : State) (col : Nat) (r : CoreRun) : (s.setRun col r).core col = { s.core col with run := r } :=
  State.modCore_core_self ..

@[simp] theorem State.setRun_arrays (s : State) (col : Nat) (r : CoreRun) : (s.setRun col r).arrays col = s.arrays col := by
  simp [State.arrays]

@[simp] theorem State.askTakeover_cores (s : State) (t : Takeover) : (s.askTakeover t).cores = s.cores := by
  unfold State.askTakeover
  split
  · rfl
  · rfl

@[simp] theorem State.askTakeover_mxaSuspected (s : State) (t : Takeover) : (s.askTakeover t).mxaSuspected = s.mxaSuspected := by
  unfold State.askTakeover
  split
  · rfl
  · rfl

theorem State.askCore_queued (s : State) (col : Nat) : (s.askCore col).rel.queue.any (fun x => x.kind == .core && x.place == col) = true := by
  unfold State.askCore State.askTakeover
  split
  next h =>
    obtain ⟨x, hx, e⟩ := List.any_eq_true.mp h
    simp only [Bool.and_eq_true] at e
    exact List.any_eq_true.mpr ⟨x, hx, by simp [e]⟩
  next => simp

/-- The machine with the array recorded as suspect, before its column's unit is placed anew (R95). -/
def State.markSuspect (s : State) (col array : Nat) (u : MatUnit) : State :=
  let s := s.modCore col (fun c => { c with suspect := c.suspect ||| 2 ^ array })
  let s := { s with mxaSuspected := s.mxaSuspected.incr (stackOf col) 1 }
  let ids := s.idsOf u.key.cmd
  ((s.log (s.physCore col) 0x03 array ids.1 ids.2).modCmd u.key.cmd (fun c => c.suspectNotice (arrayDetail col array))).askCore col

/-- The unit with its failed chunk on the lowest array left and its others dealt over the arrays left. -/
def MatUnit.redeal (u : MatUnit) (ch : Chunk) (lo : Nat) (rest : List Nat) : MatUnit :=
  ((u.put { ch with failed := none }).place (lo :: rest)).put { ch with failed := none, array := lo }

theorem State.suspectArray_of_none_left {s : State} {col array : Nat} {u : MatUnit} {ch : Chunk}
    (h : (s.markSuspect col array u).arrays col = []) : s.suspectArray col array u ch = (s.markSuspect col array u).setRun col .idle := by
  have key : s.suspectArray col array u ch = match (s.markSuspect col array u).arrays col with
      | [] => (s.markSuspect col array u).setRun col .idle
      | lo :: rest => (s.markSuspect col array u).setRun col (.mat (u.redeal ch lo rest)) := rfl
  rw [key, h]

theorem State.suspectArray_of_left {s : State} {col array lo : Nat} {rest : List Nat} {u : MatUnit} {ch : Chunk}
    (h : (s.markSuspect col array u).arrays col = lo :: rest) :
    s.suspectArray col array u ch = (s.markSuspect col array u).setRun col (.mat (u.redeal ch lo rest)) := by
  have key : s.suspectArray col array u ch = match (s.markSuspect col array u).arrays col with
      | [] => (s.markSuspect col array u).setRun col .idle
      | lo :: rest => (s.markSuspect col array u).setRun col (.mat (u.redeal ch lo rest)) := rfl
  rw [key, h]

/-- Whatever the unit does next, the column runs on the machine with the array recorded. -/
theorem State.suspectArray_eq_setRun (s : State) (col array : Nat) (u : MatUnit) (ch : Chunk) :
    ∃ r, s.suspectArray col array u ch = (s.markSuspect col array u).setRun col r := by
  cases h : (s.markSuspect col array u).arrays col with
  | nil => exact ⟨_, State.suspectArray_of_none_left h⟩
  | cons lo rest => exact ⟨_, State.suspectArray_of_left h⟩

theorem State.markSuspect_core (s : State) (col array : Nat) (u : MatUnit) :
    (s.markSuspect col array u).core col = { s.core col with suspect := (s.core col).suspect ||| 2 ^ array } := by
  have h : (s.markSuspect col array u).cores = (s.modCore col (fun c => { c with suspect := c.suspect ||| 2 ^ array })).cores := by
    simp [State.markSuspect, State.askCore]
  rw [State.core, h]
  exact State.modCore_core_self ..

theorem State.markSuspect_mxaSuspected (s : State) (col array : Nat) (u : MatUnit) :
    (s.markSuspect col array u).mxaSuspected = s.mxaSuspected.incr (stackOf col) 1 := by
  simp [State.markSuspect, State.askCore]

theorem bit_or_two_pow (v i : Nat) : bit (v ||| 2 ^ i) i = true := by
  have h := Nat.testBit_or v (2 ^ i) i
  rw [Nat.testBit_two_pow_self, Bool.or_true, Nat.testBit_eq_decide_div_mod_eq] at h
  simpa [bit] using h

theorem State.markSuspect_array_left {s : State} {col array a : Nat} {u : MatUnit} (h : a ∈ (s.markSuspect col array u).arrays col) :
    a ≠ array := by
  rintro rfl
  simp [State.arrays, State.markSuspect_core, bit_or_two_pow] at h

/-- The chunks of a unit dealt anew: the failed one on the lowest array left, one that awaits a recomputation elsewhere where it was, and
any other on an array left by its position. -/
theorem MatUnit.mem_redeal {u : MatUnit} {ch c : Chunk} {lo : Nat} {rest : List Nat} (h : c ∈ (u.redeal ch lo rest).chunks) :
    c = { ch with failed := none, array := lo } ∨
    (c ∈ u.chunks ∧ c.failed.isSome = true ∧ c.j ≠ ch.j) ∨
    (c.failed = none ∧ c.j ≠ ch.j ∧ (lo :: rest)[c.j % (rest.length + 1)]? = some c.array) := by
  simp only [MatUnit.redeal, MatUnit.put, MatUnit.place, List.map_map, List.mem_map, Function.comp_apply] at h
  obtain ⟨d, hd, rfl⟩ := h
  by_cases hj : d.j = ch.j
  · left
    simp [hj]
  · right
    cases hf : d.failed with
    | some a => exact .inl (by simp [hj, hf, hd])
    | none =>
      have hlt : d.j % (rest.length + 1) < (lo :: rest).length := Nat.mod_lt _ (Nat.succ_pos _)
      exact .inr (by simp [hj, hf, List.getElem?_eq_getElem hlt])

/-- Settles O36: the array is recorded first, so none of the arrays left is the suspect one. -/
theorem suspectArrayTakesNoMoreWork : Obligations.SuspectArrayTakesNoMoreWork := by
  intro s col array u ch harray hothers t
  obtain ⟨r, e⟩ := s.suspectArray_eq_setRun col array u ch
  refine ⟨?_, ?_, ?_, fun v lo rest hleft hrun c hc => ?_⟩
  · simp [t, e, State.markSuspect_core]
  · have hm : t.mxaSuspected = s.mxaSuspected.incr (stackOf col) 1 := by rw [show t = _ from e]; exact s.markSuspect_mxaSuspected col array u
    rw [hm]
    exact Tab.get_set_self ..
  · rw [show t = _ from e]
    exact State.askCore_queued _ col
  · have hleft' : (s.markSuspect col array u).arrays col = lo :: rest := by
      rw [show t = _ from e, State.setRun_arrays] at hleft
      exact hleft
    have hv : v = u.redeal ch lo rest := by
      rw [show t = _ from State.suspectArray_of_left hleft', State.setRun_core_self] at hrun
      exact (CoreRun.mat.inj hrun).symm
    have hne : ∀ a ∈ lo :: rest, a ≠ array := fun a ha => State.markSuspect_array_left (hleft' ▸ ha)
    rw [hv] at hc
    rcases MatUnit.mem_redeal hc with rfl | ⟨hmem, hf, hj⟩ | ⟨hf, hj, hat⟩
    · exact ⟨hne lo List.mem_cons_self, fun _ => ⟨rfl, rfl⟩, fun hj => absurd rfl hj⟩
    · exact ⟨(hothers c hmem hf).resolve_left hj, fun h => absurd h hj, fun _ h => by simp [h] at hf⟩
    · exact ⟨hne _ (List.mem_of_getElem? hat), fun h => absurd h hj, fun _ _ => hat⟩

end Sys2Proof.Machine

/-! ## Settled obligations: the step, galley commands, galleys and admin operations (O1, O2, O9, O11–O17, O19, O20, O22, O25, O27, O28) -/

namespace Sys2Proof.Machine

/-! ### The step (O1, O2) -/

/-- Settles O1: a step takes the command at the front and executes it with the rest in the queue. -/
theorem stepRunsFrontCommand : Obligations.StepRunsFrontCommand := fun _ _ => rfl

/-- Settles O2: with no request waiting the Innkeeper has nothing to answer, and the time base counts. -/
theorem emptyQueueCountsOneNanosecond : Obligations.EmptyQueueCountsOneNanosecond := by
  intro s hpending hreplies himages
  have key : step s = .next s.serveRequests.tick := by
    unfold step
    rw [hpending]
  rw [key, State.serveRequests_none s hreplies himages]
  rfl

/-! ### What each command does when it starts (02, R40) -/

section
variable {s f : State} {lod g : Nat} {c : Cmd} {ans : HostAns}

@[simp] theorem State.started_opcode (f : State) (c : Cmd) : (f.started c).opcode = c.opcode := by
  rw [State.started_eq]

/-- A galley command that its porter fetches and that may start runs its operator, and every porter goes on dispatching. -/
theorem exec_of_fetched {i : Instr} {code : Nat} (hi : exec i s = .next (s.fetchRow lod g (· == code) ans))
    (h : s.fetchNext lod g ans = some (c, f)) (hcode : c.opcode = code) :
    exec i s = .next (((f.begun c).startEffect (f.started c) ans).startAll ans) :=
  hi.trans (congrArg Host.Outcome.next (State.fetchRow_of_fetchNext h (beq_iff_eq.mpr hcode)))

theorem State.startEffect_nop (h : c.opcode = 0x0000) : s.startEffect c ans = s.finish c.id 0 := by
  simp only [State.startEffect, h]

theorem State.startEffect_matrix (h : c.opcode ∈ [0x0101, 0x0102, 0x0103, 0x0104, 0x0120]) : s.startEffect c ans = s.startMat c := by
  simp only [List.mem_cons, List.not_mem_nil, or_false] at h
  rcases h with h | h | h | h | h <;> simp only [State.startEffect, h]

theorem State.startEffect_attention (h : c.opcode ∈ [0x0201, 0x0202, 0x0203]) : s.startEffect c ans = s.startAttn c := by
  simp only [List.mem_cons, List.not_mem_nil, or_false] at h
  rcases h with h | h | h <;> simp only [State.startEffect, h]

theorem State.startEffect_kvAppend (h : c.opcode = 0x0204) : s.startEffect c ans = s.startAppend c ans := by
  simp only [State.startEffect, h]

theorem State.startEffect_kernelLaunch (h : c.opcode = 0x0301) : s.startEffect c ans = s.startLaunch c := by
  simp only [State.startEffect, h]

theorem State.startEffect_copies (h : c.opcode ∈ [0x0401, 0x0402, 0x0403]) : s.startEffect c ans = s.startCopy c := by
  simp only [List.mem_cons, List.not_mem_nil, or_false] at h
  rcases h with h | h | h <;> simp only [State.startEffect, h]

theorem State.startEffect_reducePush (h : c.opcode = 0x0501) : s.startEffect c ans = s.startPush c ans := by
  simp only [State.startEffect, h]

theorem State.startEffect_epochFlush (h : c.opcode = 0x0502) : s.startEffect c ans = s.startFlush c := by
  simp only [State.startEffect, h]

theorem State.startEffect_epochInvalidate (h : c.opcode = 0x0503) : s.startEffect c ans = s.startInvalidate c := by
  simp only [State.startEffect, h]

theorem State.startEffect_signalWrite (h : c.opcode = 0x0601) : s.startEffect c ans = s.startSignalWrite c := by
  simp only [State.startEffect, h]

theorem State.startEffect_signalWait (h : c.opcode = 0x0602) : s.startEffect c ans = s.startSignalWait c := by
  simp only [State.startEffect, h]

theorem State.startEffect_map (h : c.opcode = 0x0701) : s.startEffect c ans = s.startMap c := by
  simp only [State.startEffect, h]

theorem State.startEffect_unmap (h : c.opcode = 0x0702) : s.startEffect c ans = s.startUnmap c := by
  simp only [State.startEffect, h]

theorem State.startEffect_digestRead (h : c.opcode = 0x0801) : s.startEffect c ans = s.startDigestRead c := by
  simp only [State.startEffect, h]

theorem State.startEffect_traceMark (h : c.opcode = 0x0E01) : s.startEffect c ans = s.startTraceMark c := by
  simp only [State.startEffect, h]

end

/-! ### NOP and the signal commands (O9) -/

theorem State.startSignalWrite_own {s : State} {c : Cmd} (h : bit (c.f 19 1) 0 = false) :
    s.startSignalWrite c = (s.updateSignal c.lod (c.f 16 2) (signalOp (c.f 18 1) (c.f 24 8))).finish c.id 0 := by
  simp [State.startSignalWrite, h]

theorem State.startSignalWrite_remote {s : State} {c : Cmd} (h : bit (c.f 19 1) 0 = true) : s.startSignalWrite c = s.sendSignal c := by
  simp [State.startSignalWrite, h]

theorem State.startSignalWait_met {s : State} {c : Cmd} (h : c.satisfied (s.signal c.lod (c.f 16 2)) = true) :
    s.startSignalWait c = s.finish c.id (s.signal c.lod (c.f 16 2)) := by
  simp [State.startSignalWait, h]

theorem State.startSignalWait_at_once {s : State} {c : Cmd} (h : c.satisfied (s.signal c.lod (c.f 16 2)) = false) (ht : c.f 32 4 = 0) :
    s.startSignalWait c = (s.modCmd c.id (fun x => { x with work := s.signal c.lod (c.f 16 2) })).endWith c.id 0x0400 0 := by
  simp [State.startSignalWait, h, ht]

theorem State.startSignalWait_stays {s : State} {c : Cmd} (h : c.satisfied (s.signal c.lod (c.f 16 2)) = false) (ht : c.f 32 4 ≠ 0) :
    s.startSignalWait c = s := by
  simp [State.startSignalWait, h, ht]

/-- Settles O9: the operator of each opcode, in the case that its packet and the signal select. -/
theorem nopAndSignalCommandsRun : Obligations.NopAndSignalCommandsRun := by
  intro s f lod g c h x b v
  have write (hc : c.opcode = 0x0601) : exec (.signalWrite lod g) s = .next ((b.startSignalWrite x).startAll .data) := by
    rw [exec_of_fetched rfl h hc, State.startEffect_signalWrite ((f.started_opcode c).trans hc)]
  have wait (hc : c.opcode = 0x0602) : exec (.signalWait lod g) s = .next ((b.startSignalWait x).startAll .data) := by
    rw [exec_of_fetched rfl h hc, State.startEffect_signalWait ((f.started_opcode c).trans hc)]
  refine ⟨fun hc => ?_, fun hc hown => ?_, fun hc hremote => ?_, fun hc hmet => ?_, fun hc hunmet ht => ?_, fun hc hunmet ht => ?_⟩
  · rw [exec_of_fetched rfl h hc, State.startEffect_nop ((f.started_opcode c).trans hc)]
  · rw [write hc, State.startSignalWrite_own hown]
  · rw [write hc, State.startSignalWrite_remote hremote]
  · rw [wait hc, State.startSignalWait_met hmet]
  · rw [wait hc, State.startSignalWait_at_once hunmet ht]
  · rw [wait hc, State.startSignalWait_stays hunmet ht]

/-! ### The matrix commands (O11) -/

/-- The operator that a matrix command records: its parameters and products, nothing written yet (04, R98). -/
def Cmd.matOp (c : Cmd) (es : List GemmEntry) : MatOp :=
  { cmd := c.id, lod := c.lod, par := gemmParams c, entries := es, parts := [], totals := [], written := [], passes := 0, saturated := 0,
    elems := [] }

theorem State.startMat_of_packet {s : State} {c : Cmd} (h : c.opcode ≠ 0x0102) :
    s.startMat c = ({ s with mats := s.mats ++ [c.matOp [gemmEntry c]] } : State).finishMat c.id := by
  simp only [State.startMat, gemmEntries, if_neg h]
  rfl

theorem State.startMat_of_grouped {s : State} {c : Cmd} (h : c.opcode = 0x0102) :
    s.startMat c = ({ s with mats := s.mats ++
      [c.matOp (c.readPoison.zipIdx.map (fun y => groupEntry (slice c.read (128 * y.2) 128) y.1))] } : State).finishMat c.id := by
  simp only [State.startMat, gemmEntries, if_pos h]
  rfl

theorem State.started_readPoison (f : State) (c : Cmd) : (f.started c).readPoison = c.readPoison := by
  rw [State.started_eq]

theorem State.started_read (f : State) (c : Cmd) : (f.started c).read = c.read := by
  rw [State.started_eq]

/-- Settles O11: all five opcodes start one matrix operator; only the group table's entries come from what the check has read. -/
theorem matrixCommandsStart : Obligations.MatrixCommandsStart := by
  intro s f lod g c ans x b op go
  have hx : x.opcode = c.opcode := f.started_opcode c
  have start {i code ans} (hi : exec i s = .next (s.fetchRow lod g (· == code) ans)) (h : s.fetchNext lod g ans = some (c, f))
      (hc : c.opcode = code) (hm : code ∈ [0x0101, 0x0102, 0x0103, 0x0104, 0x0120]) : exec i s = .next ((b.startMat x).startAll ans) := by
    rw [exec_of_fetched hi h hc, State.startEffect_matrix (by rwa [f.started_opcode, hc])]
  refine ⟨fun h i hi hc => ?_, fun h hc => ?_⟩
  · have one (hne : c.opcode ≠ 0x0102) : b.startMat x = go [gemmEntry x] := State.startMat_of_packet (by rwa [hx])
    simp only [List.mem_cons, List.not_mem_nil, or_false] at hi
    rcases hi with rfl | rfl | rfl | rfl <;> rw [← one (by simp [hc])] <;> exact start rfl h hc (by simp)
  · rw [start rfl h hc (by simp), State.startMat_of_grouped (hx.trans hc), f.started_readPoison, f.started_read]
    rfl

/-! ### The attention commands (O12) -/

/-- An append whose sequences hold no token ends at once (06, R161). -/
theorem State.startAppend_of_no_steps {s : State} {c : Cmd} (ans : HostAns) (hnew : s.attn? c.id = none)
    (hnone : (attnParams c).appendSteps c.attnOp.seqs = []) :
    s.startAppend c ans = (((({ s with attns := s.attns ++ [c.attnOp] } : State).noteSequences c.attnOp).modCmd c.id
      (fun x => { x with issued := true })).finish c.id 0) := by
  have hfind : ({ s with attns := s.attns ++ [c.attnOp] } : State).attn? c.id = some c.attnOp := by
    unfold State.attn? at hnew ⊢
    simp [List.find?_append, hnew, Cmd.attnOp]
  have hsteps : (c.attnOp.par.appendSteps c.attnOp.seqs).drop c.attnOp.appended = [] := by
    rw [show c.attnOp.par = attnParams c from rfl, hnone, List.drop_nil]
  unfold State.startAppend
  simp only [hnew, hfind, hsteps, State.appendRun]
  rfl

/-- Settles O12: three opcodes record the operator that the packet and the table give; KV_APPEND goes through its steps, of which there may
be none. -/
theorem attentionCommandsStart : Obligations.AttentionCommandsStart := by
  intro s f lod g c ans h x b p op r
  have hx : x.opcode = c.opcode := f.started_opcode c
  have hop : x.attnOp = op := by
    unfold Cmd.attnOp
    rw [f.started_readPoison, f.started_read]
  have hrun : b.startAttn x = r.finishAttn x.id := by rw [State.startAttn, hop]
  have append (hc : c.opcode = 0x0204) : exec (.kvAppend lod g ans) s = .next ((b.startAppend x ans).startAll ans) := by
    rw [exec_of_fetched rfl h hc, State.startEffect_kvAppend (hx.trans hc)]
  refine ⟨fun i hi hc => ?_, append, fun hc hnew hnone => ?_⟩
  · have start {i code} (hi : exec i s = .next (s.fetchRow lod g (· == code) ans)) (hc : c.opcode = code)
        (hm : code ∈ [0x0201, 0x0202, 0x0203]) : exec i s = .next ((r.finishAttn x.id).startAll ans) := by
      rw [exec_of_fetched hi h hc, State.startEffect_attention (by rwa [f.started_opcode, hc]), hrun]
    simp only [List.mem_cons, List.not_mem_nil, or_false] at hi
    rcases hi with rfl | rfl | rfl <;> exact start rfl hc (by simp)
  · rw [append hc, State.startAppend_of_no_steps ans hnew (by rwa [hop]), hop]

/-! ### KERNEL_LAUNCH and the copies (O13) -/

/-- A launch of no block ends at once with no work (03, R79). -/
theorem State.settleLaunch_of_empty {s : State} {l : Launch} (hnew : s.launch? l.cmd = none) (hempty : l.total = 0) (hnext : l.next = 0)
    (hblocks : s.blocks.any (fun y => y.cmd == l.cmd) = false) :
    ({ s with launches := s.launches ++ [l] } : State).settleLaunch l.cmd =
      ({ s with launches := s.launches ++ [l] } : State).finish l.cmd l.normal := by
  have hfind : ({ s with launches := s.launches ++ [l] } : State).launch? l.cmd = some l := by
    unfold State.launch? at hnew ⊢
    simp [List.find?_append, hnew]
  unfold State.settleLaunch
  simp only [hfind, hblocks, hempty, hnext]
  simp

/-- Settles O13: the launch and the copies are recorded, and then settled; an empty launch settles at once. -/
theorem launchAndCopyCommandsStart : Obligations.LaunchAndCopyCommandsStart := by
  intro s f lod g c x b r
  have hx : x.opcode = c.opcode := f.started_opcode c
  have launch (ans) (h : s.fetchNext lod g ans = some (c, f)) (hc : c.opcode = 0x0301) :
      exec (.kernelLaunch lod g ans) s = .next ((r.settleLaunch x.id).startAll ans) := by
    rw [exec_of_fetched rfl h hc, State.startEffect_kernelLaunch (hx.trans hc), State.startLaunch, f.started_read]
  refine ⟨launch, fun ans h hc hnew hempty hblocks => ?_, fun h i hi hc => ?_⟩
  · rw [launch ans h hc]
    exact congrArg (fun u : State => Host.Outcome.next (u.startAll ans))
      (State.settleLaunch_of_empty (s := b) (l := launchOf x c.read) hnew hempty rfl hblocks)
  · intro op d
    have copy : b.startCopy x = (d.dealSegments x.id (d.cmdChannels x.lod x.stack)).settleCopy x.id := by
      unfold State.startCopy
      rw [hx, hc]
      rfl
    rw [← copy]
    have start {i code} (hi : exec i s = .next (s.fetchRow lod g (· == code) .data)) (hc : c.opcode = code)
        (hm : code ∈ [0x0401, 0x0402, 0x0403]) : exec i s = .next ((b.startCopy x).startAll .data) := by
      rw [exec_of_fetched hi h hc, State.startEffect_copies (by rwa [f.started_opcode, hc])]
    simp only [List.mem_cons, List.not_mem_nil, or_false] at hi
    rcases hi with rfl | rfl | rfl <;> exact start rfl hc (by simp)

/-! ### Reductions and epochs (O14) -/

theorem State.startPush_of_none {s : State} {c : Cmd} (ans : HostAns) (h : c.f 32 8 = 0) : s.startPush c ans = s.finish c.id 0 := by
  simp [State.startPush, h]

theorem State.startPush_of_region {s : State} {c : Cmd} {m : Mapping} {r : Region} {d : Nat} (ans : HostAns) (h : c.f 32 8 ≠ 0)
    (hmap : (s.lod c.lod).mapping? (c.f 24 8) = some m) (hregion : m.region = some d) (hred : m.reduction = some r) :
    s.startPush c ans =
      (s.modCmd c.id (fun y => { y with issued := true })).pushElems c r d ans c.work (c.f 32 8 - c.work) := by
  simp [State.startPush, h, hmap, hregion, hred]

/-- Settles O14: the operator of each opcode is what the statement writes out; a push depends on its count and its region. -/
theorem reductionAndEpochCommandsRun : Obligations.ReductionAndEpochCommandsRun := by
  intro s f lod g c x b
  have hx : x.opcode = c.opcode := f.started_opcode c
  refine ⟨fun ans h hc hzero => ?_, fun ans m r d h hc hcount hmap hregion hred => ?_, fun h hc => ?_, fun h hc => ?_⟩
  · rw [exec_of_fetched rfl h hc, State.startEffect_reducePush (hx.trans hc), State.startPush_of_none ans hzero]
  · rw [exec_of_fetched rfl h hc, State.startEffect_reducePush (hx.trans hc), State.startPush_of_region ans hcount hmap hregion hred]
  · rw [exec_of_fetched rfl h hc, State.startEffect_epochFlush (hx.trans hc)]
    rfl
  · rw [exec_of_fetched rfl h hc, State.startEffect_epochInvalidate (hx.trans hc)]
    rfl

/-! ### Mappings and records (O15) -/

theorem State.startDigestRead_of_none {s : State} {c : Cmd}
    (h : (s.lod c.lod).digests.reverse.find? (fun r => field r 4 2 == c.f 24 2 % 1024 && field r 0 4 == c.f 28 4) = none) :
    s.startDigestRead c = s.finish c.id 0 := by
  simp only [State.startDigestRead, h]

theorem State.startDigestRead_of_found {s w : State} {c : Cmd} {r : List Byte} {k : Nat}
    (h : (s.lod c.lod).digests.reverse.find? (fun r => field r 4 2 == c.f 24 2 % 1024 && field r 0 4 == c.f 28 4) = some r)
    (hw : s.vwrite c.lod (c.f 16 8) 0 r false (some c.id) c.ids = .ok w k) :
    s.startDigestRead c = (w.modCmd c.id (fun y => { y with acks := y.acks + k, issued := true })).finish c.id 1 := by
  simp only [State.startDigestRead, h, hw]

/-- Settles O15: the operator of each opcode is what the statement writes out; a digest read depends on the record that it finds. -/
theorem mapAndRecordCommandsRun : Obligations.MapAndRecordCommandsRun := by
  intro s f lod g c x b m rec'
  have hx : x.opcode = c.opcode := f.started_opcode c
  refine ⟨fun ans u left h hc hmap => ?_, fun h hc => ?_, fun h hc hnone => ?_, fun r w k h hc hfound hw => ?_, fun h hc => ?_⟩
  · have map : b.startMap x = (if left then u.noticeCmd x.id 0x0104 0 else u).finish x.id (m.len / pageBytes m.pageSize) := by
      rw [State.startMap, f.started_read, hmap]
    rw [exec_of_fetched rfl h hc, State.startEffect_map (hx.trans hc), map]
  · rw [exec_of_fetched rfl h hc, State.startEffect_unmap (hx.trans hc)]
    rfl
  · rw [exec_of_fetched rfl h hc, State.startEffect_digestRead (hx.trans hc), State.startDigestRead_of_none hnone]
  · rw [exec_of_fetched rfl h hc, State.startEffect_digestRead (hx.trans hc), State.startDigestRead_of_found hfound hw]
  · rw [exec_of_fetched rfl h hc, State.startEffect_traceMark (hx.trans hc)]
    rfl

/-! ### Packets that never run (O16) -/

theorem exec_badOpcode (s : State) (lod g : Nat) : exec (.badOpcode lod g) s = execBadOpcode lod g s := rfl

theorem exec_adminInGalley (s : State) (lod g : Nat) : exec (.adminInGalley lod g) s = execAdminInGalley lod g s := rfl

theorem exec_poisonedPacket (s : State) (lod g k : Nat) (ans : HostAns) :
    exec (.poisonedPacket lod g k ans) s = execPoisonedPacket lod g k ans s := rfl

theorem exec_ringSlotReadFault (s : State) (lod g k : Nat) (unsupported : Bool) :
    exec (.ringSlotReadFault lod g k unsupported) s = execRingSlotReadFault lod g k unsupported s := rfl

theorem opcodeBad_of_admin {op : Nat} (h : adminOpcode op = true) : opcodeBad op = some (0x0203, op % 256) := by
  have hrange : 0x0F01 ≤ op ∧ op ≤ 0x0F09 := by simpa [adminOpcode] using h
  have hnot : op ∉ galleyOpcodes := by
    intro hmem
    simp only [galleyOpcodes, List.mem_cons, List.not_mem_nil, or_false] at hmem
    omega
  simp [opcodeBad, hnot, h]

theorem opcodeBad_of_unknown {op : Nat} (hgalley : galleyOpcodes.contains op = false) (hadmin : adminOpcode op = false) :
    opcodeBad op = some (0x0200, 0) := by
  simp only [opcodeBad, hgalley, hadmin]
  rfl

section
variable {s t : State} {lod g used : Nat} {p : Porter} {b : List Byte} {bad : Option Nat}

/-- A packet that a porter fetches with an opcode that no galley accepts ends at fetch (R37). -/
theorem State.fetchRow_of_opcodeBad {st : Status} {want : Nat → Bool} (hg : s.grantFetch lod g = some p)
    (hc : s.chain lod g = (t, .packets b used bad)) (hw : want (t.newCmd lod g b used).opcode = true)
    (hbad : opcodeBad (t.newCmd lod g b used).opcode = some st) :
    s.fetchRow lod g want .data = t.refusedAtFetch p (t.newCmd lod g b used) st.1 st.2 used :=
  State.fetchRow_of_packetBad hg hc hw (State.packetBad_of_opcodeBad bad hbad)

theorem execPoisonedPacket_of_host {k : Nat} {ans : HostAns} (hg : s.grantFetch lod g = some p) (hans : hostPoisons ans = true)
    (hslot : s.hostSlot lod g k = true) :
    execPoisonedPacket lod g k ans s =
      .next (((s.chain lod g).1.logHost lod ans).poisonStop lod g p ((s.chain lod g).2.bytes.take (64 * (k + 1))) (k + 1)) := by
  unfold execPoisonedPacket
  generalize s.chain lod g = r
  rw [hg]
  dsimp only
  rw [hans, hslot]
  exact if_pos rfl

theorem execPoisonedPacket_of_slot {k : Nat} {ans : HostAns} (hg : s.grantFetch lod g = some p)
    (hhost : (hostPoisons ans && s.hostSlot lod g k) = false) (hc : s.chain lod g = (t, .poisoned b used)) :
    execPoisonedPacket lod g k ans s = .next (t.poisonStop lod g p b used) := by
  simp only [execPoisonedPacket, hg, hhost, hc, Bool.false_eq_true, if_false]

theorem execRingSlotReadFault_of_host {k : Nat} (hg : s.grantFetch lod g = some p) (hslot : s.hostSlot lod g k = true) :
    execRingSlotReadFault lod g k true s = .next (((((s.chain lod g).1.logHost lod .unsupported).usePorter (s.homePorter lod g) p).stopGalley
      lod g 0x0301 0 none).noteFault lod g 0x0301 0xFFFC) := by
  unfold execRingSlotReadFault
  generalize s.chain lod g = r
  generalize s.hostSlot lod g k = onHost at *
  generalize s.homePorter lod g = home
  subst hslot
  rw [hg]
  rfl

theorem execRingSlotReadFault_of_slot {k st : Nat} {u : Bool} (hg : s.grantFetch lod g = some p) (hhost : (u && s.hostSlot lod g k) = false)
    (hc : s.chain lod g = (t, .fault st b)) : execRingSlotReadFault lod g k u s =
      .next (((t.usePorter (s.homePorter lod g) p).stopGalley lod g st 0 none).noteFault lod g st 0xFFFC) := by
  simp only [execRingSlotReadFault, hg, hhost, hc, Bool.false_eq_true, if_false]

end

/-- Settles O16: the first check of R37 ends a packet whose opcode no galley accepts; a slot poisoned or not read stops its galley. -/
theorem refusedPacketsEnd : Obligations.RefusedPacketsEnd := by
  intro s t lod g used p b bad hg c stop
  refine ⟨fun hc hgalley hadmin => ?_, fun hc hadmin => ?_, fun k ans hc hhost => ?_, fun k ans hans hslot => ?_,
    fun k st u hc hhost => ?_, fun k hslot => ?_⟩
  · have hw : (!galleyOpcodes.contains c.opcode && !adminOpcode c.opcode) = true := by rw [hgalley, hadmin]; rfl
    rw [exec_badOpcode, execBadOpcode, State.fetchRow_of_opcodeBad hg hc hw (opcodeBad_of_unknown hgalley hadmin)]
  · rw [exec_adminInGalley, execAdminInGalley, State.fetchRow_of_opcodeBad hg hc hadmin (opcodeBad_of_admin hadmin)]
  · rw [exec_poisonedPacket, execPoisonedPacket_of_slot hg hhost hc]
  · rw [exec_poisonedPacket, execPoisonedPacket_of_host hg hans hslot]
  · rw [exec_ringSlotReadFault, execRingSlotReadFault_of_slot hg hhost hc]
  · rw [exec_ringSlotReadFault, execRingSlotReadFault_of_host hg hslot]

/-! ### Completion (O17) -/

theorem exec_commandCompletion (s : State) (id : Nat) : exec (.commandCompletion id) s = execCommandCompletion id s := rfl

/-- Settles O17: with nothing awaited the row goes through all its steps. -/
theorem commandCompletionFollowsR44 : Obligations.CommandCompletionFollowsR44 := by
  intro s id c hc hended hacks hnone
  have hgo : ¬(c.phase ≠ .ended ∨ c.acks ≠ 0 ∨ s.awaitsAccesses c = true) := by simp [hended, hacks, hnone]
  rw [exec_commandCompletion, execCommandCompletion]
  simp only [hc, if_neg hgo]

/-! ### Doorbells (O19) -/

theorem exec_galleyDoorbell (s : State) (vf off width value : Nat) (ep : Bool) :
    exec (.galleyDoorbell vf off width value ep) s = execGalleyDoorbell vf off width value ep s := rfl

theorem execGalleyDoorbell_rings {s : State} {vf g value : Nat} (hopen : s.windowOpen vf = true) (hactive : (s.galley vf g).state = .active)
    (hvalue : value < 2 ^ 32) : execGalleyDoorbell vf (8 * g) 8 value false s = .next (s.ring vf g value) := by
  have hg : 8 * g / 8 = g := by omega
  have ho : 8 * g % 8 = 0 := by omega
  have hv : decide (value ≥ 2 ^ 32) = false := decide_eq_false (by omega)
  simp only [execGalleyDoorbell, hopen, hg, ho, hactive, hv]
  rfl

theorem execGalleyDoorbell_drops {s : State} {vf off width value : Nat}
    (h : s.windowOpen vf = false ∨ width ≠ 8 ∨ off % 8 ≠ 0 ∨ 2 ^ 32 ≤ value ∨ (s.galley vf (off / 8)).state ≠ .active) :
    execGalleyDoorbell vf off width value false s = .next (s.dropBell vf) := by
  have hc : (!s.windowOpen vf || width != 8 || off % 8 != 0 || decide (value ≥ 2 ^ 32) || (s.galley vf (off / 8)).state != .active) = true := by
    rcases h with h | h | h | h | h
    case inr.inr.inr.inl => rw [decide_eq_true h]; simp
    all_goals simp [h]
  simp only [execGalleyDoorbell, hc, Bool.false_eq_true, if_false, if_true]

theorem State.dropBell_of_present {s : State} {l : Nat} (h : (s.lod l).state ≠ .absent) :
    s.dropBell l = s.modLod l (fun x => { x with dbDrops := min (x.dbDrops + 1) 65535 }) := by
  rw [State.dropBell, if_neg h]
  rfl

/-- Settles O19: the doorbell table decides by `D` and `D0`; a poisoned write and a dropped one never reach it. -/
theorem galleyDoorbellRings : Obligations.GalleyDoorbellRings := by
  intro s vf g off width value x d d0
  refine ⟨fun hopen hactive hvalue => ?_, fun hpresent h => ?_, rfl⟩
  · have ring (e : State) (he : s.ring vf g value = e) : exec (.galleyDoorbell vf (8 * g) 8 value false) s = .next e := by
      rw [exec_galleyDoorbell, execGalleyDoorbell_rings hopen hactive hvalue, he]
    refine ⟨fun h => ring _ (if_pos h), fun hlo hhi => ring _ ((if_neg (Nat.ne_of_gt hlo)).trans (if_pos ⟨hlo, hhi⟩)),
      fun hne h => ring _ ((if_neg hne).trans (if_neg ?_))⟩
    rintro ⟨hlo, hhi⟩
    rcases h with h | h
    · exact absurd hlo (Nat.lt_asymm h)
    · exact absurd hhi (Nat.not_le_of_lt h)
  · rw [exec_galleyDoorbell, execGalleyDoorbell_drops h, State.dropBell_of_present hpresent]

/-! ### GALLEY_CTRL and the end of a drain (O20) -/

section
variable {s : State} {vf g : Nat}

theorem exec_galleyEnable (s : State) (vf g : Nat) (ans : HostAns) (ep : Bool) :
    exec (.galleyEnable vf g ans ep) s = execGalleyEnable vf g ans ep s := rfl

theorem exec_galleyDisable (s : State) (vf g : Nat) (ep : Bool) : exec (.galleyDisable vf g ep) s = execGalleyDisable vf g ep s := rfl

theorem exec_galleyResume (s : State) (vf g : Nat) (ep : Bool) : exec (.galleyResume vf g ep) s = execGalleyResume vf g ep s := rfl

theorem exec_drainComplete (s : State) (vf g : Nat) : exec (.drainComplete vf g) s = execDrainComplete vf g s := rfl

theorem State.windowOpen_of_active (hactive : (s.lod vf).state = .active) (hmode : s.rel.mode ≠ 2) : s.windowOpen vf = true := by
  simp [State.windowOpen, hactive, hmode]

theorem State.dropCtrl_of_active (h : (s.lod vf).state = .active) :
    s.dropCtrl vf = s.modLod vf (fun y => { y with ctrlDrops := min (y.ctrlDrops + 1) 65535 }) :=
  State.dropCtrl_of_present (by rw [h]; decide)

theorem execGalleyEnable_of_disabled (ans : HostAns) (hopen : s.windowOpen vf = true) (h : (s.galley vf g).state = .disabled) :
    execGalleyEnable vf g ans false s = .next (s.enable vf g ans) := by
  simp [execGalleyEnable, hopen, h]

theorem execGalleyEnable_drops (ans : HostAns) (h : (s.galley vf g).state ≠ .disabled) :
    execGalleyEnable vf g ans false s = .next (s.dropCtrl vf) := by
  simp [execGalleyEnable, h]

theorem State.enable_of_read {u : State} {ans : HostAns} {b : List Byte} (h : s.readDesc vf g ans = (u, .ok b)) :
    s.enable vf g ans =
      let w := u.modGalley vf g (fun x =>
        { x with desc := descOf b, head := field b 24 4, tail := field b 28 4, expectSeq := none, bells := [], enableStop := false })
      if descReserved b then ((w.enableStopped vf g 0x0201).writeBackDesc vf g).raiseGalley vf g
      else if descInvalid b then ((w.enableStopped vf g 0x0202).writeBackDesc vf g).raiseGalley vf g
      else (w.modGalley vf g (fun x => { x with state := .active })).writeBackDesc vf g := by
  simp only [State.enable, h]

theorem execGalleyDisable_of_up (hopen : s.windowOpen vf = true) (h : (s.galley vf g).state = .active ∨ (s.galley vf g).state = .stopped) :
    execGalleyDisable vf g false s = .next ((((s.modGalley vf g (fun x => { x with state := .draining })).abortFetched vf g 0 none).abortWaits
      vf g 0).writeBackDesc vf g) := by
  rcases h with h | h <;> simp [execGalleyDisable, hopen, h]

theorem execGalleyDisable_drops (h : (s.galley vf g).state = .disabled ∨ (s.galley vf g).state = .draining) :
    execGalleyDisable vf g false s = .next (s.dropCtrl vf) := by
  rcases h with h | h <;> simp [execGalleyDisable, h]

theorem execGalleyResume_of_stopped (hopen : s.windowOpen vf = true) (h : (s.galley vf g).state = .stopped)
    (hcheck : (s.galley vf g).enableStop = false) :
    execGalleyResume vf g false s = .next ((s.modGalley vf g (fun x =>
      { x with tail := x.head, errStatus := 0, state := .active, expectSeq := none, bells := [] })).writeBackDesc vf g) := by
  simp [execGalleyResume, hopen, h, hcheck]

theorem execGalleyResume_drops (h : (s.galley vf g).state ≠ .stopped ∨ (s.galley vf g).enableStop = true) :
    execGalleyResume vf g false s = .next (s.dropCtrl vf) := by
  rcases h with h | h <;> simp [execGalleyResume, h]

theorem execDrainComplete_of_idle (h : (s.galley vf g).state = .draining) (hidle : (s.galleyCmds vf g).isEmpty = true) :
    execDrainComplete vf g s =
      .next ((s.modGalley vf g (fun x => { x with state := .disabled, enableStop := false })).writeBackDesc vf g) :=
  if_pos ⟨h, hidle⟩

end

/-- Settles O20: each action is accepted in the states that its table lists, and counted as a drop in the others. -/
theorem galleyControlActions : Obligations.GalleyControlActions := by
  intro s vf g ans hactive hmode st drop
  have hopen := State.windowOpen_of_active hactive hmode
  have hdrop : s.dropCtrl vf = drop := State.dropCtrl_of_active hactive
  refine ⟨fun h u b hread => ?_, fun h => ?_, fun h => ?_, fun h => ?_, fun h hcheck => ?_, fun h => ?_, fun h hidle => ?_⟩
  · rw [exec_galleyEnable, execGalleyEnable_of_disabled ans hopen h, State.enable_of_read hread]
  · rw [exec_galleyEnable, execGalleyEnable_drops ans h, hdrop]
  · rw [exec_galleyDisable, execGalleyDisable_of_up hopen h]
  · rw [exec_galleyDisable, execGalleyDisable_drops h, hdrop]
  · rw [exec_galleyResume, execGalleyResume_of_stopped hopen h hcheck]
  · rw [exec_galleyResume, execGalleyResume_drops h, hdrop]
  · rw [exec_drainComplete, execDrainComplete_of_idle h hidle]

/-! ### The signal area and the timeout of a wait (O22) -/

theorem exec_signalAreaWrite (s : State) (vf off width value : Nat) (ep : Bool) :
    exec (.signalAreaWrite vf off width value ep) s = execSignalAreaWrite vf off width value ep s := rfl

theorem exec_signalWaitTimeout (s : State) (id : Nat) : exec (.signalWaitTimeout id) s = execSignalWaitTimeout id s := rfl

theorem execSignalAreaWrite_of_aligned {s : State} {vf off value : Nat} (hactive : (s.lod vf).state = .active) (halign : off % 8 = 0) :
    execSignalAreaWrite vf off 8 value false s = .next ((s.updateSignal vf ((off - 0x8000) / 8) (fun _ => value)).startAll .data) := by
  simp [execSignalAreaWrite, hactive, halign]

theorem execSignalWaitTimeout_of_expired {s : State} {id : Nat} {c : Cmd} (hc : s.cmd? id = some c) (hop : c.opcode = 0x0602)
    (hrun : c.phase = .running) (hus : c.f 32 4 ≠ 0xFFFFFFFF) (hexpired : s.expired c.start (c.f 32 4 * 1000) = true) :
    execSignalWaitTimeout id s = .next ((s.modCmd id (fun y =>
      { y with phase := .ended, status := 0x0400, detail := 0, endT := lastTick s.now, work := s.signal y.lod (y.f 16 2) })).startAll
      .data) := by
  simp only [execSignalWaitTimeout, hc]
  exact if_pos ⟨hop, hrun, hus, hexpired⟩

/-- Settles O22: a timeout is met where it was at the last tick (R52). -/
theorem hostSignalWriteAndWaitTimeout : Obligations.HostSignalWriteAndWaitTimeout := by
  intro s
  refine ⟨fun vf off value hactive halign => ?_, fun id c hc hop hrun hus hlo hhi => ?_⟩
  · rw [exec_signalAreaWrite, execSignalAreaWrite_of_aligned hactive halign]
  · have hexpired : s.expired c.start (c.f 32 4 * 1000) = true := decide_eq_true ⟨hlo, hhi⟩
    rw [exec_signalWaitTimeout, execSignalWaitTimeout_of_expired hc hop hrun hus hexpired]
    rfl

/-! ### The operations on lodgings (O25) -/

section
variable {s u : State} {fn : Fn} {ans : HostAns} {o : AdminOp} {b : List Byte}

theorem execLodgingCreate_of_checked (hready : s.adminReady fn 0x0F01 = some o) (hfirst : o.waiting = false)
    (hcheck : s.adminCheck (fnKey fn) o = none) (hread : s.adminRead (field o.packet 24 8) 256 ans = (u, .ok b))
    (hvalid : u.contractCheck (adminLodging (fnKey fn) o.packet) b = none) :
    execLodgingCreate fn ans s = .next ((u.createLodging (adminLodging (fnKey fn) o.packet) (contractOf b)).opDone fn o 0) := by
  rw [execLodgingCreate, State.serveOp_of_checked _ hready hfirst hcheck]
  simp only [hread, hvalid]

theorem execContractSet_of_checked (hready : s.adminReady fn 0x0F07 = some o) (hfirst : o.waiting = false)
    (hcheck : s.adminCheck (fnKey fn) o = none) (hread : s.adminRead (field o.packet 24 8) 256 ans = (u, .ok b))
    (hvalid : u.contractCheck (adminLodging (fnKey fn) o.packet) b = none) :
    execContractSet fn ans s = .next ((u.changeContract (adminLodging (fnKey fn) o.packet) (contractOf b)).opDone fn o 0) := by
  rw [execContractSet, State.serveOp_of_checked _ hready hfirst hcheck]
  simp only [hread, hvalid]

end

/-- Settles O25: the first service goes through the checks, a later one does not. -/
theorem lodgingOperationsServe : Obligations.LodgingOperationsServe := by
  intro s fn ans o l
  refine ⟨fun u b hready hfirst hcheck hread hvalid => ?_, fun u b hready hfirst hcheck hread hvalid => ?_,
    fun c u hready hfirst hcheck hcontract hdone => ?_, fun u hready hwaiting hdone => ?_,
    fun u hready hfirst hcheck hdone => ?_, fun u hready hwaiting hdone => ?_⟩
  · exact execLodgingCreate_of_checked hready hfirst hcheck hread hvalid
  · exact execContractSet_of_checked hready hfirst hcheck hread hvalid
  · refine congrArg Host.Outcome.next ((State.serveOp_of_checked _ hready hfirst hcheck).trans ?_)
    simp only [l] at hcontract hdone
    simp only [hfirst, hcontract, hdone, Bool.false_eq_true, if_false]
  · refine congrArg Host.Outcome.next ((State.serveOp_of_waiting _ hready hwaiting).trans ?_)
    simp only [l] at hdone
    simp [hwaiting, hdone]
  · refine congrArg Host.Outcome.next ((State.serveOp_of_checked _ hready hfirst hcheck).trans ?_)
    simp only [l] at hdone ⊢
    simp [hfirst, hdone]
  · refine congrArg Host.Outcome.next ((State.serveOp_of_waiting _ hready hwaiting).trans ?_)
    simp only [l] at hdone
    simp [hwaiting, hdone]

/-! ### The operations on the device (O27) -/

/-- Settles O27: each operation is its service, once the checks have passed. -/
theorem deviceAdminOperationsServe : Obligations.DeviceAdminOperationsServe := by
  intro s fn ans ok failed o hcheck hfirst l len n tele
  refine ⟨fun u b hready hcarried hread => ?_, fun hready => ?_, fun hready => ?_, fun hpf hready hfits => ?_,
    fun m u k hvf hready hwrite => ?_, fun hready => ?_⟩
  · refine congrArg Host.Outcome.next ((State.serveOp_of_checked _ hready hfirst hcheck).trans ?_)
    simp only [len] at hread ⊢
    simp only [hcarried, hread, List.any_nil, Bool.false_eq_true, if_false]
  · exact congrArg Host.Outcome.next (State.serveOp_of_checked _ hready hfirst hcheck)
  · exact congrArg Host.Outcome.next (State.serveOp_of_checked _ hready hfirst hcheck)
  · subst hpf
    refine congrArg Host.Outcome.next ((State.serveOp_of_checked _ hready hfirst hcheck).trans ?_)
    exact if_neg (Nat.not_lt.mpr hfits)
  · subst hvf
    refine congrArg Host.Outcome.next ((State.serveOp_of_checked _ hready hfirst hcheck).trans ?_)
    simp only [tele, l] at hwrite ⊢
    simp [hwrite]
  · exact congrArg Host.Outcome.next (State.serveOp_of_checked _ hready hfirst hcheck)

/-! ### Function Level Reset (O28) -/

theorem exec_functionLevelReset (s : State) (vf : Nat) : exec (.functionLevelReset vf) s = execFunctionLevelReset vf s := rfl

/-- Settles O28: the reset of the MSI-X comes first, and the lodging's state selects what follows. -/
theorem functionLevelResetOfAVf : Obligations.FunctionLevelResetOfAVf := by
  intro s vf t
  have hmsix : t.msixFn vf = MsixFn.reset := Tab.get_set_self ..
  have hlod : t.lod vf = s.lod vf := rfl
  have hexec : exec (.functionLevelReset vf) s = match (t.lod vf).state with
      | .absent => .next t
      | .active => if (t.holder (.lodging vf)).isSome then .next (t.modLod vf (fun x => { x with flrPending := true })) else .next (t.startFlr vf)
      | .resetting => .next (t.carryFlr vf)
      | .destroying => .next (t.carryFlr vf) := rfl
  rw [hlod] at hexec
  refine ⟨fun h => ?_, fun h hheld => ?_, fun h hfree => ?_, fun h => ?_, by rw [hmsix]; rfl, by rw [hmsix]; rfl, fun v => by rw [hmsix]; rfl⟩
  · rw [hexec, h]
  · rw [hexec, h]
    exact if_pos hheld
  · rw [hexec, h]
    exact if_neg (by rw [hfree]; exact Bool.false_ne_true)
  · rcases h with h | h <;> rw [hexec, h]

end Sys2Proof.Machine

/-! ## Settled obligations: reset values and thread groups (O8, O29–O33) -/

namespace Sys2Proof.Machine

/-- Settles O8: every clause is the reset value of a field; a table that nothing has written answers its
default at every index. -/
theorem resetValues : Obligations.ResetValues := by
  unfold Obligations.ResetValues
  refine ⟨rfl, rfl, rfl, rfl, fun l => ⟨rfl, rfl, rfl⟩, fun fn => ⟨rfl, rfl, rfl⟩, ?_, rfl, rfl, rfl, rfl, rfl,
    rfl, rfl, rfl, rfl, rfl, rfl, fun k => ⟨rfl, rfl⟩, fun k => rfl, fun g => ⟨rfl, rfl, rfl, rfl⟩, fun k => rfl,
    fun j => ⟨rfl, rfl⟩, rfl, rfl, rfl, fun k v => ⟨rfl, rfl⟩⟩
  intro d
  show ((Domain.reset d).state = _) ∧ _
  exact ⟨rfl, rfl⟩

/-! ### An instruction whose registers are free (03) -/

section
variable {s : State} {x : Issue} {rs : List Nat} {run : State}

theorem State.whenHeld_of_free (h : x.p.ts.all (fun t => (s.regHolds x t rs).isEmpty) = true) : s.whenHeld x rs run = run := if_pos h

theorem State.whenHeld_of_open (h : x.p.ts.all (fun t => (s.regHolds x t rs).isEmpty) = false) :
    s.whenHeld x rs run = s.block x (fun t => s.regHolds x t rs) := if_neg (by rw [h]; exact Bool.false_ne_true)

end

/-! ### Arithmetic and flow (O29) -/

theorem exec_arithmeticInstruction_of_issue {s : State} {blk grp : Nat} {x : Issue} (h : s.issue blk grp = some x) (op : CoreOp) (spin : Bool) :
    exec (.arithmeticInstruction blk grp op spin) s =
      .next (s.whenHeld x (opRegs op) ((s.arith x op).hint x (spin && op != .wrongPath))) := by
  show execArithmeticInstruction blk grp op spin s = _
  rw [execArithmeticInstruction, h]

theorem exec_arithmeticInstruction_of_free {s : State} {blk grp : Nat} {x : Issue} {op : CoreOp} (h : s.issue blk grp = some x) (spin : Bool)
    (hfree : x.p.ts.all (fun t => (s.regHolds x t (opRegs op)).isEmpty) = true) :
    exec (.arithmeticInstruction blk grp op spin) s = .next ((s.arith x op).hint x (spin && op != .wrongPath)) := by
  rw [exec_arithmeticInstruction_of_issue h, State.whenHeld_of_free hfree]

theorem State.arith_branch_of_poisoned {s : State} {x : Issue} {cond : Nat} (code target next : Nat)
    (h : x.p.ts.any (fun t => (x.thread t).poisoned [cond]) = true) :
    s.arith x (.branch code cond target next) = s.haltIssue x 0x0302 0xFFFE := if_pos h

theorem State.arith_branch_of_clean {s : State} {x : Issue} {cond : Nat} (code target next : Nat)
    (h : x.p.ts.any (fun t => (x.thread t).poisoned [cond]) = false) :
    s.arith x (.branch code cond target next) = (s.commit x true).branchOn x code cond target next :=
  if_neg (by rw [h]; exact Bool.false_ne_true)

/-- Settles O29: with the registers free the operation runs, by its form; an open access that writes one of them blocks. -/
theorem arithmeticAndFlowInstructions : Obligations.ArithmeticAndFlowInstructions := by
  intro s blk grp x spin h c held
  have hint : ∀ op : CoreOp, op ≠ .wrongPath → (spin && op != .wrongPath) = spin := fun op hop => by simp [hop]
  refine ⟨fun code dst srcs next hheld => ?_, fun fmt dst src seed entry m n next hheld => ?_, fun code cond target next hheld hclean => ?_,
    fun code cond target next hheld hpoison => ?_, fun hheld => ?_, fun hheld => ?_, fun op hheld => ?_⟩
  · rw [exec_arithmeticInstruction_of_free h spin hheld, hint _ (by simp)]
    rfl
  · rw [exec_arithmeticInstruction_of_free h spin hheld, hint _ (by simp)]
    rfl
  · rw [exec_arithmeticInstruction_of_free h spin hheld, hint _ (by simp), State.arith_branch_of_clean _ _ _ hclean]
  · rw [exec_arithmeticInstruction_of_free h spin hheld, hint _ (by simp), State.arith_branch_of_poisoned _ _ _ hpoison]
  · rw [exec_arithmeticInstruction_of_free h spin hheld, hint _ (by simp)]
    rfl
  · rw [exec_arithmeticInstruction_of_free h spin hheld, bne_self_eq_false, Bool.and_false]
    rfl
  · rw [exec_arithmeticInstruction_of_issue h, State.whenHeld_of_open hheld]

/-! ### Instructions that order and wait (O30) -/

section
variable {s : State} {blk grp : Nat} {x : Issue}

theorem exec_fence_of_issue (h : s.issue blk grp = some x) (form : FenceForm) (scope : Scope) (next : Nat) (spin : Bool) :
    exec (.fence blk grp form scope next spin) s =
      .next ((x.p.ts.foldl (fun u t => u.fenceBy blk grp t form scope) ((s.commit x true).goOn x next)).hint x spin) := by
  show execFence blk grp form scope next spin s = _
  rw [execFence, h]

theorem exec_barrier_of_issue (h : s.issue blk grp = some x) (creg next : Nat) (spin : Bool) :
    exec (.barrier blk grp creg next spin) s = .next (s.whenHeld x [creg]
      (if x.p.ts.any (fun t => (x.thread t).poisoned [creg]) then s.haltIssue x 0x0302 0xFFFE
       else ((x.p.ts.foldl (fun u t => u.markWrites blk grp t .block)
        ((s.commit x true).modThreads blk grp x.p.ts (fun t => { t with pc := next, wait := .barrier }))).hint x spin).wakeBlock blk)) := by
  show execBarrier blk grp creg next spin s = _
  rw [execBarrier, h]

theorem exec_feederWait_of_issue (h : s.issue blk grp = some x) (counter value next : Nat) (spin : Bool) :
    exec (.feederWait blk grp counter value next spin) s = .next ((((s.commit x true).modThreads blk grp x.p.ts
      (fun t => { t with pc := next, wait := .feeder counter value })).hint x spin).wakeBlock blk) := by
  show execFeederWait blk grp counter value next spin s = _
  rw [execFeederWait, h]

theorem exec_threadExit_of_issue {b : Block} (h : s.issue blk grp = some x)
    (hb : ((s.commit x true).modThreads blk grp x.p.ts (fun t => { t with wait := .exited })).block? blk = some b) :
    exec (.threadExit blk grp) s = .next
      (if b.groups.all (·.over) then ((s.commit x true).modThreads blk grp x.p.ts (fun t => { t with wait := .exited })).endBlock b
       else ((s.commit x true).modThreads blk grp x.p.ts (fun t => { t with wait := .exited })).wakeBlock blk) := by
  show execThreadExit blk grp s = _
  rw [execThreadExit, h]
  simp only [hb]
  split
  · rfl
  · rfl

end

/-- Settles O30: each instruction is its row where the group is issued; a BARRIER looks at its control register first. -/
theorem waitingInstructions : Obligations.WaitingInstructions := by
  intro s blk grp x spin h c on
  refine ⟨fun scope next => exec_fence_of_issue h .release scope next spin, fun scope next => exec_fence_of_issue h .acquire scope next spin,
    fun scope next => exec_fence_of_issue h .full scope next spin, fun creg next hfree hclean => ?_, fun creg next hfree hpoison => ?_,
    fun counter value next => exec_feederWait_of_issue h counter value next spin, fun b hb => exec_threadExit_of_issue h hb⟩
  · rw [exec_barrier_of_issue h, State.whenHeld_of_free hfree, hclean]
    rfl
  · rw [exec_barrier_of_issue h, State.whenHeld_of_free hfree, hpoison]
    rfl

/-! ### Memory instructions (O31) -/

section
variable {s : State} {x : Issue} {a : CoreAcc} {need : Nat} {rs : List Nat} {bad : Option Status} {more : Nat → List Nat} {run : State}

/-- An access that nothing refuses and that awaits nothing runs (03, R74). -/
theorem State.memoryOp_runs (hfree : x.p.ts.all (fun u => (s.regHolds x u (a.areg :: (a.areg + 1) :: rs)).isEmpty) = true)
    (hfault : s.firstFault x a need = none) (hbad : bad = none)
    (hclear : x.p.ts.all (fun u => (s.accHolds x a need u).isEmpty) = true) (hmore : x.p.ts.all (fun u => (more u).isEmpty) = true)
    (hcol : a.scratch = true ∨ s.quiesced x.b.col = false) : s.memoryOp x a need rs bad more run = run := by
  have hopen : x.p.ts.any (fun t => !(s.accHolds x a need t ++ more t).isEmpty) = false := by
    simp only [List.all_eq_true, List.isEmpty_iff] at hclear hmore
    simp only [List.any_eq_false]
    intro t ht
    simp [hclear t ht, hmore t ht]
  have hserves : (!a.scratch && s.quiesced x.b.col) = false := by rcases hcol with h | h <;> simp [h]
  rw [State.memoryOp, State.whenHeld_of_free hfree, hfault, hbad]
  simp only [Option.or_none, hopen, hserves, Bool.false_eq_true, if_false]

/-- An access that alignment, translation or permission refuses halts the group (03, R76). -/
theorem State.memoryOp_refused {f : Status} (hfree : x.p.ts.all (fun u => (s.regHolds x u (a.areg :: (a.areg + 1) :: rs)).isEmpty) = true)
    (hfault : s.firstFault x a need = some f) : s.memoryOp x a need rs bad more run = s.haltIssue x f.1 f.2 := by
  rw [State.memoryOp, State.whenHeld_of_free hfree, hfault]
  rfl

end

section
variable {s t : State} {blk grp : Nat} {x : Issue} {acc : CoreAcc}

theorem exec_coreLoad_of_issue (h : s.issue blk grp = some x) (dst : Nat) :
    exec (.coreLoad blk grp dst acc) s =
      .next (s.memoryOp x acc permRead (regsOf dst acc.size) none (fun _ => []) ((s.loadOp x dst acc).hint x acc.spin)) := by
  show execCoreLoad blk grp dst acc s = _
  rw [execCoreLoad, h]

theorem exec_coreStore_of_issue (h : s.issue blk grp = some x) (src : Nat) :
    exec (.coreStore blk grp src acc) s =
      .next (s.memoryOp x acc permWrite (regsOf src acc.size) none (fun _ => []) ((s.storeOp x src acc).hint x acc.spin)) := by
  show execCoreStore blk grp src acc s = _
  rw [execCoreStore, h]

/-- The arguments of an atomic; in scratch memory a scope wider than the block is the block (07, R180). -/
def atomArgsOf (a : CoreAcc) (dst src cmp : Nat) (op : AtomOp) (order : MemOrder) (scope : Scope) : AtomArgs :=
  { dst := dst, src := src, cmp := cmp, op := op, order := order, scope := if a.scratch ∧ scope ≠ .group then .block else scope }

theorem exec_coreAtomic_of_width (h : s.issue blk grp = some x) (dst src cmp : Nat) {op : AtomOp} (order : MemOrder) (scope : Scope)
    (hwidth : (atomWidths op).contains acc.size = true) :
    exec (.coreAtomic blk grp dst src cmp op order scope acc) s = .next (s.memoryOp x acc 3
      (regsOf dst acc.size ++ regsOf src acc.size ++ (if op = .compareExchange then regsOf cmp acc.size else [])) (s.atomFault x op acc)
      (fun u => if order = .release ∨ order = .acqRel then s.covered blk grp u (atomArgsOf acc dst src cmp op order scope).scope else [])
      ((s.atomicOp x (atomArgsOf acc dst src cmp op order scope) acc).hint x acc.spin)) := by
  show execCoreAtomic blk grp dst src cmp op order scope acc s = _
  rw [execCoreAtomic, h]
  simp only [hwidth, Bool.not_true, Bool.false_eq_true, if_false]
  rfl

theorem exec_coreAtomic_of_no_width (h : s.issue blk grp = some x) (dst src cmp : Nat) {op : AtomOp} (order : MemOrder) (scope : Scope)
    (hwidth : (atomWidths op).contains acc.size = false) :
    exec (.coreAtomic blk grp dst src cmp op order scope acc) s = .next (s.haltIssue x 0x0301 2) := by
  show execCoreAtomic blk grp dst src cmp op order scope acc s = _
  rw [execCoreAtomic, h]
  simp only [hwidth, Bool.not_false, if_true]

theorem State.loadOp_at_issue {dst : Nat} {vs : List (Nat × List Byte × Bool)}
    (hlater : (acc.late && !acc.scratch && s.allNear x acc permRead true) = false) (hload : s.loadThreads x dst acc x.p.ts = .ok t vs) :
    s.loadOp x dst acc = (vs.foldl (fun u v => u.putLoad x.b.id x.i v.1 dst acc.size v.2.1 v.2.2)
      ((t.commit x true).goOn x acc.next)).purgeBuffers x.b.lod := by
  simp only [State.loadOp, hlater, hload, Bool.false_eq_true, if_false]

theorem State.loadOp_left_open {dst : Nat} (hlater : (acc.late && !acc.scratch && s.allNear x acc permRead true) = true) :
    s.loadOp x dst acc =
      ((s.commit x true).goOn x acc.next).issueTxns x acc permRead (fun u => .load x.b.id x.i u dst acc.size) x.p.ts := if_pos hlater

theorem State.storeOp_at_issue {src : Nat} (hlater : (acc.late && !acc.scratch && s.allNear x acc permWrite false) = false)
    (hstore : s.storeThreads x src acc x.p.ts = .ok t ()) : s.storeOp x src acc = (t.commit x true).goOn x acc.next := by
  simp only [State.storeOp, hlater, hstore, Bool.false_eq_true, if_false]

theorem State.storeOp_left_open {src : Nat} (hlater : (acc.late && !acc.scratch && s.allNear x acc permWrite false) = true) :
    s.storeOp x src acc = ((s.commit x true).goOn x acc.next).issueTxns x acc permWrite
      (fun u => .store x.b.id x.i u acc.size ((x.thread u).value src acc.size) (x.dirty u src acc.size)) x.p.ts := if_pos hlater

theorem State.atomicOp_at_issue {g : AtomArgs} (horder : g.order = .relaxed ∨ g.order = .acquire)
    (hlater : (acc.late && !acc.scratch && s.allNear x acc 3 false) = false) (hatomic : s.atomicThreads x g acc x.p.ts = .ok t ()) :
    s.atomicOp x g acc = if g.order = .acquire
      then x.p.ts.foldl (fun u v => u.awaitTxns x.b.id x.i v (u.reads x.b.id x.i v)) ((t.commit x true).goOn x acc.next)
      else (t.commit x true).goOn x acc.next := by
  have hacq : (g.order = .acquire ∨ g.order = .acqRel) ↔ g.order = .acquire := by rcases horder with h | h <;> simp [h]
  have hrel : ¬(g.order = .release ∨ g.order = .acqRel) := by rcases horder with h | h <;> simp [h]
  simp only [State.atomicOp, if_neg hrel, hlater, hatomic, hacq, Bool.false_eq_true, if_false]

end

/-- Settles O31: an access that runs is performed at issue or left open, by its instruction. -/
theorem coreMemoryInstructions : Obligations.CoreMemoryInstructions := by
  intro s t blk grp x acc h named clear later on args regs
  have none_more : x.p.ts.all (fun _ => ([] : List Nat).isEmpty) = true := by simp
  refine ⟨fun dst hfree hfault hclear hcol => ?_, fun src hfree hfault hclear hcol => ?_,
    fun dst src cmp op order scope hwidth horder hfree hfault hbad hclear hcol hlater hatomic => ?_,
    fun dst src cmp op order scope hwidth hfree hfault hbad hclear hrelease hcol => ?_,
    fun dst src cmp op order scope hwidth => exec_coreAtomic_of_no_width h dst src cmp order scope hwidth,
    fun f dst hfree hfault => ?_, fun f src hfree hfault => ?_⟩
  · have hrun := (exec_coreLoad_of_issue (acc := acc) h dst).trans
      (congrArg Host.Outcome.next (State.memoryOp_runs hfree hfault rfl hclear none_more hcol))
    exact ⟨fun vs hlater hload => by rw [hrun, State.loadOp_at_issue hlater hload],
      fun hlater => by rw [hrun, State.loadOp_left_open hlater]⟩
  · have hrun := (exec_coreStore_of_issue (acc := acc) h src).trans
      (congrArg Host.Outcome.next (State.memoryOp_runs hfree hfault rfl hclear none_more hcol))
    exact ⟨fun hlater hstore => by rw [hrun, State.storeOp_at_issue hlater hstore],
      fun hlater => by rw [hrun, State.storeOp_left_open hlater]⟩
  · have hnot : ¬(order = .release ∨ order = .acqRel) := by rcases horder with h | h <;> simp [h]
    rw [exec_coreAtomic_of_width h dst src cmp order scope hwidth,
      State.memoryOp_runs hfree hfault hbad hclear (by simp [hnot]) hcol]
    exact congrArg (fun u : State => Host.Outcome.next (u.hint x acc.spin))
      (State.atomicOp_at_issue (g := atomArgsOf acc dst src cmp op order scope) horder hlater hatomic)
  · have hmore : x.p.ts.all (fun u => (if order = .release ∨ order = .acqRel
        then s.covered blk grp u (atomArgsOf acc dst src cmp op order scope).scope else []).isEmpty) = true := by
      split
      next ho => exact hrelease ho
      next => exact none_more
    rw [exec_coreAtomic_of_width h dst src cmp order scope hwidth, State.memoryOp_runs hfree hfault hbad hclear hmore hcol]
    rfl
  · rw [exec_coreLoad_of_issue h, State.memoryOp_refused hfree hfault]
  · rw [exec_coreStore_of_issue h, State.memoryOp_refused hfree hfault]

/-! ### The feeder (O32) -/

section
variable {s : State} {x : Issue} {dreg : Nat}

theorem exec_feederIssue_of_free {blk grp : Nat} (h : s.issue blk grp = some x) (next : Nat) (spin : Bool)
    (hfree : x.p.ts.all (fun t => (s.regHolds x t ((List.range 8).map (· + dreg))).isEmpty) = true) :
    exec (.feederIssue blk grp dreg next spin) s = .next ((s.handOver x dreg next).hint x spin) := by
  show execFeederIssue blk grp dreg next spin s = _
  rw [execFeederIssue, h]
  exact congrArg Host.Outcome.next (State.whenHeld_of_free hfree)

theorem State.handOver_of_poisoned (next : Nat) (h : x.p.ts.any (fun t => (x.thread t).poisoned ((List.range 8).map (· + dreg))) = true) :
    s.handOver x dreg next = s.haltIssue x 0x0302 0xFFFE := if_pos h

theorem State.handOver_of_refused (next : Nat) (hclean : x.p.ts.any (fun t => (x.thread t).poisoned ((List.range 8).map (· + dreg))) = false)
    (h : x.p.ts.any (fun t => feederRefused ((x.thread t).descBytes dreg)) = true) :
    s.handOver x dreg next = s.haltIssue x 0x0301 0xFFFE := by
  simp only [State.handOver, hclean, h, Bool.false_eq_true, if_false, if_true]

theorem State.handOver_of_taken (next : Nat) (hclean : x.p.ts.any (fun t => (x.thread t).poisoned ((List.range 8).map (· + dreg))) = false)
    (hvalid : x.p.ts.any (fun t => feederRefused ((x.thread t).descBytes dreg)) = false) (hsome : s.feederTakes x ≠ [])
    (hreads : (s.feederTakes x).any (fun t => !(s.reads x.b.id x.i t).isEmpty) = false) :
    s.handOver x dreg next = ((s.feederTakes x).foldl (fun u t => u.markWrites x.b.id x.i t .block)
      ((s.commit x true).modThreads x.b.id x.i (s.feederTakes x) (fun t => { t with pc := next }))).acceptXfers x dreg (s.feederTakes x) := by
  have hne : (s.feederTakes x).isEmpty = false := by simpa using hsome
  simp only [State.handOver, hclean, hvalid, hreads, hne, Bool.false_eq_true, if_false]

end

theorem exec_feederTransferComplete_of_moved {s t : State} {blk idx pieces : Nat} {ans : HostAns} {b : Block} {f g : FeederXfer}
    (hb : s.block? blk = some b) (hf : b.feeds.find? (fun y => y.idx == idx) = some f) (hsaved : b.saved = false)
    (hcol : s.quiesced b.col = false) (hmove : s.feedPieces b ans (s.idsOf b.cmd) f pieces = .ok t g) :
    exec (.feederTransferComplete blk idx pieces ans) s =
      .next ((t.modBlock blk (fun b => { b with feeds := b.feeds.map (fun y => if y.idx == idx then g else y) })).settleFeed blk idx) := by
  show execFeederTransferComplete blk idx pieces ans s = _
  simp only [execFeederTransferComplete, hb, hf, hsaved, hcol, hmove, Bool.or_self, Bool.false_eq_true, if_false]

theorem State.settleFeed_of_complete {s : State} {blk idx : Nat} {c : Block} {f : FeederXfer} (hc : s.block? blk = some c)
    (hf : c.feeds.find? (fun y => y.idx == idx) = some f) (hrows : f.rows ≤ f.row) (hacks : f.acks = 0) :
    s.settleFeed blk idx = (((s.modBlock blk (fun b =>
      { b with feeds := b.feeds.filter (fun y => y.idx != idx),
               counters := b.counters.set f.counter ((b.counters.get f.counter 0 + 1) % 2 ^ 32) })).wakeBlock blk).purgeBuffers c.lod) := by
  have hend : ¬(f.row < f.rows ∨ f.acks ≠ 0) := by simp [hacks, Nat.not_lt.mpr hrows]
  simp only [State.settleFeed, hc, hf, if_neg hend]

/-- Settles O32: the descriptors are judged before any is handed over; the pieces moved, a transfer with nothing left leaves the feeder. -/
theorem feederTransfers : Obligations.FeederTransfers := by
  intro s blk
  refine ⟨?issue, ?pieces⟩
  · intro grp dreg next spin x h regs ts hfree
    have hand := exec_feederIssue_of_free h next spin hfree
    refine ⟨fun hp => ?_, fun hp hr => ?_, fun hp hv hne hreads => ?_⟩
    · rw [hand, State.handOver_of_poisoned next hp]
    · rw [hand, State.handOver_of_refused next hp hr]
    · rw [hand, State.handOver_of_taken next hp hv hne hreads]
      rfl
  · intro idx pieces ans b f t g hb hf hsaved hcol hmove u
    have hmoved := exec_feederTransferComplete_of_moved hb hf hsaved hcol hmove
    exact ⟨hmoved, fun c h hc hh hrows hacks => by rw [hmoved, State.settleFeed_of_complete hc hh hrows hacks]⟩

/-! ### Blocks, fetches and the timeout of a launch (O33) -/

/-- Whether the next block of a launch may go to a column (03, R77, R78). -/
structure State.Places (s : State) (cmd col : Nat) (l : Launch) : Prop where
  launch : s.launch? cmd = some l
  live : s.opLive cmd = true
  left : l.next < l.total
  displaced : s.displaced l = none
  assigned : s.assigned l.lod (clusterOf col) = true
  serves : s.clusterServes (clusterOf col) = true
  room : s.blockRoom l.lod col l.groups l.regsPerThread l.scratchKib l.exclusive cmd = true

/-- The next block of a launch, at its entry (03, R77). -/
def State.nextPlaced (s : State) (cmd col : Nat) (l : Launch) : Block :=
  { id := s.nextBlock, cmd := cmd, lod := l.lod, col := col, index := l.next, regsPerThread := l.regsPerThread,
    scratchKib := l.scratchKib, scratch := { cells := [], poison := [] }, groups := s.newGroups col l.groups l.regsPerThread l.code,
    counters := [], feeds := [], nextFeed := 0, stopping := false, saved := false }

section
variable {s t : State} {cmd col blk grp va : Nat} {l : Launch} {b : Block} {ans : HostAns}

theorem State.Places.unblocked (h : s.Places cmd col l) :
    (!s.opLive cmd || (decide (l.next ≥ l.total) && (s.displaced l).isNone) || !s.assigned l.lod (clusterOf col)
      || !s.clusterServes (clusterOf col) || !s.blockRoom l.lod col l.groups l.regsPerThread l.scratchKib l.exclusive cmd) = false := by
  have hleft : decide (l.next ≥ l.total) = false := decide_eq_false (Nat.not_le.mpr h.left)
  rw [h.live, hleft, h.assigned, h.serves, h.room]
  rfl

theorem execBlockPlacement_of_off (h : s.Places cmd col l) (hoff : (s.domain (clusterOf col)).state ≠ .on) :
    execBlockPlacement cmd col s = .next (s.requestWake (clusterOf col)) := by
  simp only [execBlockPlacement, h.launch, h.unblocked, Bool.false_eq_true, if_false]
  exact if_pos hoff

theorem execBlockPlacement_of_on (h : s.Places cmd col l) (hon : (s.domain (clusterOf col)).state = .on) :
    execBlockPlacement cmd col s =
      let u := if l.cleaned.contains col then s
        else s.modCore col (fun c => { c with icache := c.icache.filter (fun y => y.lod != l.lod) })
      .next (((({ u with blocks := u.blocks ++ [s.nextPlaced cmd col l], nextBlock := u.nextBlock + 1 } : State).modLaunch cmd
        (fun l => { l with next := l.next + 1, cleaned := insertNew l.cleaned col })).noteColumn cmd col).touchDomain (clusterOf col)) := by
  have hon' : ¬(s.domain (clusterOf col)).state ≠ .on := not_not.mpr hon
  simp only [execBlockPlacement, h.launch, h.unblocked, Bool.false_eq_true, if_false, if_neg hon']
  rw [h.displaced]
  cases hclean : l.cleaned.contains col
  · rfl
  · rfl

theorem execInstructionFetch_taken {g : Group} {bytes : List Byte} {p : List Bool} (hb : s.block? blk = some b) (hrun : s.blockRuns b = true)
    (hg : b.groups[grp]? = some g) (hset : g.sets.any (fun y => y.1 == va) = true)
    (hread : s.vread b.lod (alignDown va 128) 128 permExec 0xFFFE ans (s.idsOf b.cmd) = .ok t bytes p) :
    execInstructionFetch blk grp va .taken ans s = .next (t.fillLine b.col b.lod va bytes p) := by
  simp only [execInstructionFetch, hb, hrun, hg, hset, State.fetchTaken, hread, Bool.not_true, Bool.false_eq_true, if_false, if_true]

theorem execInstructionFetch_predicted (wrong : Bool) (hb : s.block? blk = some b) (hrun : s.blockRuns b = true) :
    execInstructionFetch blk grp va (.predicted wrong) ans s = .next (s.fetchPredicted b va wrong (s.idsOf b.cmd)) := by
  simp only [execInstructionFetch, hb, hrun, Bool.not_true, Bool.false_eq_true, if_false]

theorem execLaunchTimeout_of_expired {c : Cmd} (hl : s.launch? cmd = some l) (hc : s.cmd? cmd = some c) (hset : l.timeoutUs ≠ 0)
    (hrun : c.phase = .running) (hexpired : s.expired c.start (l.timeoutUs * 1000) = true) :
    execLaunchTimeout cmd s =
      let mine := s.blocks.filter (fun b => b.cmd == cmd)
      let w := ((((mine.foldl (fun t b => t.dropBlock b) s).modPorter c.stack
        (fun p => { p with lateBlocks := p.lateBlocks ++ mine.map (·.id) })).failCmd cmd 0x0400 0).finish cmd l.normal)
      .next (w.modCmd cmd (fun c => { c with endT := lastTick w.now })) := by
  simp only [execLaunchTimeout, hl, hc]
  exact if_pos ⟨hset, hrun, hexpired⟩

end

/-- Settles O33: where nothing holds the block back, its domain's state decides. -/
theorem blocksArePlacedAndFetched : Obligations.BlocksArePlacedAndFetched := by
  intro s
  refine ⟨fun cmd col l hl hlive hleft hnone hassigned hserves hroom => ?_,
    fun blk grp va ans b g t bytes p hb hrun hg hset hread => execInstructionFetch_taken hb hrun hg hset hread,
    fun blk grp va wrong ans b hb hrun => execInstructionFetch_predicted (grp := grp) (ans := ans) wrong hb hrun,
    fun cmd l c hl hc hset hrun hexpired => execLaunchTimeout_of_expired hl hc hset hrun hexpired⟩
  have h : s.Places cmd col l := ⟨hl, hlive, hleft, hnone, hassigned, hserves, hroom⟩
  exact ⟨execBlockPlacement_of_off h, execBlockPlacement_of_on h⟩

end Sys2Proof.Machine

/-! ## Settled obligations: attention units and request flits (O35, O37) -/

namespace Sys2Proof.Machine

/-! ### Attention units and merges (O35) -/

theorem exec_attentionKeyBlock (col : Nat) (errs : List AttnErr) (ans : HostAns) (s : State) :
    exec (.attentionKeyBlock col errs ans) s = execAttentionKeyBlock col errs ans s := rfl

theorem exec_splitMerge (cmd seq row head : Nat) (ans : HostAns) (s : State) :
    exec (.splitMerge cmd seq row head ans) s = execSplitMerge cmd seq row head ans s := rfl

/-- What a unit whose plan `v` is made, and whose state is `w`, does next: it hands over its rows, or goes on with its next block. -/
def State.unitGoesOn (w : State) (m : AttnOp) (c : Cmd) (e : SeqEntry) (v : AttnUnit) (col : Nat) (errs : List AttnErr) (ans : HostAns) :
    State :=
  let r := w.setRun col (.attn v)
  match (v.plan.getD [])[v.next]? with
  | none => (r.attnUnitDone col).endFailedAttn m.cmd
  | some b => r.keyBlock m c e v b col errs ans

section
variable {s w : State} {col : Nat} {u v : AttnUnit} {m : AttnOp} {c : Cmd} {e : SeqEntry} {errs : List AttnErr} {ans : HostAns}
  (hrun : (s.core col).run = .attn u) (hm : s.attn? u.key.cmd = some m) (hc : s.cmd? u.key.cmd = some c)
  (he : m.seqs[u.key.entry]? = some e)
include hrun hm hc he

theorem execAttentionKeyBlock_of_planned {bs : List Nat} (hp : u.plan = some bs) :
    execAttentionKeyBlock col errs ans s = .next (s.unitGoesOn m c e u col errs ans) := by
  simp only [execAttentionKeyBlock, State.unitGoesOn, hrun, hm, hc, he, hp, Option.isSome_some, if_true]
  split <;> simp_all

theorem execAttentionKeyBlock_of_unplanned (hp : u.plan = none) (hw : s.planUnit m e u ans = .ok (w, v)) :
    execAttentionKeyBlock col errs ans s = .next ((w.countSkipped m e v col).unitGoesOn m c e v col errs ans) := by
  simp only [execAttentionKeyBlock, State.unitGoesOn, hrun, hm, hc, he, hp, hw, Option.isSome_none]
  split <;> simp_all
end

section
variable {w x y : State} {col b page : Nat} {v : AttnUnit} {m : AttnOp} {c : Cmd} {e : SeqEntry} {errs : List AttnErr} {ans : HostAns}

theorem State.unitGoesOn_of_none (h : (v.plan.getD [])[v.next]? = none) :
    w.unitGoesOn m c e v col errs ans = ((w.setRun col (.attn v)).attnUnitDone col).endFailedAttn m.cmd := by
  simp only [State.unitGoesOn, h]

theorem State.unitGoesOn_of_some (h : (v.plan.getD [])[v.next]? = some b) :
    w.unitGoesOn m c e v col errs ans = (w.setRun col (.attn v)).keyBlock m c e v b col errs ans := by
  simp only [State.unitGoesOn, h]

section
variable {toks : List Nat} {all : Bool} {run : ArrayRun}

theorem State.keyBlock_of_dropped (hp : w.unitPage m e v b ans = .ok x page)
    (hb : (x.setRun col (.attn { v with pages := v.pages.set (b / 4) page })).blockSums m e
      { v with pages := v.pages.set (b / 4) page } page b col errs ans = .ok (y, toks, all, run, none)) :
    w.keyBlock m c e v b col errs ans =
      ((y.attnProof col m.cmd run.failed).countEvents col 0x012 m.cmd run.gated).setRun col .idle := by
  simp only [State.keyBlock, hp, hb]

theorem State.keyBlock_of_computed {xs : BlockSums} (hp : w.unitPage m e v b ans = .ok x page)
    (hb : (x.setRun col (.attn { v with pages := v.pages.set (b / 4) page })).blockSums m e
      { v with pages := v.pages.set (b / 4) page } page b col errs ans = .ok (y, toks, all, run, some xs)) :
    w.keyBlock m c e v b col errs ans =
      ((y.attnProof col m.cmd run.failed).countEvents col 0x012 m.cmd run.gated).takeBlock m c e
        { v with pages := v.pages.set (b / 4) page } col toks all xs := by
  simp only [State.keyBlock, hp, hb]
end

/-- A block of an operator that is not the backward one hands on its row states. -/
theorem State.takeBlock_of_forward {toks : List Nat} {all : Bool} {xs : BlockSums} (hf : m.par.opcode ≠ 0x0202) :
    w.takeBlock m c e v col toks all xs =
      (((w.setRun col (.attn { v with
          next := v.next + 1, rows := (xs.rows.zip v.queries).map (fun q => { q.1 with poison := q.1.poison || all }) })).countPass col
        0x020 m.cmd).attnUnitDone col).endFailedAttn m.cmd := by
  simp only [State.takeBlock, hf, false_and, if_false]
end

section
variable {s t : State} {cmd seq row head : Nat} {ans : HostAns} {m : AttnOp} {e : SeqEntry} {r : RowState}
  (hm : s.attn? cmd = some m) (he : m.seqs[seq]? = some e) (hl : s.opLive cmd = true) (ho : m.par.opcode ≠ 0x0204)
  (hw : m.written.contains (seq, row, head) = false) (hk : e.skipped = false) (hr : row < e.qLen) (hh : head < m.par.qHeads)
include hm he hl ho hw hk hr hh

theorem execSplitMerge_of_splits {xs : List RowState} (hp : m.par.phase ≠ 2) (hx : m.splitsOf seq row head = some xs)
    (ha : (if m.par.opcode = 0x0202 then addSplits xs else mergeSplits xs) = some r) :
    execSplitMerge cmd seq row head ans s = .next (s.finishRow m e seq row head r 0) := by
  have ht : ¬ (row ≥ e.qLen ∨ head ≥ m.par.qHeads) := by omega
  have hn : (seq, row, head) ∉ m.written := by simpa using hw
  simp [execSplitMerge, hm, he, hl, ho, hn, hk, ht, hp, hx, ha]

theorem execSplitMerge_of_partials (hp : m.par.phase = 2)
    (hx : s.readPartials m.lod m.par e row head ans (s.idsOf cmd) none 0 m.par.numPartials = .ok (t, r)) :
    execSplitMerge cmd seq row head ans s = .next (t.finishRow m e seq row head r m.par.numPartials) := by
  have ht : ¬ (row ≥ e.qLen ∨ head ≥ m.par.qHeads) := by omega
  have hn : (seq, row, head) ∉ m.written := by simpa using hw
  simp [execSplitMerge, hm, he, hl, ho, hn, hk, ht, hp, hx]
end

/-- Settles O35: a unit goes on by `unitGoesOn`, with its plan or with the one that it has just made. -/
theorem attentionBlocksRun : Obligations.AttentionBlocksRun := by
  unfold Obligations.AttentionBlocksRun
  intro s t
  refine ⟨fun col errs ans u m c e hrun hm hc he => ?_, ?_, ?_⟩
  · intro go
    have hgo : ∀ w v, go w v (w.unitGoesOn m c e v col errs ans) := by
      intro w v
      refine ⟨State.unitGoesOn_of_none, ?_⟩
      intro b x page hb hp v' y toks all run sums hs z
      rw [State.unitGoesOn_of_some hb]
      refine ⟨?_, ?_⟩
      · rintro rfl
        exact State.keyBlock_of_dropped hp hs
      · rintro xs rfl
        rw [State.keyBlock_of_computed hp hs]
        exact ⟨rfl, State.takeBlock_of_forward⟩
    refine ⟨fun bs hp => ⟨_, ?_, hgo _ _⟩, fun w v hp hw => ⟨_, ?_, hgo _ _⟩⟩
    · rw [exec_attentionKeyBlock, execAttentionKeyBlock_of_planned hrun hm hc he hp]
    · rw [exec_attentionKeyBlock, execAttentionKeyBlock_of_unplanned hrun hm hc he hp hw]
  · intro cmd seq row head ans m e xs r hm he hl ho hw hk hr hh hp hx ha
    rw [exec_splitMerge, execSplitMerge_of_splits hm he hl ho hw hk hr hh hp hx ha]
  · intro cmd seq row head ans m e r hm he hl ho hw hk hr hh hp hx
    rw [exec_splitMerge, execSplitMerge_of_partials hm he hl ho hw hk hr hh hp hx]

/-! ### Request flits at their slice or porter (O37) -/

theorem exec_read (f : Flit) (s : State) : exec (.read f) s = execRead f s := rfl
theorem exec_write (f : Flit) (s : State) : exec (.write f) s = execWrite f s := rfl
theorem exec_writePartial (f : Flit) (s : State) : exec (.writePartial f) s = execWritePartial f s := rfl
theorem exec_atomic (f : Flit) (s : State) : exec (.atomic f) s = execAtomic f s := rfl
theorem exec_addToLine (f : Flit) (s : State) : exec (.addToLine f) s = execAddToLine f s := rfl
theorem exec_writeHome (f : Flit) (s : State) : exec (.writeHome f) s = execWriteHome f s := rfl
theorem exec_signal (f : Flit) (s : State) : exec (.signal f) s = execSignal f s := rfl

/-- The state in which a request has left its buffer and crossed its links to the slice of its address. -/
def State.atSliceOf (s : State) (g : Flit) : State := (s.takeFlit g).travel g (endStack g.src) (stackOf (s.sliceColumn g.addr))

/-- A place at which a slice or the porter performs the request itself. -/
def Place.near (p : Place) : Prop := p = .hbm ∨ p = .scratch ∨ p = .host

theorem Place.near.here {p : Place} (h : p.near) : p ≠ .hole ∧ p ≠ .registers := by
  rcases h with rfl | rfl | rfl <;> exact ⟨nofun, nofun⟩

theorem Place.near.not_remote {p : Place} (h : p.near) : p ≠ .remote := by
  rcases h with rfl | rfl | rfl <;> exact nofun

section
variable {s : State} {f : Flit} (hc : s.hasCredit f = true)
include hc

/-- A request of which an open access of core code may carry the rest is performed where it stands in its order. -/
theorem State.arrive_carried {perform : State → Host.Outcome State Fault Refusal}
    (hp : placeOf (s.carried f).addr ≠ .hole ∧ placeOf (s.carried f).addr ≠ .registers)
    (hr : s.refusedAt (flitOwner f) (s.carried f).addr = none) :
    s.arrive (s.carried f) perform = perform (s.atSliceOf (s.carried f)) :=
  State.arrive_next s _ _ (by rw [State.carried_credit, hc]) hp (by rw [State.carried_owner]; exact hr)

theorem execRead_of_refused {st : Nat} (hp : placeOf (s.carried f).addr ≠ .hole ∧ placeOf (s.carried f).addr ≠ .registers)
    (hr : s.refusedAt (flitOwner f) (s.carried f).addr = some st) :
    execRead f s = .next ((s.atSliceOf (s.carried f)).faultFlit (s.carried f) st) := by
  rw [execRead, State.arrive_refused s _ _ st (by rw [State.carried_credit, hc]) hp (by rw [State.carried_owner]; exact hr)]
  rfl

variable (hr : s.refusedAt (flitOwner f) (s.carried f).addr = none)
include hr

theorem execRead_of_remote (hp : placeOf (s.carried f).addr = .remote) :
    let t := s.atSliceOf (s.carried f)
    let h : HeldRead := { flit := s.carried f, got := [] }
    execRead f s = .next (({ t with fab := { t.fab with held := t.fab.held ++ [h] } } : State).retryRemote [h]) := by
  rw [execRead, State.arrive_carried hc (by rw [hp]; exact ⟨nofun, nofun⟩) hr, if_pos hp]

variable (hn : (placeOf (s.carried f).addr).near)
include hn

theorem execRead_of_near : execRead f s = .next ((s.atSliceOf (s.carried f)).readLocal (s.carried f)) := by
  rw [execRead, State.arrive_carried hc hn.here hr, if_neg hn.not_remote]

variable (ho : s.inOrder (s.carried f) = true)
include ho

theorem execWrite_of_near {pa : Nat} {b : List Byte} (hw : writeParts (s.carried f) = [(pa, b)]) :
    execWrite f s = .next ((((s.atSliceOf (s.carried f)).writeRange (flitOwner f) pa b (s.carried f).poison
      (flitIds (s.carried f))).noteOrder (s.carried f)).ackFlit (s.carried f)) := by
  rw [execWrite, ho]
  simp only [Bool.not_true, Bool.false_eq_true, if_false]
  rw [State.arrive_carried hc hn.here hr]
  simp only [hw, State.storeFlit, if_neg hn.not_remote, State.carried_owner]

theorem execWritePartial_of_near :
    let g := s.carried f
    execWritePartial f s = .next ((((enabledRuns (field g.payload 32 4)).foldl (fun u x =>
      u.storeSector (flitOwner f) (g.addr / 32) x.1 (slice g.payload x.1 x.2) g.poison (flitIds g)) (s.atSliceOf g)).noteOrder g).ackFlit
        g) := by
  rw [execWritePartial, ho]
  simp only [Bool.not_true, Bool.false_eq_true, if_false]
  rw [State.arrive_carried hc hn.here hr, if_neg hn.not_remote, State.carried_owner]

variable {a : AtomReq} (ha : atomReq? (s.carried f).payload (alignDown (s.carried f).addr 128) = some a)
  (hg : (s.atSliceOf (s.carried f)).inRegion (flitOwner f) a.pa = false)
include ha hg

theorem execAtomic_of_home (hh : placeOf (s.carried f).addr ≠ .host) :
    let g := s.carried f
    let y := (s.atSliceOf g).atomicHome (flitOwner f) a.pa a.size a.op a.src a.cmp g.poison (flitIds g)
    execAtomic f s = .next ((y.s.noteOrder g).respond (flitAnswer g opResult 0 0 y.poison (leBytes 16 y.old))) := by
  rw [execAtomic, ho]
  simp only [Bool.not_true, Bool.false_eq_true, if_false]
  rw [State.arrive_carried hc hn.here hr]
  simp only [ha, State.carried_owner, hg, Bool.false_eq_true, if_false]
  rcases hn with hp | hp | hp
  · simp only [hp]
  · simp only [hp]
  · exact absurd hp hh

theorem execAtomic_of_host (hh : placeOf (s.carried f).addr = .host) (hk : hostAtom a.op = true) :
    execAtomic f s = .next ((s.atSliceOf (s.carried f)).hostAtomicOp (flitOwner f) a.pa (a.txn (s.carried f).poison)
      (.flit (s.carried f))) := by
  rw [execAtomic, ho]
  simp only [Bool.not_true, Bool.false_eq_true, if_false]
  rw [State.arrive_carried hc hn.here hr]
  simp only [ha, State.carried_owner, hg, Bool.false_eq_true, if_false, hh, hk, if_true]
end

section
variable {s : State} {f : Flit} {m : Mapping} {d : Nat} {r : Region} (hc : s.hasCredit f = true) (hn : (placeOf f.addr).near)
  (hr : s.refusedAt (flitOwner f) f.addr = none)
include hc hn hr

theorem execAddToLine_of_region (hm : (s.atSliceOf f).regionMap? (flitOwner f) (alignDown f.addr 128 + byteAt f.payload 1 % 128) = some m)
    (hd : m.region = some d) (hq : m.reduction = some r) (hop : r.op.code = byteAt f.payload 0)
    (ha : (alignDown f.addr 128 + byteAt f.payload 1 % 128) % r.op.size = 0) :
    let x := (s.atSliceOf f).contribute (flitOwner f) (alignDown f.addr 128 + byteAt f.payload 1 % 128) r d (field f.payload 8 8) f.poison
      (flitIds f)
    execAddToLine f s = .next ((if x.2 then x.1.noticeIds (flitOwner f) (flitIds f) 0x0104 0 else x.1).ackFlit f) := by
  unfold State.atSliceOf at hm
  rw [execAddToLine, State.arrive_next s f _ hc hn.here hr]
  simp only [hm, hd, hq, hop, ha, ne_eq, not_true_eq_false, or_self, if_false]
  rfl

theorem execWriteHome_of_more (hb : byteAt f.payload 2 / 2 % 2 = 0) :
    let t := s.atSliceOf f
    execWriteHome f s = .next { t with fab := { t.fab with parts := t.fab.parts ++ [f] } } := by
  have hbit : bit (byteAt f.payload 2) 1 = false := by simp [bit, hb]
  rw [execWriteHome, State.arrive_next s f _ hc hn.here hr]
  simp only [hbit, Bool.false_eq_true, if_false]
  rfl

theorem execWriteHome_of_last (hb : byteAt f.payload 2 / 2 % 2 = 1) :
    let t := s.atSliceOf f
    let u : State := { t with fab := { t.fab with parts := t.fab.parts.filter (fun g => !sameHome f g) } }
    u.regionMap? (flitOwner f) f.addr = some m → m.reduction = some r → execWriteHome f s =
      .next ((u.performHome (flitOwner f) f.addr m r (homeImage (t.fab.parts.filter (sameHome f) ++ [f]) r)).1.ackFlit f) := by
  intro t u hm hq
  have hbit : bit (byteAt f.payload 2) 1 = true := by simp [bit, hb]
  have hw : u.writtenHome f (t.fab.parts.filter (sameHome f) ++ [f]) =
      some ((u.performHome (flitOwner f) f.addr m r (homeImage (t.fab.parts.filter (sameHome f) ++ [f]) r)).1.ackFlit f) := by
    simp only [State.writtenHome, hm, hq, if_neg hn.not_remote]
  rw [execWriteHome, State.arrive_next s f _ hc hn.here hr, if_pos hbit]
  exact congrArg Host.Outcome.next (congrArg (Option.getD · s) hw)
end

theorem execSignal_of_active {s : State} {f : Flit} (hc : s.hasCredit f = true) :
    let v := (s.takeFlit f).travel f (endStack f.src) (f.lodging % 4)
    f.own = false → (v.lod f.lodging).state = .active → execSignal f s =
      .next (((v.updateSignal f.lodging (field f.payload 0 2 % 4096) (signalOp (byteAt f.payload 2) (field f.payload 8 8))).startAll).ackFlit
        f) := by
  intro v ho ha
  rw [execSignal, hc]
  simp only [Bool.not_true, Bool.false_eq_true, if_false]
  exact if_pos ⟨by simp [ho], ha⟩

/-- Settles O37: each request arrives at its slice, where the clause of its operation and place is what `exec` does. -/
theorem fabricRequestsArePerformed : Obligations.FabricRequestsArePerformed := by
  unfold Obligations.FabricRequestsArePerformed
  intro s f hc at' near lod
  refine ⟨?_, ?_, ?_⟩
  · intro g t
    refine ⟨fun st h1 h2 hr => ?_, fun hr => ⟨fun hp => ?_, fun hn => ⟨?_, fun ho => ⟨fun pa b hw => ?_, ?_, fun a ha hg =>
      ⟨fun hh => ?_, fun hh hk => ?_⟩⟩⟩⟩⟩
    · rw [exec_read, execRead_of_refused hc ⟨h1, h2⟩ hr]; rfl
    · rw [exec_read, execRead_of_remote hc hr hp]; rfl
    · rw [exec_read, execRead_of_near hc hr hn]; rfl
    · rw [exec_write, execWrite_of_near hc hr hn ho hw]; rfl
    · rw [exec_writePartial, execWritePartial_of_near hc hr hn ho]; rfl
    · rw [exec_atomic, execAtomic_of_home hc hr hn ho ha hg hh]; rfl
    · rw [exec_atomic, execAtomic_of_host hc hr hn ho ha hg hh hk]; rfl
  · intro t hn hr
    refine ⟨?_, fun hb => ?_, ?_⟩
    · intro m d r pa x hm hd hq hop ha
      rw [exec_addToLine, execAddToLine_of_region hc hn hr hm hd hq hop ha]; rfl
    · rw [exec_writeHome, execWriteHome_of_more hc hn hr hb]; rfl
    · intro m r u hb hm hq
      rw [exec_writeHome, execWriteHome_of_last hc hn hr hb hm hq]; rfl
  · intro v ho ha
    rw [exec_signal, execSignal_of_active hc ho ha]

end Sys2Proof.Machine

/-! ## Settled obligations: responses, links and Cytil (O38–O41, O43, O44) -/

namespace Sys2Proof.Machine

/-! ### Responses at their requester (O38) -/

theorem exec_data (f : Flit) (s : State) : exec (.data f) s = execData f s := rfl
theorem exec_ack (f : Flit) (s : State) : exec (.ack f) s = execAck f s := rfl
theorem exec_result (f : Flit) (s : State) : exec (.result f) s = execResult f s := rfl
theorem exec_fault (f : Flit) (s : State) : exec (.fault f) s = execFault f s := rfl

theorem State.deliver_of_txn {s : State} {f : Flit} {take : State → Txn → State} {x : Txn} (hd : s.mayDeliver f = true)
    (hx : s.coreTxn? f = some x) : s.deliver f take = .next (take (s.takeResp f) x) := by
  simp [State.deliver, hd, hx]

theorem State.deliver_of_none {s : State} {f : Flit} {take : State → Txn → State} (hd : s.mayDeliver f = true)
    (hx : s.coreTxn? f = none) : s.deliver f take = .next (s.takeResp f) := by
  simp [State.deliver, hd, hx]

section
variable {s : State} {x : Txn}

theorem State.performed_of_block (h : x.cmd = none) (blk : Nat) : s.performed x blk = (s.dropTxn x.id).wakeBlock blk := by
  simp only [State.performed, h]

theorem State.performed_of_cmd {id : Nat} (h : x.cmd = some id) (blk : Nat) :
    s.performed x blk = (s.dropTxn x.id).modCmd id (fun c => { c with acks := c.acks - 1 }) := by
  simp only [State.performed, h, State.ackOne]

theorem State.haltAccess_of_block {st d blk grp thr : Nat} {b : Block} (hk : x.kind.thread? = some (blk, grp, thr)) (hc : x.cmd = none)
    (hb : (s.dropTxn x.id).block? blk = some b) : s.haltAccess x st d = (s.dropTxn x.id).haltGroup b grp st d := by
  simp only [State.haltAccess, hc, hk, hb]

/-- A fault of an access that core code made halts its group. -/
theorem State.faultArrives_of_thread {st d : Nat} {y : Nat × Nat × Nat} (hk : x.kind.thread? = some y) :
    s.faultArrives x st d = s.haltAccess x st (failDetail st d 0xFFFE x.addr) := by
  cases hx : x.kind <;> simp_all [State.faultArrives, State.faultNoted, TxnKind.thread?]

/-- The old value is written, and then the access ends. -/
theorem State.atomicArrives_of_atomic {blk grp thr old : Nat} {a : AtomTxn} {p : Bool} (hk : x.kind = .atomic blk grp thr a) :
    s.atomicArrives x old p = (s.putAtomic blk grp thr a.dst a.size old (p || a.bad)).performed x blk := by
  simp only [State.atomicArrives, hk]

theorem State.ackArrives_of_store {blk grp thr a b : Nat} {c flag : Bool} (hk : x.kind = .store blk grp thr a b c) :
    s.ackArrives x flag = s.performed x blk := by
  simp only [State.ackArrives, hk]

theorem State.loadArrives_of_load {blk grp thr dst size : Nat} {b : List Byte} {p : Bool} (hk : x.kind = .load blk grp thr dst size) :
    s.loadArrives x b p = ((s.putLoad blk grp thr dst size b p).dropTxn x.id).wakeBlock blk := by
  simp only [State.loadArrives, hk]
end

section
variable {s : State} {f : Flit} {x : Txn} (hd : s.mayDeliver f = true) (hx : s.coreTxn? f = some x)
include hd hx

theorem execData_of_load {blk grp thr dst size : Nat} (hk : x.kind = .load blk grp thr dst size) (hh : x.addr % 128 / 64 = f.half)
    (hs : f.sect / 2 ^ (x.addr % 64 / 32) % 2 = 1) :
    execData f s = .next ((((s.takeResp f).putLoad blk grp thr dst size (slice f.payload (x.addr % 64) size) f.poison).dropTxn
      x.id).wakeBlock blk) := by
  have hb : bit f.sect (x.addr % 64 / 32) = true := by simp [bit, hs]
  rw [execData, State.deliver_of_txn hd hx]
  simp only [hk]
  rw [if_pos ⟨hh, hb⟩, State.loadArrives_of_load hk]

theorem execAck_of_store {blk grp thr a b : Nat} {c : Bool} (hk : x.kind = .store blk grp thr a b c) :
    execAck f s = .next ((s.takeResp f).performed x blk) := by
  rw [execAck, State.deliver_of_txn hd hx]
  simp only [hk]
  rw [State.ackArrives_of_store hk]

theorem execResult_of_atomic {blk grp thr : Nat} {a : AtomTxn} (hk : x.kind = .atomic blk grp thr a) :
    execResult f s = .next (((s.takeResp f).putAtomic blk grp thr a.dst a.size (field f.payload 0 16) (f.poison || a.bad)).performed
      x blk) := by
  rw [execResult, State.deliver_of_txn hd hx]
  simp only [hk]
  rw [State.atomicArrives_of_atomic hk]

theorem execFault_of_thread {y : Nat × Nat × Nat} (hk : x.kind.thread? = some y) :
    execFault f s = .next ((s.takeResp f).haltAccess x (field f.payload 0 2) (failDetail (field f.payload 0 2) 0 0xFFFE x.addr)) := by
  rw [execFault, State.deliver_of_txn hd hx, State.faultArrives_of_thread hk]
end

/-- Settles O38: `deliver` hands the response to its access, and each kind of access ends in its own way. -/
theorem fabricResponsesReachTheirThreads : Obligations.FabricResponsesReachTheirThreads := by
  unfold Obligations.FabricResponsesReachTheirThreads
  intro s f hd t
  refine ⟨fun x hx => ⟨?_, ?_, ?_, ?_⟩, fun hx i hi => ?_⟩
  · intro blk grp thr dst size hk hh hs
    rw [exec_data, execData_of_load hd hx hk hh hs]
  · intro blk grp thr a b c hk
    rw [exec_ack, execAck_of_store hd hx hk]
    exact ⟨fun hc => by rw [State.performed_of_block hc], fun id hc => by rw [State.performed_of_cmd hc]⟩
  · intro blk grp thr a hk u
    rw [exec_result, execResult_of_atomic hd hx hk]
    exact ⟨fun hc => by rw [State.performed_of_block hc], fun id hc => by rw [State.performed_of_cmd hc]⟩
  · intro blk grp thr b hk hc hb st
    rw [exec_fault, execFault_of_thread hd hx hk, State.haltAccess_of_block hk hc hb]
  · simp only [List.mem_cons, List.not_mem_nil, or_false] at hi
    rcases hi with rfl | rfl | rfl | rfl
    · rw [exec_data, execData, State.deliver_of_none hd hx]
    · rw [exec_ack, execAck, State.deliver_of_none hd hx]
    · rw [exec_result, execResult, State.deliver_of_none hd hx]
    · rw [exec_fault, execFault, State.deliver_of_none hd hx]

/-! ### Credits and die-to-die links (O39) -/

theorem exec_credit (f : Flit) (s : State) : exec (.credit f) s = execCredit f s := rfl
theorem exec_creditReturnTimer (input net cls : Nat) (s : State) :
    exec (.creditReturnTimer input net cls) s = execCreditReturnTimer input net cls s := rfl
theorem exec_flitUnusedOp (f : Flit) (s : State) : exec (.flitUnusedOp f) s = execFlitUnusedOp f s := rfl
theorem exec_d2dLinkReplay (link flit : Nat) (s : State) : exec (.d2dLinkReplay link flit) s = execD2dLinkReplay link flit s := rfl
theorem exec_d2dLinkFail (link : Nat) (s : State) : exec (.d2dLinkFail link) s = execD2dLinkFail link s := rfl

/-- Settles O39: the five commands, each in the case in which it acts; `emitCredits_le` bounds what a timer leaves owed. -/
theorem fabricCreditsAndLinks : Obligations.FabricCreditsAndLinks := by
  unfold Obligations.FabricCreditsAndLinks
  intro s
  refine ⟨fun f => rfl, ?_, ?_, ?_, ?_⟩
  · intro input net cls n hn hw x
    have hidle : ¬ (n = 0 ∨ s.since (s.fab.reverse.get input 0) < creditWait) := by
      simp only [creditWait]; omega
    refine ⟨State.emitCredits_le s input net cls n n le_rfl, ?_⟩
    rw [exec_creditReturnTimer, execCreditReturnTimer, if_neg hidle]
  · intro f ho hc w
    rw [exec_flitUnusedOp, execFlitUnusedOp, if_neg]
    rw [ho, hc]
    exact nofun
  · intro link flit d hu hr
    rw [exec_d2dLinkReplay, execD2dLinkReplay, if_pos]
    exact Bool.and_eq_true_iff.mpr ⟨hu, hr⟩
  · intro link hl hu down u cut
    rw [exec_d2dLinkFail, execD2dLinkFail, if_neg]
    rw [hu]
    exact fun h => h.elim (fun h => absurd hl (Nat.not_lt.mpr h)) nofun

/-! ### The halves of a line and their replay (O40) -/

theorem exec_lineBurst (l : Lane) (addr half tag cycle : Nat) (s : State) :
    exec (.lineBurst l addr half tag cycle) s = execLineBurst l addr half tag cycle s := rfl
theorem exec_laneAck (l : Lane) (tag : Nat) (s : State) : exec (.laneAck l tag) s = execLaneAck l tag s := rfl
theorem exec_laneNak (l : Lane) (tag cycle : Nat) (s : State) : exec (.laneNak l tag cycle) s = execLaneNak l tag cycle s := rfl
theorem exec_pairingWindowExpiry (l : Lane) (cycle : Nat) (s : State) :
    exec (.pairingWindowExpiry l cycle) s = execPairingWindowExpiry l cycle s := rfl
theorem exec_laneReplayTimer (l : Lane) (cycle : Nat) (s : State) :
    exec (.laneReplayTimer l cycle) s = execLaneReplayTimer l cycle s := rfl

section
variable {s : State} {l : Lane} {tag cycle : Nat}

theorem State.firstHalf_of_next (hp : (s.laneAt l).pairing = none) (ht : tag = (s.laneAt l).delivered) :
    s.firstHalf l tag cycle = s.modLane l (fun y => { y with pairing := some (tag, cycle) }) := by
  simp only [State.firstHalf, hp]
  rw [if_pos ht]

theorem State.secondHalf_of_paired {c : Nat} (hp : (s.laneAt l).pairing = some (tag, c)) (hc : cycle - c ≤ 64) :
    s.secondHalf l tag cycle = s.paired l tag := by
  simp only [State.secondHalf, hp, if_true, hc]

theorem State.secondHalf_of_late {c : Nat} (hp : (s.laneAt l).pairing = some (tag, c)) (hc : 64 < cycle - c) :
    s.secondHalf l tag cycle = s.orphan l tag none := by
  simp only [State.secondHalf, hp, if_true, Nat.not_le.mpr hc, if_false]

theorem State.secondHalf_of_unmatched (hp : (s.laneAt l).pairing = none) (hd : (s.laneAt l).duplicate tag = false) :
    s.secondHalf l tag cycle = s.orphan l tag none := by
  simp only [State.secondHalf, hp, hd, Bool.false_eq_true, if_false]

theorem State.replayLane_of_held (h : (s.laneAt l).replay.any (fun e => e.tag == tag) = true) :
    s.replayLane l tag cycle = (s.modLane l (fun y => { y with replay := replayFrom tag cycle y.replay })).countReplay l := by
  rw [State.replayLane, if_pos h]

section
variable {addr : Nat} (hl : s.laneFor l addr = some l.lane) (ht : tag < 1024)
include hl ht

/-- A half on the lane of its line, with a sequence of ten bits, is not turned away. -/
theorem lane_takes : ¬ (s.laneFor l addr ≠ some l.lane ∨ tag ≥ 1024) :=
  fun h => h.elim (fun h => h hl) (fun h => absurd ht (Nat.not_lt.mpr h))

theorem execLineBurst_of_first (ha : (s.laneAt l).awaiting = none) (hd : (s.laneAt l).duplicate tag = false) :
    execLineBurst l addr 0 tag cycle s = .next ((s.modLane l (fun y => y.noteSent tag cycle)).firstHalf l tag cycle) := by
  rw [execLineBurst, if_neg (lane_takes hl ht), if_pos rfl]
  simp only [hd, Bool.false_eq_true, if_false, ha]

theorem execLineBurst_of_second (ha : (s.laneAt l).awaiting = none) :
    execLineBurst l addr 1 tag cycle s = .next (s.secondHalf l tag cycle) := by
  rw [execLineBurst, if_neg (lane_takes hl ht), if_neg Nat.one_ne_zero, if_pos rfl]
  simp only [ha]

theorem execLineBurst_of_first_awaiting {w : Nat} (ha : (s.laneAt l).awaiting = some w) (hw : w ≠ tag)
    (hd : (s.laneAt l).duplicate tag = false) :
    execLineBurst l addr 0 tag cycle s = .next (s.modLane l (fun y => y.noteSent tag cycle)) := by
  rw [execLineBurst, if_neg (lane_takes hl ht), if_pos rfl]
  simp only [hd, Bool.false_eq_true, if_false, ha, hw]

theorem execLineBurst_of_second_awaiting {w : Nat} (ha : (s.laneAt l).awaiting = some w) :
    execLineBurst l addr 1 tag cycle s = .next s := by
  rw [execLineBurst, if_neg (lane_takes hl ht), if_neg Nat.one_ne_zero, if_pos rfl]
  simp only [ha]
end

theorem execPairingWindowExpiry_of_late {t c : Nat} (hp : (s.laneAt l).pairing = some (t, c)) (hc : c + 64 < cycle) :
    execPairingWindowExpiry l cycle s = .next (s.orphan l t none) := by
  simp only [execPairingWindowExpiry, hp]
  rw [if_pos hc]

theorem execLaneReplayTimer_of_unanswered {e : SentLine}
    (he : (s.laneAt l).replay.find? (fun e => decide (cycle ≥ e.cycle + 128)) = some e) :
    execLaneReplayTimer l cycle s = .next (s.replayLane l e.tag cycle) := by
  simp only [execLaneReplayTimer, he]
end

/-- Settles O40: the first and the second half, the acknowledgement, the NAK and the two timers, each in its case. -/
theorem laneHalvesPairAndReplay : Obligations.LaneHalvesPairAndReplay := by
  unfold Obligations.LaneHalvesPairAndReplay
  intro s l addr tag cycle x sent orphaned
  have horphan : ∀ u t p, orphaned u t p = State.orphan u l t p := fun _ _ _ => rfl
  refine ⟨fun hl ht ha => ⟨fun hd hp hn => ?_, fun c hp hc => ?_, fun c hp hc => ?_, fun hp hd => ?_⟩,
    fun hl ht w ha => ⟨?_, fun hw hd => ?_⟩, fun hr => ?_, fun hr => ?_, fun t c hp hc => ?_, fun e he => ?_⟩
  · rw [exec_lineBurst, execLineBurst_of_first hl ht ha hd, State.firstHalf_of_next hp hn]
  · rw [exec_lineBurst, execLineBurst_of_second hl ht ha, State.secondHalf_of_paired hp hc]
  · rw [exec_lineBurst, execLineBurst_of_second hl ht ha, State.secondHalf_of_late hp hc, horphan]
  · rw [exec_lineBurst, execLineBurst_of_second hl ht ha, State.secondHalf_of_unmatched hp hd, horphan]
  · rw [exec_lineBurst, execLineBurst_of_second_awaiting hl ht ha]
  · rw [exec_lineBurst, execLineBurst_of_first_awaiting hl ht ha hw hd]
  · rw [exec_laneAck, execLaneAck, if_pos hr]
  · rw [exec_laneNak, execLaneNak, State.replayLane_of_held hr]
  · rw [exec_pairingWindowExpiry, execPairingWindowExpiry_of_late hp hc, horphan]
  · have hheld : (s.laneAt l).replay.any (fun y => y.tag == e.tag) = true :=
      List.any_eq_true.mpr ⟨e, List.mem_of_find?_eq_some he, beq_self_eq_true _⟩
    rw [exec_laneReplayTimer, execLaneReplayTimer_of_unanswered he, State.replayLane_of_held hheld]

/-! ### Suspect lanes and the quiesce of a column (O41) -/

theorem exec_laneSuspect (l : Lane) (s : State) : exec (.laneSuspect l) s = execLaneSuspect l s := rfl
theorem exec_columnQuiesce (col : Nat) (s : State) : exec (.columnQuiesce col) s = execColumnQuiesce col s := rfl
theorem exec_quiesceHoldExpiry (col n : Nat) (s : State) :
    exec (.quiesceHoldExpiry col n) s = execQuiesceHoldExpiry col n s := rfl

theorem execLaneSuspect_of_tried {s : State} {l : Lane} (hh : (s.laneAt l).healthy = true)
    (hr : (s.laneAt l).replay.any (fun e => decide (e.tries ≥ 3)) = true) :
    let u := (s.modLane l (fun y =>
      { y with suspect := true, replay := [], pairing := none, awaiting := none, delivered := y.nextTag })).log (laneUnit l) 0x08 l.lane 0 0
    let v := match u.nextLane l with
      | some y => u.modLane y (fun z => z.takeOver (s.laneAt l).replay)
      | none => u.noLane l
    execLaneSuspect l s = .next (match l.link with
      | .footing => v
      | .column => (v.askVia l.idx).noteColumns [l.idx]
      | .channel => v.askVia l.idx) := by
  intro u v
  rw [execLaneSuspect, if_neg (by rw [hh, hr]; exact nofun)]
  cases l.link with
  | footing => rfl
  | column => rfl
  | channel => rfl

theorem execColumnQuiesce_of_startable {s : State} {col : Nat} {t : Takeover} (ht : s.startable .via col 0 0 = some t)
    (hl : ∀ l ∈ columnLanes col, (s.laneAt l).replay = []) (hq : ∀ c ∈ columnsOf (clusterOf col), (s.bundle c).quiescedAt = none) :
    let u := s.beginTakeover t
    execColumnQuiesce col s = .next { u with vch := { u.vch with
      bundles := u.vch.bundles.mod col Bundle.reset (fun b => { b with quiescedAt := some u.now }) } } := by
  intro u
  have hlanes : (columnLanes col).any (fun l => !(s.laneAt l).replay.isEmpty) = false :=
    List.any_eq_false.mpr (fun l h => by simp [hl l h])
  have hbundles : (columnsOf (clusterOf col)).any (fun c => (s.bundle c).quiescedAt.isSome) = false :=
    List.any_eq_false.mpr (fun c h => by simp [hq c h])
  simp only [execColumnQuiesce, ht, hlanes, hbundles, Bool.or_self, Bool.false_eq_true, if_false]
  rfl

theorem execQuiesceHoldExpiry_of_held {s : State} {col n q : Nat} (hq : (s.bundle col).quiescedAt = some q) (ht : 200000 ≤ s.since q) :
    let ok := decide ((s.bundle col).sparesUsed + n ≤ 4)
    let u := s.repairLanes col ok
    let u := { u with vch := { u.vch with bundles := u.vch.bundles.mod col Bundle.reset (fun b =>
      { sparesUsed := if ok then b.sparesUsed + n else b.sparesUsed, quiescedAt := none }) } }
    let u := if ok then u.logRepair 3 (col + 256 * n) else u
    let u := match u.rel.queue.find? (fun t => t.kind == .via && t.place == col && t.started.isSome) with
      | some t => if ok then u.endTakeover t else u.dropTakeover t
      | none => u
    let dead := fun (up : Bool) => (List.range 2).all (fun i => (u.laneAt { link := .channel, idx := col, up := up, lane := i }).failed)
    execQuiesceHoldExpiry col n s = .next (if (dead true || dead false) && !(u.channel col).retired then u.retireChannel col else u) := by
  rw [execQuiesceHoldExpiry, hq]
  exact if_neg (Nat.not_lt.mpr ht)

/-- Settles O41: the three commands of a suspect lane, each in the case in which it acts. -/
theorem suspectLanesAndQuiesce : Obligations.SuspectLanesAndQuiesce := by
  unfold Obligations.SuspectLanesAndQuiesce
  intro s
  refine ⟨?_, ?_, ?_⟩
  · intro l x hh hr
    rw [exec_laneSuspect]
    exact execLaneSuspect_of_tried hh hr
  · intro col t ht hl hq
    rw [exec_columnQuiesce]
    exact execColumnQuiesce_of_startable ht hl hq
  · intro col n q hq ht
    rw [exec_quiesceHoldExpiry]
    exact execQuiesceHoldExpiry_of_held hq ht

/-! ### Cytil transfers, replays and lanes (O43) -/

theorem exec_cytilTransfer (port : Nat) (hdr : List Byte) (body : List (List Byte)) (fec gcm : Bool) (s : State) :
    exec (.cytilTransfer port hdr body fec gcm) s = execCytilTransfer port hdr body fec gcm s := rfl
theorem exec_cytilNak (port seq : Nat) (s : State) : exec (.cytilNak port seq) s = execCytilNak port seq s := rfl
theorem exec_cytilIdle (port ack : Nat) (credits : List Nat) (s : State) :
    exec (.cytilIdle port ack credits) s = execCytilIdle port ack credits s := rfl
theorem exec_cytilReplayTimer (port : Nat) (s : State) : exec (.cytilReplayTimer port) s = execCytilReplayTimer port s := rfl
theorem exec_cytilLaneFail (port lane : Nat) (spare : Bool) (s : State) :
    exec (.cytilLaneFail port lane spare) s = execCytilLaneFail port lane spare s := rfl
theorem exec_cytilPortUp (port : Nat) (enc : Bool) (s : State) : exec (.cytilPortUp port enc) s = execCytilPortUp port enc s := rfl

section
variable {s : State} {port : Nat}

section
variable {hdr : List Byte} {body : List (List Byte)} {gcm : Bool} (hu : (s.port port).up = true)
include hu

theorem execCytilTransfer_of_bad {i : Nat} (hb : badFlit hdr body true (s.port port).encrypted = some i) :
    execCytilTransfer port hdr body true gcm s = .next (if (s.port port).discarding then s
      else (s.modPort port (fun p => { p with discarding := true })).emit (.cytilNak port (((s.port port).rxSeq + i) % 4096))) := by
  simp only [execCytilTransfer, hu, hb, Bool.not_true, Bool.false_eq_true, if_false, if_true]
  split <;> rfl

variable (hb : badFlit hdr body true (s.port port).encrypted = none) (ht : (headerOf hdr).type = 0)
  (hs : (headerOf hdr).seq = (s.port port).rxSeq)
include hb ht hs

theorem execCytilTransfer_of_unauthenticated (he : (s.port port).encrypted = true) :
    execCytilTransfer port hdr body true false s =
      .next (((s.modPort port (fun p => { p with authFail := true })).setNow (.authFail port)).portFails port 2) := by
  rw [he] at hb
  simp only [execCytilTransfer, hu, hb, ht, hs, he, Bool.not_true, Bool.not_false, Bool.false_eq_true, if_false, if_true, ne_eq,
    not_true_eq_false, Bool.and_self]

theorem execCytilTransfer_of_taken (ha : (s.port port).encrypted = false ∨ gcm = true) :
    let x := headerOf hdr
    execCytilTransfer port hdr body true gcm s = .next ((((s.modPort port (fun p =>
      { p.acked x.ack x.credits with
        rxSeq := (p.rxSeq + 1 + x.count) % 4096, discarding := false,
        owed := p.owed.set (vcOf x.op) (p.owed.getD (vcOf x.op) 0 + 1 + x.count) })).addBytes
          (fixedOf (port / 3) (0x48 + 0x10 * (port % 3))) (256 * (1 + x.count))).acceptXfer port x body).pump) := by
  have hauth : ((s.port port).encrypted && !gcm) = false := by rcases ha with h | h <;> simp [h]
  simp only [execCytilTransfer, hu, hb, ht, hs, hauth, Bool.not_true, Bool.false_eq_true, if_false, if_true, ne_eq, not_true_eq_false]
end

/-- What a replay of a port that is up, from a transfer that it holds, does. -/
theorem State.replayPort_of_held {hit : SentXfer → Bool} (hu : (s.port port).up = true) (hr : (s.port port).replay.any hit = true) :
    let n := ((s.port port).replay.dropWhile (fun e => !hit e)).length
    let u := (s.modPort port (fun p => { p with
      replay := replayXfers hit s.now p.replay, replays := (p.replays + n) % 2 ^ 32 })).count (port / 3) 0x051 none (0, 0) n
    s.replayPort port hit = if (u.port port).replay.any (fun e => decide (16 ≤ e.tries)) then u.portFails port 1 else u := by
  rw [State.replayPort, if_neg (by rw [hu, hr]; exact nofun)]
  rfl

section
variable {lane : Nat} (hb : bit (s.port port).laneFailed lane = false) (hl : lane < 8)
include hb hl

theorem execCytilLaneFail_of_new (spare : Bool) :
    let u := (s.modPort port (fun p => { p with laneFailed := p.laneFailed + 2 ^ lane })).log (unitPort port) 0x09 0 0 0
    execCytilLaneFail port lane spare s = .next (if (s.port port).laneFailed = 0 then
        if spare then (u.modPort port (fun p => { p with spareInUse := true })).replayPort port (fun _ => true)
        else (u.modPort port (fun p => { p with spareInUse := true })).portDown port
      else (u.modPort port (fun p => { p with halfWidth := true, spareInUse := false })).portDown port) := by
  intro u
  have hnone : ¬ (bit (s.port port).laneFailed lane || decide (lane > 8)) = true := by simp [hb]; omega
  have hspare : ¬ (lane = 8 ∧ (!(s.port port).spareInUse) = true) := fun h => absurd h.1 (Nat.ne_of_lt hl)
  rw [execCytilLaneFail, if_neg hnone]
  simp only [if_neg hspare]
  split
  · split <;> rfl
  · rfl
end

theorem execCytilPortUp_of_enabled (he : (s.port port).upEn = true) (hu : (s.port port).up = false) (hc : s.brd.linkRefclk = true)
    (hm : s.rel.mode ≠ 2) (hd : (s.domain (40 + port / 3)).state = .on) :
    let u := s.modPort port (fun p =>
      { p with up := true, encrypted := p.encrypt, keyEpoch := if p.encrypt then p.keyEpoch + 1 else p.keyEpoch, keyCount := 0,
               txSeq := 0, rxSeq := 0, replay := [], spent := [0, 0, 0, 0], owed := [0, 0, 0, 0], discarding := false })
    execCytilPortUp port (s.port port).encrypt s =
      .next (if (s.port port).encrypt then { u with ink := { u.ink with draws := u.ink.draws + 1 } } else u).recomputeShares.pump := by
  rw [execCytilPortUp, if_neg (by simp [he, hu, hc, hm, hd])]
end

/-- Settles O43: one case lemma for each outcome of a transfer, of a replay, of a lane and of a port that comes up. -/
theorem cytilTransfersAndReplay : Obligations.CytilTransfersAndReplay := by
  unfold Obligations.CytilTransfersAndReplay
  intro s port p
  refine ⟨?_, ?_, ?_, ?_, ?_, ?_⟩
  · intro hdr body gcm i hu hb
    rw [exec_cytilTransfer, execCytilTransfer_of_bad hu hb]
    exact ⟨fun h => by rw [if_pos h], fun h => by rw [if_neg (Bool.eq_false_iff.mp h)]⟩
  · intro hdr body gcm x hu hb ht hs
    refine ⟨?_, fun ha => ?_⟩
    · rintro he rfl
      rw [exec_cytilTransfer, execCytilTransfer_of_unauthenticated hu hb ht hs he]
    · rw [exec_cytilTransfer, execCytilTransfer_of_taken hu hb ht hs ha]
  · intro ack credits hu
    rw [exec_cytilIdle, execCytilIdle, if_pos hu]
  · intro hit i hu hr hi n u
    have hexec : exec i s = .next (s.replayPort port hit) := by
      rcases hi with ⟨seq, rfl, rfl⟩ | ⟨rfl, rfl⟩
      · rfl
      · rfl
    rw [hexec, State.replayPort_of_held hu hr]
    exact ⟨fun h => congrArg Host.Outcome.next (if_neg (Bool.eq_false_iff.mp h)), fun h => congrArg Host.Outcome.next (if_pos h)⟩
  · intro lane hb hl u
    refine ⟨fun h => ?_, fun h => ?_, fun h b => ?_⟩
    · rw [exec_cytilLaneFail, execCytilLaneFail_of_new hb hl, if_pos h, if_pos rfl]
    · rw [exec_cytilLaneFail, execCytilLaneFail_of_new hb hl, if_pos h, if_neg nofun]
    · rw [exec_cytilLaneFail, execCytilLaneFail_of_new hb hl, if_neg h]
  · intro he hu hc hm hd u
    have hup := execCytilPortUp_of_enabled he hu hc hm hd
    refine ⟨fun h => ?_, fun h => ?_⟩
    · rw [h] at hup
      rw [exec_cytilPortUp]
      exact hup
    · rw [h] at hup
      rw [exec_cytilPortUp]
      exact hup

/-! ### The time base and the registers of Cytil (O44) -/

theorem exec_timeSync (port master delay : Nat) (s : State) : exec (.timeSync port master delay) s = execTimeSync port master delay s := rfl
theorem exec_timeBaseAligned (master : Nat) (s : State) : exec (.timeBaseAligned master) s = execTimeBaseAligned master s := rfl
theorem exec_cylDomainWrite (value master : Nat) (s : State) : exec (.cylDomainWrite value master) s = execCylDomainWrite value master s := rfl
theorem exec_cylRouteWrite (dev value : Nat) (s : State) : exec (.cylRouteWrite dev value) s = execCylRouteWrite dev value s := rfl
theorem exec_cylPortCtrlWrite (port value : Nat) (s : State) :
    exec (.cylPortCtrlWrite port value) s = execCylPortCtrlWrite port value s := rfl

/-- A field that begins at bit 0. -/
theorem bits_zero_left (v w : Nat) : bits v 0 w = v % 2 ^ w := by simp [bits]

section
variable {s : State} {value master : Nat}

theorem execTimeSync_of_up {port delay : Nat} (hu : (s.port port).up = true) :
    let u := s.modPort port (fun p => { p with delay := delay })
    let m := (master + delay) % 2 ^ 48
    execTimeSync port master delay s = .next (if u.cyl.enable && !u.cyl.timeMaster && !u.holding then
        (if ahead m u.now then { u with now := (u.now + min 10 (elapsed u.now m)) % 2 ^ 48, slow := 0 }
         else { u with slow := min 10 (elapsed m u.now) }) else u) := by
  intro u m
  rw [execTimeSync, if_neg (by rw [hu]; exact nofun)]
  change (if u.cyl.enable && !u.cyl.timeMaster && !u.holding then _ else _) = _
  split
  · split <;> rfl
  · rfl

/-- What enabling the domain leaves, on a device that is not its master, with every galley disabled. -/
theorem execCylDomainWrite_of_enabling (he : s.cyl.enable = false) (h31 : value / 2 ^ 31 % 2 = 1) (h30 : value / 2 ^ 30 % 2 = 0) :
    let u : State := { s with cyl := { s.cyl with enable := true, timeMaster := false, device := value % 2 ^ 10 } }
    u.allDisabled = true → execCylDomainWrite value master s =
      .next (if ahead master s.now then { u with now := master % 2 ^ 48 }
        else if ahead s.now master then { u with holding := true } else u).pump := by
  intro u hd
  have hbit31 : bit value 31 = true := by simp only [bit, h31, beq_self_eq_true]
  have hbit30 : bit value 30 = false := by simp only [bit, h30]; rfl
  simp only [execCylDomainWrite, he, hbit31, hbit30, bits_zero_left, Bool.false_eq_true, Bool.not_true, or_self, if_false, if_true]
  simp only [u] at hd ⊢
  simp only [hd, Bool.not_true, Bool.false_eq_true, false_or, if_false]

/-- A write to a domain that is enabled names its master anew. -/
theorem execCylDomainWrite_of_enabled (he : s.cyl.enable = true) (h31 : value / 2 ^ 31 % 2 = 1) :
    execCylDomainWrite value master s = .next ({ s with cyl := { s.cyl with timeMaster := bit value 30 } } : State).pump := by
  have hbit31 : bit value 31 = true := by simp only [bit, h31, beq_self_eq_true]
  simp only [execCylDomainWrite, he, hbit31, true_or, if_true]

theorem execCylPortCtrlWrite_eq {port : Nat} :
    let u := s.modPort port (fun p => { p with upEn := bit value 0, encrypt := bit value 1 })
    execCylPortCtrlWrite port value s = .next (if (u.port port).up && !bit value 0 then u.portDown port else u) := by
  intro u
  rw [execCylPortCtrlWrite]
  change (if (u.port port).up && !bit value 0 then _ else _) = _
  split
  · rfl
  · rfl
end

/-- Settles O44: the time base first, then the three registers. -/
theorem cytilTimeAndRegisters : Obligations.CytilTimeAndRegisters := by
  unfold Obligations.CytilTimeAndRegisters
  intro s
  refine ⟨?_, rfl, ?_, ?_, ?_, ?_, ?_⟩
  · intro port master delay hu
    rw [exec_timeSync]
    exact execTimeSync_of_up hu
  · intro master hh ha
    rw [exec_timeBaseAligned, execTimeBaseAligned, if_pos (by rw [hh, ha]; rfl)]
  · intro value master he h31 h30 u hd
    rw [exec_cylDomainWrite, execCylDomainWrite_of_enabling he h31 h30 hd]
    refine ⟨fun h => by rw [if_pos h], fun h1 h2 => by rw [if_neg (Bool.eq_false_iff.mp h1), if_pos h2]⟩
  · intro value master he h31
    rw [exec_cylDomainWrite, execCylDomainWrite_of_enabled he h31]
  · intro dev value hd
    rw [exec_cylRouteWrite, execCylRouteWrite, if_neg (Nat.not_le.mpr hd), bits_zero_left]
  · intro port value u
    rw [exec_cylPortCtrlWrite]
    exact execCylPortCtrlWrite_eq

end Sys2Proof.Machine

/-! ## Settled obligations: DMA bursts, debug and configuration (O46, O52) -/

namespace Sys2Proof.Machine

/-! ### Bursts of DMA channels (O46) -/

theorem exec_dmaBurstStart (stack ch : Nat) (ans : HostAns) (s : State) :
    exec (.dmaBurstStart stack ch ans) s = execDmaBurstStart stack ch ans s := rfl
theorem exec_dmaEndOfCount (stack ch : Nat) (s : State) : exec (.dmaEndOfCount stack ch) s = execDmaEndOfCount stack ch s := rfl
theorem exec_dmaBurstTimeout (stack ch : Nat) (s : State) : exec (.dmaBurstTimeout stack ch) s = execDmaBurstTimeout stack ch s := rfl
theorem exec_dmaRetryStart (stack ch : Nat) (s : State) : exec (.dmaRetryStart stack ch) s = execDmaRetryStart stack ch s := rfl

section
variable {s : State} {stack ch : Nat} {ans : HostAns}

theorem execDmaBurstStart_of_burst (hr : (s.chan (32 * stack + ch)).running = true) (hb : (s.chan (32 * stack + ch)).burst.isSome = true) :
    execDmaBurstStart stack ch ans s = .next (s.runBurst (32 * stack + ch) ans) := by
  rw [execDmaBurstStart, if_pos (by rw [hr, hb]; rfl)]

theorem execDmaBurstStart_of_turn (hb : (s.chan (32 * stack + ch)).burst = none) (hr : (s.chan (32 * stack + ch)).ready = true)
    (hn : s.engineNext (32 * stack + ch) = some (32 * stack + ch)) :
    let g := 32 * stack + ch
    let u := (({ s with dma := { s.dma with arb := s.dma.arb.set (g / 8) (g % 8) } } : State).reserve g (s.burstLen g))
    execDmaBurstStart stack ch ans s = .next ((u.modChan g (fun d =>
      { d with burst := some { bytes := s.burstLen g, readDone := false, sent := 0, writesIssued := false } })).runBurst g ans) := by
  rw [execDmaBurstStart, if_neg (by simp [hb]), if_pos (by rw [hr, hn]; simp)]

section
variable (hr : (s.chan (32 * stack + ch)).running = true) (hz : (s.chan (32 * stack + ch)).remain = 0)
  (hb : (s.chan (32 * stack + ch)).burst = none)
include hr hz hb

theorem execDmaEndOfCount_of_done :
    let g := 32 * stack + ch
    let c := s.chan g
    let u := ((s.modChan g (fun d => { d with running := false, done := true, asserted := false, triggerPending := false })).setNow
      (.dmaDone g)).endInterrupt g
    let w := if c.cmd.isSome then u.segmentEnded g none else if c.shadowArmed then u.loadShadow g else u
    execDmaEndOfCount stack ch s = .next ((if c.triggerPending then w.triggerEach 32 [g] else w).endTrigger g) := by
  rw [execDmaEndOfCount, if_pos (by rw [hr, hz, hb]; rfl)]
end

/-- A burst with an access unanswered for 100 µs is overdue. -/
theorem State.burstOverdue_of_txn {g : Nat} {b : Burst} {x : Txn} {isRead : Bool} (hx : x ∈ s.fab.txns) (hk : x.kind = .dma g isRead)
    (ht : 100000 ≤ s.since x.issued) : s.burstOverdue g b = true := by
  refine List.any_eq_true.mpr ⟨x, hx, ?_⟩
  rw [hk]
  exact Bool.and_eq_true_iff.mpr ⟨decide_eq_true ht, beq_self_eq_true g⟩

theorem execDmaBurstTimeout_of_overdue {b : Burst} (hb : (s.chan (32 * stack + ch)).burst = some b)
    (hr : (s.chan (32 * stack + ch)).running = true) (ho : s.burstOverdue (32 * stack + ch) b = true) :
    execDmaBurstTimeout stack ch s = .next (s.burstFail (32 * stack + ch)) := by
  simp only [execDmaBurstTimeout, hb]
  rw [if_pos (by rw [hr, ho]; rfl)]

theorem execDmaRetryStart_of_due {t : Nat} (ht : (s.chan (32 * stack + ch)).retryAt = some t)
    (hr : (s.chan (32 * stack + ch)).running = true) (hd : elapsed t s.now < 2 ^ 47) :
    let g := 32 * stack + ch
    execDmaRetryStart stack ch s = .next (s.modChan g (fun d => { d with
      retryAt := none, burst := some { bytes := s.burstLen g, readDone := false, sent := 0, writesIssued := false } })) := by
  simp only [execDmaRetryStart, ht]
  rw [if_pos (Bool.and_eq_true_iff.mpr ⟨hr, decide_eq_true hd⟩)]
end

/-- Settles O46: the start, the end, the timeout and the retry of a burst. -/
theorem dmaBurstsRun : Obligations.DmaBurstsRun := by
  unfold Obligations.DmaBurstsRun
  intro s stack ch g c
  refine ⟨?_, ?_, ?_, ?_, ?_⟩
  · intro ans hr hb
    rw [exec_dmaBurstStart, execDmaBurstStart_of_burst hr hb]
  · intro ans hb hr hn u
    rw [exec_dmaBurstStart, execDmaBurstStart_of_turn hb hr hn]
  · intro hr hz hb u held
    have hend : exec (.dmaEndOfCount stack ch) s = .next (held (if c.cmd.isSome then u.segmentEnded g none
        else if c.shadowArmed then u.loadShadow g else u)) := execDmaEndOfCount_of_done hr hz hb
    refine ⟨fun hc => ?_, fun hc ha => ?_, fun hc ha => ?_⟩
    · rw [hend, if_pos hc]
    · rw [hend, if_neg (by rw [hc]; exact nofun), if_pos ha]
    · rw [hend, if_neg (by rw [hc]; exact nofun), if_neg (by rw [ha]; exact nofun)]
  · intro b x isRead hb hr hx hk ht
    rw [exec_dmaBurstTimeout, execDmaBurstTimeout_of_overdue hb hr (State.burstOverdue_of_txn hx hk ht)]
  · intro t ht hr hd
    rw [exec_dmaRetryStart, execDmaRetryStart_of_due ht hr hd]

/-! ### Debug, MSI-X, register writes and configuration requests (O52) -/

theorem exec_dbgUnlockGo (value : Nat) (s : State) : exec (.dbgUnlockGo value) s = execDbgUnlockGo value s := rfl
theorem exec_dbgLedgerSel (value : Nat) (s : State) : exec (.dbgLedgerSel value) s = execDbgLedgerSel value s := rfl
theorem exec_msixControlWrite (fn : Fn) (w : MsixWrite) (s : State) : exec (.msixControlWrite fn w) s = execMsixControlWrite fn w s := rfl
theorem exec_registerWrite (fn : Fn) (off width value : Nat) (ep : Bool) (s : State) :
    exec (.registerWrite fn off width value ep) s = execRegisterWrite fn off width value ep s := rfl
theorem exec_configRequest (fn : Fn) (reg : Nat) (s : State) : exec (.configRequest fn reg) s = execConfigRequest fn reg s := rfl

section
variable {u : Unlock} {level : Nat} {free absent : Bool}

theorem Unlock.go_of_no_level (h : level = 0 ∨ level = 3) : u.go level free absent = { u with result := 0x0202 } := by
  rw [Unlock.go, if_pos h]

theorem Unlock.go_of_signed (h : level = 1 ∨ (level = 2 ∧ absent = true)) (hl : u.locked = false)
    (hs : Config.debugSignatureOk (u.message level) u.response = true) :
    u.go level free absent = { u with result := 0, granted := max u.granted level } := by
  have hlevel : ¬ (level = 0 ∨ level = 3) := by omega
  have hall : ¬ (level = 2 ∧ (!absent) = true) := by
    rcases h with h | ⟨-, h⟩
    · exact fun hc => absurd (h.symm.trans hc.1) (by decide)
    · rw [h]; exact fun hc => Bool.noConfusion hc.2
  rw [Unlock.go, if_neg hlevel, if_neg (by rw [hl]; exact nofun), if_neg (by rw [hs]; exact nofun), if_neg hall]
end

section
variable {s : State} {value : Nat}

theorem execDbgUnlockGo_of_hold (h : bit value 31 = false) :
    execDbgUnlockGo value s = .next { s with unlock := { s.unlock with level := value % 2 ^ 2 } } := by
  rw [execDbgUnlockGo, if_pos (by rw [h]; rfl)]
  simp only [bits, Nat.pow_zero, Nat.div_one]

theorem execDbgUnlockGo_of_go (h : bit value 31 = true) :
    execDbgUnlockGo value s = .next ({ s with unlock := { s.unlock.go (value % 2 ^ 2) (bit (Config.freeByte s.freeAt 0).toNat 0)
      (s.lods.all (fun e => e.2.state == .absent)) with level := value % 2 ^ 2 } } : State).drawNonce.takeFree := by
  rw [execDbgUnlockGo, if_neg (by rw [h]; exact nofun)]
  simp only [bits, Nat.pow_zero, Nat.div_one]
end

section
variable {s : State} {off value : Nat} (ha : off % 4 = 0) (hv : value < 2 ^ 32)
include ha hv

/-- A write of one aligned word is a write of that word alone. -/
theorem State.writeWords_of_word (fn : Fn) : s.writeWords fn off 4 value = s.writeWordAt fn off value (2 ^ 32 - 1) := by
  have hw : ∀ v : Nat, v < 2 ^ 32 → wordOf v 0 = v ∧ wordOf v 1 = 0 ∧ wordOf v 2 = 0 := by
    intro v hv
    simp only [wordOf, bits]
    omega
  obtain ⟨hv0, -, -⟩ := hw value hv
  obtain ⟨hm0, hm1, hm2⟩ := hw (2 ^ 32 - 1) (by decide)
  have hbase : alignDown off 4 = off := by simp only [alignDown]; omega
  have hskip : ∀ (t : State) a v, t.writeWordAt fn a v 0 = t := fun t a v => by simp only [State.writeWordAt, if_true]
  simp only [State.writeWords, ha, hbase, Nat.mul_zero, Nat.pow_zero, Nat.mul_one, List.range_succ, List.range_zero, List.nil_append,
    List.cons_append, List.foldl_cons, List.foldl_nil, hv0, hm0, hm1, hm2, hskip, Nat.add_zero, Nat.reduceMul]

theorem execRegisterWrite_of_pf_word (h : off < 0x12100 ∨ 0x12140 ≤ off) :
    execRegisterWrite .pf off 4 value false s = .next (s.writeWordAt .pf off value (2 ^ 32 - 1)) := by
  have hmbx : ¬ (0x2100 ≤ off - 0x10000 ∧ off - 0x10000 < 0x2140) := by omega
  rw [execRegisterWrite, if_neg nofun, if_neg hmbx, State.writeWords_of_word ha hv]

theorem execRegisterWrite_of_vf_word (n : Nat)
    (h : (0x2000 ≤ off ∧ off < 0x2008) ∨ (0x2010 ≤ off ∧ off < 0x2100) ∨ (0x2140 ≤ off ∧ off < 0x8000)) :
    execRegisterWrite (.vf n) off 4 value false s = .next (s.writeWordAt (.vf n) off value (2 ^ 32 - 1)) := by
  have hmbx : ¬ (0x2100 ≤ off ∧ off < 0x2140) := by omega
  have hbell : ¬ off < 0x2000 := by omega
  have hbase : ¬ (0x2008 ≤ off ∧ off < 0x2010) := by omega
  have hsignal : ¬ (0x8000 ≤ off ∧ off < 0x10000) := by omega
  rw [execRegisterWrite, if_neg nofun]
  simp only [if_neg hmbx, if_neg hbell, if_neg hbase, if_neg hsignal, State.writeWords_of_word ha hv]
end

theorem execRegisterWrite_of_poison (fn : Fn) (off width value : Nat) (s : State) :
    execRegisterWrite fn off width value true s = .next { s with out := s.out ++ [.aer (fnKey fn) 1] } := by
  simp only [execRegisterWrite, if_true, State.advisory, State.emit]

/-- The bits of a configuration dword that the spec gives are bits of a dword. -/
theorem State.configWord_own_lt (s : State) (fn : Fn) (reg : Nat) : (s.configWord fn reg).2 < 2 ^ 32 := by
  unfold State.configWord
  dsimp only
  repeat' split
  all_goals norm_num

/-- Whatever stands beside them, the bits that are a register's own are those written. -/
theorem withOwn_and_own {new set own : Nat} (h : own < 2 ^ 32) : withOwn new set own &&& own = set &&& own := by
  apply Nat.eq_of_testBit_eq
  intro i
  have hnot : (2 ^ 32 - 1 - own).testBit i = (decide (i < 32) && !own.testBit i) := by
    rw [Nat.sub_sub, Nat.add_comm 1, Nat.testBit_two_pow_sub_succ h]
  simp only [withOwn, Nat.testBit_and, Nat.testBit_or, hnot]
  cases own.testBit i <;> simp

theorem execConfigRequest_of_ready {s : State} (h : s.brd.ready = true) (fn : Fn) (reg : Nat) :
    let w := s.configWord fn reg
    let t := s.emit (.configData (fnKey fn) reg (withOwn (leNat ((List.range 4).map (fun i => Config.freeByte s.freeAt i))) w.1 w.2))
    execConfigRequest fn reg s = .next (if w.2 = 2 ^ 32 - 1 then t else t.takeFree) := by
  rw [execConfigRequest, if_neg (by rw [h]; exact nofun)]

/-- Settles O52: the unlock, the ledger, the MSI-X tables, the words of registers, and configuration requests. -/
theorem debugAndConfigurationCommands : Obligations.DebugAndConfigurationCommands := by
  unfold Obligations.DebugAndConfigurationCommands
  intro s
  refine ⟨?_, ?_, ?_, ?_, ?_, ?_, ?_, ?_, ?_, ?_, ?_, ?_⟩
  · intro value h
    rw [exec_dbgUnlockGo, execDbgUnlockGo_of_hold h]
  · intro value h hl
    rw [exec_dbgUnlockGo, execDbgUnlockGo_of_go h, Unlock.go_of_no_level hl]
  · intro value h hl hk hs
    have hall : value % 2 ^ 2 = 1 ∨ (value % 2 ^ 2 = 2 ∧ s.lods.all (fun e => e.2.state == .absent) = true) :=
      hl.imp_right (fun ⟨h2, ha⟩ => ⟨h2, List.all_eq_true.mpr (fun e he => by rw [ha e he]; rfl)⟩)
    rw [exec_dbgUnlockGo, execDbgUnlockGo_of_go h, Unlock.go_of_signed hall hk hs]
  · intro value hg hu l
    have hok : ¬ (s.unlock.granted = 0 ∨ bits value 0 12 ≥ 928) := by
      simp only [bits, Nat.pow_zero, Nat.div_one]; omega
    rw [exec_dbgLedgerSel, execDbgLedgerSel, if_neg hok]
    simp only [bits, Nat.pow_zero, Nat.div_one, l]
  · intro value hg
    rw [exec_dbgLedgerSel, execDbgLedgerSel, if_pos (Or.inl hg)]
  · intro fn enable mask
    rfl
  · intro fn vector addr data masked hv
    rw [exec_msixControlWrite]
    exact if_neg (Nat.not_le.mpr hv)
  · intro off value ha h hv
    rw [exec_registerWrite, execRegisterWrite_of_pf_word ha hv h]
  · intro n off value ha h hv
    rw [exec_registerWrite, execRegisterWrite_of_vf_word ha hv n h]
  · intro fn off width value
    rw [exec_registerWrite, execRegisterWrite_of_poison]
  · intro fn reg h
    rw [exec_configRequest, execConfigRequest, if_pos (by rw [h]; rfl)]
    rfl
  · intro fn reg h w
    rw [exec_configRequest, execConfigRequest_of_ready h]
    refine ⟨withOwn (leNat ((List.range 4).map (fun i => Config.freeByte s.freeAt i))) w.1 w.2, _, rfl, ?_,
      withOwn_and_own (s.configWord_own_lt fn reg), ?_, fun hw => ?_⟩
    · split <;> rfl
    · split <;> rfl
    · rw [if_pos hw]; rfl

end Sys2Proof.Machine

/-! ## Settled obligations: regulation, power and takeovers (O53–O55, O57) -/

namespace Sys2Proof.Machine

/-! ### Turns, ages and breaches (O53) -/

theorem exec_turnEnd (d : Nat) (s : State) : exec (.turnEnd d) s = execTurnEnd d s := rfl
theorem exec_requestAgeRaise (req : Nat) (s : State) : exec (.requestAgeRaise req) s = execRequestAgeRaise req s := rfl
theorem exec_floorBreach (lod res cls : Nat) (s : State) : exec (.floorBreach lod res cls) s = execFloorBreach lod res cls s := rfl
theorem exec_latencyBreachClose (lod : Nat) (s : State) : exec (.latencyBreachClose lod) s = execLatencyBreachClose lod s := rfl

section
variable {s : State} {d : Nat} (hq : s.turnHolder d = none ∨ 1000 * (s.turn d).quantum ≤ s.since (s.turn d).since)
include hq

/-- Without a holder, or after its quantum, the turn of a cluster may end. -/
theorem State.turn_may_end : ¬ ((s.turnHolder d).isSome && decide (s.since (s.turn d).since < 1000 * (s.turn d).quantum)) = true := by
  rcases hq with h | h
  · simp [h]
  · simp [Nat.not_lt.mpr h]

theorem execTurnEnd_of_one {w : Nat × Nat} (hw : (s.sharers d).filter (fun x => s.wantsTurn x.1) = [w]) :
    execTurnEnd d s = .next (if s.turnHolder d = some w.1 then s.keepTurn d (s.turn d).credit
      else s.switchTurn d (s.turnHolder d) w.1 (s.turn d).credit) := by
  rw [execTurnEnd, if_neg (State.turn_may_end hq)]
  simp only [hw]
  split <;> rfl

theorem execTurnEnd_of_many {v w : Nat × Nat} {r : List (Nat × Nat)} {b : Nat} {credit : Tab Int}
    (hw : (s.sharers d).filter (fun x => s.wantsTurn x.1) = v :: w :: r) (hn : nextTurn (s.turn d).credit (v :: w :: r) = some (b, credit)) :
    execTurnEnd d s = .next (if s.turnHolder d = some b then s.keepTurn d credit else s.switchTurn d (s.turnHolder d) b credit) := by
  rw [execTurnEnd, if_neg (State.turn_may_end hq)]
  simp only [hw, hn]
  split <;> rfl
end

section
variable {s : State}

/-- A request, or a transfer that waits at its port, whose age is 4 µs has something to raise. -/
theorem State.age_due {req : Nat} (h : (∃ q ∈ s.qos.queue, q.id = req ∧ q.aged = false ∧ 4000 ≤ s.since q.since) ∨
      (∃ x ∈ s.cyl.waiting, x.req = req ∧ x.aged = false ∧ 4000 ≤ s.since x.sentAt)) :
    (s.qos.queue.any (fun q => q.id == req && !q.aged && decide (s.since q.since ≥ 4000)) ||
      s.cyl.waiting.any (fun x => x.req == req && !x.aged && decide (s.since x.sentAt ≥ 4000))) = true := by
  rw [Bool.or_eq_true, List.any_eq_true, List.any_eq_true]
  refine h.imp ?_ ?_
  · rintro ⟨q, hm, hid, ha, ht⟩
    exact ⟨q, hm, by simp [hid, ha, ht]⟩
  · rintro ⟨x, hm, hid, ha, ht⟩
    exact ⟨x, hm, by simp [hid, ha, ht]⟩

theorem execLatencyBreachClose_of_quiet {lod : Nat} (hb : (s.lod lod).breaches.contains (6, 6) = true)
    (ht : 1000000 ≤ s.since (s.lod lod).lastLate) : execLatencyBreachClose lod s = .next (s.setBreach lod 6 6 0 false) := by
  rw [execLatencyBreachClose, if_pos (Bool.and_eq_true_iff.mpr ⟨hb, decide_eq_true ht⟩)]
end

/-- Settles O53: the turn, the age of a request, and the two kinds of breach. -/
theorem regulationCommandsRun : Obligations.RegulationCommandsRun := by
  unfold Obligations.RegulationCommandsRun
  intro s
  refine ⟨?_, ?_, ?_, ?_⟩
  · intro d t holder ws hq
    refine ⟨fun w hw => ⟨fun h => ?_, fun h => ?_⟩, fun v w r b credit hw hn => ⟨fun h => ?_, fun h => ?_⟩⟩
    · rw [exec_turnEnd, execTurnEnd_of_one hq hw]
      exact congrArg Host.Outcome.next (if_pos h)
    · rw [exec_turnEnd, execTurnEnd_of_one hq hw]
      exact congrArg Host.Outcome.next (if_neg h)
    · rw [exec_turnEnd, execTurnEnd_of_many hq hw (hw ▸ hn)]
      exact congrArg Host.Outcome.next (if_pos h)
    · rw [exec_turnEnd, execTurnEnd_of_many hq hw (hw ▸ hn)]
      exact congrArg Host.Outcome.next (if_neg h)
  · intro req h
    rw [exec_requestAgeRaise]
    exact if_pos (State.age_due h)
  · intro lod res cls f floor
    refine ⟨fun h => ?_, fun h1 h2 => ?_⟩
    · rw [exec_floorBreach, execFloorBreach]
      exact if_pos h
    · rw [exec_floorBreach, execFloorBreach]
      exact (if_neg (Nat.not_le.mpr h1)).trans (if_pos h2)
  · intro lod hb ht
    rw [exec_latencyBreachClose, execLatencyBreachClose_of_quiet hb ht]

/-! ### Domains (O54) -/

theorem exec_domainWake (d : Nat) (s : State) : exec (.domainWake d) s = execDomainWake d s := rfl
theorem exec_rampComplete (d : Nat) (s : State) : exec (.rampComplete d) s = execRampComplete d s := rfl
theorem exec_idleGateExpiry (d : Nat) (s : State) : exec (.idleGateExpiry d) s = execIdleGateExpiry d s := rfl
theorem exec_regulatorOvercurrent (d : Nat) (s : State) : exec (.regulatorOvercurrent d) s = execRegulatorOvercurrent d s := rfl
theorem exec_hiccupRetry (d : Nat) (s : State) : exec (.hiccupRetry d) s = execHiccupRetry d s := rfl
theorem exec_phaseFail (d : Nat) (s : State) : exec (.phaseFail d) s = execPhaseFail d s := rfl
theorem exec_sensePathOpen (d mv : Nat) (s : State) : exec (.sensePathOpen d mv) s = execSensePathOpen d mv s := rfl
theorem exec_crackedConnection (d : Nat) (steps : List (Nat × Nat)) (s : State) :
    exec (.crackedConnection d steps) s = execCrackedConnection d steps s := rfl

section
variable {s : State} {d : Nat}

theorem execRegulatorOvercurrent_of_on (hd : d < 49) (hs : (s.domain d).state = .ramp ∨ (s.domain d).state = .on) :
    let x := s.domain d
    let u := s.log (unitRegulator d) 0x0C (x.fails + 1) 0 0
    let v := (if x.state = .on then u.domainStops d else u).switchOff d
    execRegulatorOvercurrent d s = .next (if 2 ≤ x.fails then
        (v.modDomain d (fun y => { y with state := .failed, fails := 3, retryAt := none })).domainFailed d
      else v.modDomain d (fun y => { y with fails := x.fails + 1, retryAt := some ((v.now + 1000000) % 2 ^ 48) })) := by
  intro x u v
  have hlive : ¬ (d ≥ 49 ∨ (!((s.domain d).state == .ramp || (s.domain d).state == .on)) = true) := by
    rintro (h | h)
    · exact absurd hd (Nat.not_lt.mpr h)
    · rcases hs with hs | hs <;> rw [hs] at h <;> exact Bool.noConfusion h
  rw [execRegulatorOvercurrent, if_neg hlive]
  by_cases hf : 2 ≤ x.fails
  · rw [if_pos hf]
    exact if_pos (Nat.add_le_add_right hf 1)
  · rw [if_neg hf]
    exact if_neg (show ¬ x.fails + 1 ≥ 3 by omega)

theorem execPhaseFail_of_phase {n : Nat} (hd : d < 50) (hn : (s.domain d).phasesOk = n + 1) :
    let u := s.modDomain d (fun x => { x with phasesOk := n })
    execPhaseFail d s = .next (if Domain.phases d ≤ n then u.askTakeover
      { kind := .phase, stack := regulatorStack d, place := d, bank := n, row := 0, asked := u.now, started := none } else u.noteLoss) := by
  intro u
  have hlive : ¬ (n + 1 = 0 ∨ d ≥ 50) := by omega
  simp only [execPhaseFail, hn, if_neg hlive, Nat.add_sub_cancel]
  split <;> rfl

theorem execPhaseFail_of_none (hd : 50 ≤ d) : execPhaseFail d s = .next s := by
  rw [execPhaseFail, if_pos (Or.inr hd)]

theorem execSensePathOpen_of_none {mv : Nat} (hd : 50 ≤ d) : execSensePathOpen d mv s = .next s := by
  rw [execSensePathOpen, if_pos (Or.inr hd)]

theorem execCrackedConnection_of_none {steps : List (Nat × Nat)} (hd : 50 ≤ d) : execCrackedConnection d steps s = .next s := by
  rw [execCrackedConnection, if_pos (Or.inr (Or.inr (Or.inr hd)))]

theorem execCrackedConnection_of_droop {steps : List (Nat × Nat)} (hd : d < 50)
    (hl : ((steps.filter (fun x => decide (x.1 ≥ 5))).take 64).length = 64)
    (hx : 48 ≤ ((steps.filter (fun x => decide (x.1 ≥ 5))).take 64).countP (excessDroop d)) (hc : (s.domain d).cracked = false) :
    execCrackedConnection d steps s =
      .next (((s.modDomain d (fun x => { x with cracked := true, capped := true })).log (unitRegulator d) 0x0B 0 0 0).noteColumns
        (domainColumns d)) := by
  rw [execCrackedConnection, if_neg]
  rintro (h | h | h | h)
  · rw [hl] at h; exact Nat.lt_irrefl _ h
  · exact absurd hx (Nat.not_le.mpr h)
  · rw [hc] at h; exact Bool.noConfusion h
  · exact absurd hd (Nat.not_lt.mpr h)
end

/-- Settles O54: a wake, a ramp, an idle gate, the faults of a regulator, and the domain numbers that name none. -/
theorem domainsWakeFailAndGate : Obligations.DomainsWakeFailAndGate := by
  unfold Obligations.DomainsWakeFailAndGate
  intro s d x
  refine ⟨?_, ?_, ?_, ?_, ?_, ?_, ?_, ?_, ?_⟩
  · intro hn ha u
    rw [exec_domainWake, execDomainWake, if_pos ⟨hn, ha⟩]
  · intro hs ht
    rw [exec_rampComplete, execRampComplete, if_pos ⟨hs, ht⟩]
  · intro hd hs hg hb ht
    rw [exec_idleGateExpiry, execIdleGateExpiry, if_pos ⟨hd, hs, hg, by rw [hb]; rfl, ht⟩]
  · intro hd hs u v
    refine ⟨fun hf => ?_, fun hf => ?_⟩
    · rw [exec_regulatorOvercurrent, execRegulatorOvercurrent_of_on hd hs]
      exact congrArg Host.Outcome.next (if_neg (Nat.not_le.mpr hf))
    · rw [exec_regulatorOvercurrent, execRegulatorOvercurrent_of_on hd hs]
      exact congrArg Host.Outcome.next (if_pos hf)
  · intro t hs hr hp
    have hdue : (s.domain d).state = .off ∧ (s.domain d).retryAt.isSome = true ∧ s.passed (s.domain d).retryAt = true :=
      ⟨hs, by rw [hr]; rfl, by rw [hr]; exact hp⟩
    rw [exec_hiccupRetry, execHiccupRetry]
    exact if_pos hdue
  · intro n hd hn u
    refine ⟨fun h => ?_, fun h => ?_⟩
    · rw [exec_phaseFail, execPhaseFail_of_phase hd hn]
      exact congrArg Host.Outcome.next (if_pos h)
    · rw [exec_phaseFail, execPhaseFail_of_phase hd hn]
      exact congrArg Host.Outcome.next (if_neg (Nat.not_le.mpr h))
  · intro mv hd hm
    rw [exec_sensePathOpen, execSensePathOpen, if_neg (by omega)]
  · intro hd
    refine ⟨?_, fun mv => ?_, fun steps => ?_⟩
    · rw [exec_phaseFail, execPhaseFail_of_none hd]
    · rw [exec_sensePathOpen, execSensePathOpen_of_none hd]
    · rw [exec_crackedConnection, execCrackedConnection_of_none hd]
  · intro steps xs hd hl hx hc
    rw [exec_crackedConnection, execCrackedConnection_of_droop hd hl hx hc]

/-! ### The power limiter and the brake (O55) -/

theorem exec_powerLimiterUpdate (mw vin rise : Nat) (dies : List Nat) (s : State) :
    exec (.powerLimiterUpdate mw vin rise dies) s = execPowerLimiterUpdate mw vin rise dies s := rfl
theorem exec_brakeAssert (s : State) : exec .brakeAssert s = execBrakeAssert s := rfl

section
variable {s : State}

theorem execPowerLimiterUpdate_of_unready {mw vin rise : Nat} {dies : List Nat} (hf : s.pwr.frac = 0) :
    execPowerLimiterUpdate mw vin rise dies s = .next { s with pwr := { s.pwr with samples := (mw :: s.pwr.samples).take 1000 } } := by
  rw [execPowerLimiterUpdate]
  exact if_pos (Or.inl hf)

theorem execPowerLimiterUpdate_of_ready {mw vin rise : Nat} {dies : List Nat} (hf : s.pwr.frac ≠ 0) (hd : s.brd.dead = false) :
    let u : State := { s with pwr := { s.pwr with samples := (mw :: s.pwr.samples).take 1000 } }
    let frac := if 500000 < vin then max 8 (s.pwr.frac - 4) else s.pwr.frac
    let r := limiterStep frac s.pwr.memCap u.pwr.samples.sum u.pwr.samples.length mw u.effectiveLimit
      (decide (vin ≤ 500000) && u.nextWake.isNone && u.wakeAdmitted rise)
    let w := if r.raised then u.noteWake rise else u
    execPowerLimiterUpdate mw vin rise dies s = .next (({ w with pwr := { w.pwr with
      frac := r.frac, memCap := r.memCap, source := if r.frac = 64 ∧ r.memCap = 8 then 0 else w.limitSource,
      limitEvents := if r.lowered then (w.pwr.limitEvents + 1) % 2 ^ 32 else w.pwr.limitEvents } } : State).noteRates.noteStretch dies
      |>.countStretch dies) := by
  have hlive : ¬ (s.pwr.frac = 0 ∨ s.brd.dead = true) := fun h => h.elim hf (fun h => by rw [hd] at h; exact Bool.noConfusion h)
  have hlow : decide (vin ≤ 500000) = !decide (vin > 500000) := by
    rw [← decide_not, decide_eq_decide, gt_iff_lt, Nat.not_lt]
  rw [hlow]
  simp only [execPowerLimiterUpdate, if_neg hlive, decide_eq_true_eq]
  rfl

section
variable (hb : s.pwr.brakeAsserted = false) (hs : 3 ≤ s.brd.startStep)
include hb hs

theorem execBrakeAssert_of_started :
    let inst := s.pwr.samples.headD 0
    execBrakeAssert s = .next (({ s with pwr := { s.pwr with
      brakeAsserted := true, brakeEvent := true,
      frac := if s.pwr.frac = 0 ∨ inst = 0 then s.pwr.frac
        else max 8 (min s.pwr.frac (s.pwr.frac * (1000 * s.pwr.brakeWatts) / inst)) } } : State).setNow .brakeEvent).noteRates := by
  have hlive : ¬ (s.pwr.brakeAsserted = true ∨ s.brd.startStep < 3) := by rw [hb]; simp; omega
  rw [execBrakeAssert, if_neg hlive]
end
end

/-- Settles O55: the limiter before and after configuration readiness, and the brake. -/
theorem limiterAndBrake : Obligations.LimiterAndBrake := by
  unfold Obligations.LimiterAndBrake
  intro s
  refine ⟨?_, ?_, ?_, rfl⟩
  · intro mw vin rise dies hf
    rw [exec_powerLimiterUpdate, execPowerLimiterUpdate_of_unready hf]
  · intro mw vin rise dies hf hd
    rw [exec_powerLimiterUpdate]
    exact execPowerLimiterUpdate_of_ready hf hd
  · intro hb hs
    rw [exec_brakeAssert, execBrakeAssert_of_started hb hs]
    refine ⟨fun inst r hx hi hf => ?_, fun hf => ?_⟩
    · have hlive : ¬ (s.pwr.frac = 0 ∨ inst = 0) := fun h => h.elim hf hi
      rw [hx, List.headD_cons, if_neg hlive]
    · rw [if_pos (Or.inl hf)]

/-! ### Takeovers and the entry of rescue mode (O57) -/

theorem exec_coreTakeover (col : Nat) (s : State) : exec (.coreTakeover col) s = execCoreTakeover col s := rfl
theorem exec_rowTakeover (col bank row : Nat) (s : State) : exec (.rowTakeover col bank row) s = execRowTakeover col bank row s := rfl
theorem exec_bankTakeover (col bank : Nat) (s : State) : exec (.bankTakeover col bank) s = execBankTakeover col bank s := rfl
theorem exec_hbmLaneRemap (ch : Nat) (spare : Bool) (s : State) : exec (.hbmLaneRemap ch spare) s = execHbmLaneRemap ch spare s := rfl
theorem exec_takeoverCompleted (k : Nat) (ok : Bool) (s : State) :
    exec (.takeoverCompleted k ok) s = execTakeoverCompleted k ok s := rfl
theorem exec_rescueEntry (s : State) : exec .rescueEntry s = execRescueEntry s := rfl

section
variable {s : State} {t : Takeover}

theorem execCoreTakeover_of_startable {col : Nat} (h : s.startable .core col 0 0 = some t) : execCoreTakeover col s = .next
    (if s.rel.spareSpent.contains (clusterOf col) then (s.dropTakeover t).loseCore col else s.beginTakeover t) := by
  simp only [execCoreTakeover, h]
  split <;> rfl

theorem execRowTakeover_of_startable {col bank row : Nat} (h : s.startable .row col bank row = some t) : execRowTakeover col bank row s =
    .next (if (s.sliceAt col).rowsUsed bank < 32 then s.beginTakeover t else (s.dropTakeover t).askBank col bank) := by
  simp only [execRowTakeover, h]
  by_cases hr : (s.sliceAt col).rowsUsed bank < 32
  · rw [if_pos hr, if_neg (Nat.not_le.mpr hr)]
  · rw [if_neg hr, if_pos (Nat.not_lt.mp hr)]

theorem execBankTakeover_of_startable {col bank : Nat} (h : s.startable .bank col bank 0 = some t) : execBankTakeover col bank s = .next
    (if (s.sliceAt col).spareBank then (s.dropTakeover t).retireSlice col else s.beginTakeover t) := by
  simp only [execBankTakeover, h]
  split <;> rfl

theorem execHbmLaneRemap_of_startable {ch : Nat} (h : s.startable .hbmLane ch 0 0 = some t) (spare : Bool) :
    execHbmLaneRemap ch spare s = .next (if spare then (s.beginTakeover t).modChannel ch (fun c => { c with repairing := true })
      else (s.dropTakeover t).retireChannel ch) := by
  simp only [execHbmLaneRemap, h]
  split <;> rfl

theorem execTakeoverCompleted_of_running {k : Nat} (h : s.running k = some t) (ok : Bool) :
    execTakeoverCompleted k ok s = .next (s.finishTakeover t ok) := by
  simp only [execTakeoverCompleted, h]

theorem execTakeoverCompleted_of_phase {k : Nat} {ok : Bool} (hr : s.running k = none) (hn : s.nextTakeover k = some t)
    (hk : t.kind = .phase) (ho : s.takeoversOpen = true) :
    execTakeoverCompleted k ok s = .next ((s.beginTakeover t).endTakeover { t with started := some s.now }) := by
  simp only [execTakeoverCompleted, hr, hn]
  rw [if_pos ⟨hk, ho⟩]

theorem State.finishTakeover_of_core (hk : t.kind = .core) (ht : 10000 ≤ s.since (t.started.getD 0)) :
    s.finishTakeover t true = (s.takeColumn t.place).endTakeover t := by
  simp only [State.finishTakeover, hk, Nat.not_lt.mpr ht, if_false, if_true]

theorem State.finishTakeover_of_row (hk : t.kind = .row) :
    s.finishTakeover t true = (s.takeRow t.place t.bank t.row).endTakeover t := by
  simp only [State.finishTakeover, hk, if_true]

theorem State.finishTakeover_of_bank (hk : t.kind = .bank) (ht : 32768 ≤ s.since (t.started.getD 0)) :
    s.finishTakeover t true = (s.takeBank t.place t.bank).endTakeover t := by
  simp only [State.finishTakeover, hk, Nat.not_lt.mpr ht, if_false, if_true]

theorem State.finishTakeover_of_lost_lane (hk : t.kind = .hbmLane) :
    s.finishTakeover t false = (s.dropTakeover t).retireChannel t.place := by
  simp only [State.finishTakeover, hk, Bool.false_eq_true, if_false]
end

/-- Settles O57: a startable takeover begins or is dropped by its kind, and `finishTakeover` ends the one that runs. -/
theorem takeoversRun : Obligations.TakeoversRun := by
  unfold Obligations.TakeoversRun
  intro s
  refine ⟨?_, ?_, ?_, ?_, ?_, ?_, ?_⟩
  · intro col t h
    rw [exec_coreTakeover, execCoreTakeover_of_startable h]
  · intro col bank row t h
    rw [exec_rowTakeover, execRowTakeover_of_startable h]
  · intro col bank t h
    rw [exec_bankTakeover, execBankTakeover_of_startable h]
  · intro ch t h
    refine ⟨?_, ?_⟩
    · rw [exec_hbmLaneRemap, execHbmLaneRemap_of_startable h, if_pos rfl]
    · rw [exec_hbmLaneRemap, execHbmLaneRemap_of_startable h, if_neg nofun]
  · intro k t ok h
    refine ⟨fun hk ht => ?_, fun hk => ?_, fun hk ht => ?_, fun hk => ?_, ?_⟩
    · rw [exec_takeoverCompleted, execTakeoverCompleted_of_running h, State.finishTakeover_of_core hk ht]
    · rw [exec_takeoverCompleted, execTakeoverCompleted_of_running h, State.finishTakeover_of_row hk]
    · rw [exec_takeoverCompleted, execTakeoverCompleted_of_running h, State.finishTakeover_of_bank hk ht]
    · rw [exec_takeoverCompleted, execTakeoverCompleted_of_running h, State.finishTakeover_of_lost_lane hk]
    · rw [exec_takeoverCompleted, execTakeoverCompleted_of_running h]
  · intro k t ok hr hn hk ho
    rw [exec_takeoverCompleted, execTakeoverCompleted_of_phase hr hn hk ho]
  · intro c h
    simp only [exec_rescueEntry, execRescueEntry, h]

end Sys2Proof.Machine

/-! ## Settled obligations: Innkeeper, traces and the board (O58–O60) -/

namespace Sys2Proof.Machine

/-! ### The Innkeeper (O58) -/

theorem exec_innkeeperFailover (s : State) : exec .innkeeperFailover s = execInnkeeperFailover s := rfl
theorem exec_failoverComplete (s : State) : exec .failoverComplete s = execFailoverComplete s := rfl
theorem exec_innkeeperCheckpoint (s : State) : exec .innkeeperCheckpoint s = execInnkeeperCheckpoint s := rfl
theorem exec_telemetrySnapshot (s : State) : exec .telemetrySnapshot s = execTelemetrySnapshot s := rfl
theorem exec_supervisorHold (s : State) : exec .supervisorHold s = execSupervisorHold s := rfl
theorem exec_supervisorRelease (s : State) : exec .supervisorRelease s = execSupervisorRelease s := rfl
theorem exec_antiRollbackFuse (s : State) : exec .antiRollbackFuse s = execAntiRollbackFuse s := rfl
theorem exec_repairLogWrite (s : State) : exec .repairLogWrite s = execRepairLogWrite s := rfl
theorem exec_pldmPlatformRequest (tr : Nat) (xs : List Nat) (s : State) :
    exec (.pldmPlatformRequest tr xs) s = execPldmPlatformRequest tr xs s := rfl
theorem exec_pldmFirmwareUpdate (tr : Nat) (img : List Byte) (ok : Bool) (s : State) :
    exec (.pldmFirmwareUpdate tr img ok) s = execPldmFirmwareUpdate tr img ok s := rfl
theorem exec_spdmRequest (tr kind : Nat) (nonce : List Nat) (s : State) :
    exec (.spdmRequest tr kind nonce) s = execSpdmRequest tr kind nonce s := rfl

/-- An interrupt leaves the Innkeeper's own state. -/
theorem State.raise_ink (s : State) (k v : Nat) : (s.raise k v).ink = s.ink := by
  unfold State.raise
  dsimp only
  split <;> rfl

theorem State.requestsWait_of_failover {s : State} (h : s.ink.failoverAt.isSome = true ∨ s.higherDuty = true) :
    s.requestsWait = true := Bool.or_eq_true_iff.mpr h

theorem State.requestsWait_of_free {s : State} (hf : s.ink.failoverAt = none) (hd : s.higherDuty = false) : s.requestsWait = false := by
  rw [State.requestsWait, hf, hd]
  rfl

/-- What waited is answered in its order: the replies first, then the images. -/
theorem State.serveRequests_of_free {s : State} (h : s.requestsWait = false) :
    s.serveRequests = s.ink.pldmWaiting.foldl (fun (v : State) (x : Nat × List Byte × Bool) => v.pldmImage x.1 x.2.1 x.2.2)
      (s.ink.replies.foldl (fun (v : State) (r : Nat × List Nat) => v.emit (.mctp r.1 r.2))
        { s with ink := { s.ink with replies := [], pldmWaiting := [] } }) := by
  rw [State.serveRequests, if_neg (by rw [h]; exact nofun)]

section
variable {s : State}

theorem execInnkeeperFailover_of_last (hr : s.ink.firmwareRuns = true) (hp : s.ink.pairsLeft = 1) : execInnkeeperFailover s = .next { s with
    ink := { s.ink with pairsLeft := 0, standbyReady := false }, thm := { s.thm with tripDue := true } } := by
  have hlive : ¬ ((!s.ink.firmwareRuns) = true ∨ s.ink.pairsLeft = 0) := by rw [hr, hp]; decide
  rw [execInnkeeperFailover, if_neg hlive, if_pos hp]

theorem execInnkeeperFailover_of_standby (hr : s.ink.firmwareRuns = true) (hp : 2 ≤ s.ink.pairsLeft) :
    let u : State := s.mailOps.foldl (fun (s : State) (e : Nat × AdminOp) => s.failOp e.1 e.2) s
    execInnkeeperFailover s = .next (({ u with ink := { u.ink with
      pairsLeft := 1, standbyReady := false, failoverAt := some u.now } } : State).log unitInnkeeper 0x0D innkeeperKind 0 0) := by
  have hlive : ¬ ((!s.ink.firmwareRuns) = true ∨ s.ink.pairsLeft = 0) := by rw [hr]; simp; omega
  rw [execInnkeeperFailover, if_neg hlive, if_neg (by omega)]

/-- The standby made active: the failover is over and entered in the ledger. -/
def State.failedOver (s : State) : State :=
  let u : State := { s with ink := { s.ink with
    failoverAt := none, activeStack2 := true, roundDue := s.nextRoundDue, onTime := 0,
    carried := s.ink.carried.filter (fun (e : Nat × AdminOp) => e.2.opcode != 0x0F04 && e.2.opcode != 0x0F08) } }
  let u := u.log unitInnkeeper 0x0E innkeeperKind 0 0
  let u : State := { u with rel := { u.rel with takeovers := (u.rel.takeovers + 1) % 2 ^ 32 } }
  u.raise 256 1

theorem State.failedOver_failoverAt : s.failedOver.ink.failoverAt = none := by
  rw [State.failedOver, State.raise_ink]
  rfl

theorem execFailoverComplete_of_failover (hf : s.ink.failoverAt.isSome = true) :
    execFailoverComplete s = .next s.failedOver.serveRequests := by
  have hlive : ¬ s.ink.failoverAt.isNone = true := by rw [Option.isNone_iff_eq_none]; rintro h; rw [h] at hf; exact Bool.noConfusion hf
  rw [execFailoverComplete, if_neg hlive]
  rfl

section
variable (hr : s.ink.firmwareRuns = true)
include hr

theorem execInnkeeperCheckpoint_of_due (hf : s.ink.failoverAt = none) (ht : 1000000 ≤ s.since s.ink.checkpointAt) :
    execInnkeeperCheckpoint s =
      .next { s with ink := { s.ink with checkpointAt := s.now, standbyReady := decide (s.ink.pairsLeft = 2) } } := by
  rw [execInnkeeperCheckpoint, if_neg (by simp [hr, hf]; omega)]

theorem execTelemetrySnapshot_of_due (hf : s.ink.failoverAt = none) (hw : s.telemetryWaits = false)
    (ht : telemetryInterval s.ink.shedLevel ≤ s.since s.ink.snapshotAt) : execTelemetrySnapshot s = .next { s with ink := { s.ink with
      snapshot := s.snapshotBytes, snapshotAt := s.now, pldmTemps := s.thm.locTemp, pldmPower := s.pwr.inputMw } } := by
  rw [execTelemetrySnapshot, if_neg (by simp [hr, hf, hw]; omega)]

theorem execSupervisorHold_of_late (hh : s.ink.supervisorHold = false) (hl : 5000000 < s.policyLateness) :
    execSupervisorHold s = .next { s with ink := { s.ink with
      supervisorHold := true, supervisorEvents := (s.ink.supervisorEvents + 1) % 2 ^ 32, onTime := 0 } } := by
  rw [execSupervisorHold, if_neg (by simp [hr, hh]; omega)]
  rfl
end

theorem execAntiRollbackFuse_of_lower (hb : s.brd.ready = true) (hs : s.ink.fusedSvn < s.ink.bootSvn) (hr : s.thm.rounds ≠ 0)
    (hd : s.dieOutside = none) : execAntiRollbackFuse s = .next { s with ink := { s.ink with fusedSvn := s.ink.bootSvn } } := by
  rw [execAntiRollbackFuse, if_pos ⟨hb, hs, hr, by rw [hd]; rfl⟩]

theorem execRepairLogWrite_of_waiting {e : Nat × Nat} {r : List (Nat × Nat)} (hw : s.ink.repairWaiting = e :: r) (hd : s.dieOutside = none)
    (hr : s.thm.rounds ≠ 0) :
    execRepairLogWrite s = .next { s with ink := { s.ink with repairLog := s.ink.repairLog ++ [e], repairWaiting := r } } := by
  simp only [execRepairLogWrite, hw]
  rw [if_neg (by simp [hd, hr])]

section
variable {tr : Nat} (hr : s.ink.firmwareRuns = true) (ht : s.transportUp tr = true)
include hr ht

/-- A request on a transport that is up, of firmware that runs, is not lost. -/
theorem State.request_reaches : ¬ ((!s.ink.firmwareRuns) = true ∨ (!s.transportUp tr) = true) := by
  rw [hr, ht]
  decide

theorem execPldmPlatformRequest_of_up (xs : List Nat) :
    execPldmPlatformRequest tr xs s = .next (s.serveRequests.reply tr (xs.map (fun k => s.sensorNum k))).takeFree := by
  rw [execPldmPlatformRequest, if_neg (State.request_reaches hr ht)]

theorem execSpdmRequest_of_up (kind : Nat) (nonce : List Nat) : execSpdmRequest tr kind nonce s =
    .next (s.serveRequests.reply tr (Config.mctpReply kind (nonce ++ (if kind = 2 then s.measured else [])))) := by
  rw [execSpdmRequest, if_neg (State.request_reaches hr ht)]

theorem execPldmFirmwareUpdate_of_up (hw : s.romWaits = false) (img : List Byte) (ok : Bool) : execPldmFirmwareUpdate tr img ok s =
    .next (if s.requestsWait then { s with ink := { s.ink with pldmWaiting := s.ink.pldmWaiting ++ [(tr, img, ok)] } }
      else s.serveRequests.pldmImage tr img ok) := by
  rw [execPldmFirmwareUpdate, if_neg (by rw [ht]; exact nofun), if_neg (by rw [hw]; exact nofun), if_neg (by rw [hr]; exact nofun)]
  split <;> rfl
end

theorem State.reply_of_free (hw : s.requestsWait = false) (tr : Nat) (r : List Nat) :
    s.reply tr r = { s with out := s.out ++ [.mctp tr r] } := by
  rw [State.reply, if_neg (by rw [hw]; exact nofun)]
  rfl

theorem State.reply_of_held (hw : s.requestsWait = true) (tr : Nat) (r : List Nat) :
    s.reply tr r = { s with ink := { s.ink with replies := s.ink.replies ++ [(tr, r)] } } := by
  rw [State.reply, if_pos hw]
end

/-- Settles O58: the Innkeeper's commands, each where it is due; a request is answered, after what waited, or joins what waits. -/
theorem innkeeperCommandsRun : Obligations.InnkeeperCommandsRun := by
  unfold Obligations.InnkeeperCommandsRun
  intro s
  refine ⟨?_, ?_, ?_, ?_, ?_, ?_, fun p => rfl, ?_, ?_, ?_⟩
  · intro hr hp
    rw [exec_innkeeperFailover, execInnkeeperFailover_of_last hr hp]
  · intro hr hp u
    rw [exec_innkeeperFailover, execInnkeeperFailover_of_standby hr hp]
  · intro hf u₁ u₂ u₃ u
    have hu : u = s.failedOver := rfl
    rw [exec_failoverComplete, execFailoverComplete_of_failover hf, hu]
    refine ⟨fun hd => ?_, fun hd => ?_⟩
    · rw [State.serveRequests_held _ (State.requestsWait_of_failover (Or.inr hd))]
    · rw [State.serveRequests_of_free (State.requestsWait_of_free State.failedOver_failoverAt hd)]
  · intro hr hf
    refine ⟨fun ht => ?_, fun hw ht => ?_⟩
    · rw [exec_innkeeperCheckpoint, execInnkeeperCheckpoint_of_due hr hf ht]
    · rw [exec_telemetrySnapshot, execTelemetrySnapshot_of_due hr hf hw ht]
  · intro hr hh hl
    rw [exec_supervisorHold, execSupervisorHold_of_late hr hh hl]
  · intro hh ht
    rw [exec_supervisorRelease, execSupervisorRelease, if_pos ⟨hh, ht⟩]
  · intro hb hs hr hd
    rw [exec_antiRollbackFuse, execAntiRollbackFuse_of_lower hb hs hr hd]
  · intro e r hw hd hr
    rw [exec_repairLogWrite, execRepairLogWrite_of_waiting hw hd hr]
  · intro hr tr ht
    refine ⟨fun hf hd hn hi => ?_, fun hh => ?_⟩
    · have hw := State.requestsWait_of_free hf hd
      have hserve := State.serveRequests_none s hn hi
      refine ⟨fun xs => ?_, fun img ok hrom => ?_, fun kind nonce => ?_⟩
      · rw [exec_pldmPlatformRequest, execPldmPlatformRequest_of_up hr ht, hserve, State.reply_of_free hw]
      · rw [exec_pldmFirmwareUpdate, execPldmFirmwareUpdate_of_up hr ht hrom, hserve, if_neg (by rw [hw]; exact nofun)]
      · rw [exec_spdmRequest, execSpdmRequest_of_up hr ht, hserve, State.reply_of_free hw]
    · have hw := State.requestsWait_of_failover hh
      have hserve := State.serveRequests_held s hw
      refine ⟨fun xs => ?_, fun img ok hrom => ?_, fun kind nonce => ?_⟩
      · rw [exec_pldmPlatformRequest, execPldmPlatformRequest_of_up hr ht, hserve, State.reply_of_held hw]
      · rw [exec_pldmFirmwareUpdate, execPldmFirmwareUpdate_of_up hr ht hrom, if_pos hw]
      · rw [exec_spdmRequest, execSpdmRequest_of_up hr ht, hserve, State.reply_of_held hw]

/-! ### Traces, samples and the host's completions (O59) -/

theorem exec_traceHeaderUpdate (lod k : Nat) (s : State) : exec (.traceHeaderUpdate lod k) s = execTraceHeaderUpdate lod k s := rfl
theorem exec_traceDropRecord (lod k : Nat) (room : Bool) (s : State) :
    exec (.traceDropRecord lod k room) s = execTraceDropRecord lod k room s := rfl
theorem exec_pmcSample (i : Nat) (s : State) : exec (.pmcSample i) s = execPmcSample i s := rfl
theorem exec_hostReadCompletion (id : Nat) (ans : HostAns) (bytes : List Byte) (s : State) :
    exec (.hostReadCompletion id ans bytes) s = execHostReadCompletion id ans bytes s := rfl
theorem exec_completionTimeout (id : Nat) (s : State) : exec (.completionTimeout id) s = execCompletionTimeout id s := rfl
theorem exec_hostAtomicCompletion (id : Nat) (ans : HostAns) (old : Nat) (s : State) :
    exec (.hostAtomicCompletion id ans old) s = execHostAtomicCompletion id ans old s := rfl

/-- The host's answer to a load: what `logHost` enters, and then what arrives. -/
def State.hostAnswersLoad (s : State) (t : Txn) (n : Nat) (ans : HostAns) (bytes : List Byte) : State :=
  let s := s.logHost t.lod ans
  match ans with
  | .unsupported => s.haltAccess t 0x0301 0xFFFE
  | .data =>
    let s := s.addBytes (0x408 / 8) n
    ({ s with mem := s.mem.put t.addr (slice bytes 0 n) } : State).loadArrives t (slice bytes 0 n) false
  | .ep => (s.addBytes (0x408 / 8) n).loadArrives t (slice bytes 0 n) true
  | _ => s.loadArrives t (s.mem.read t.addr n) true

section
variable {s : State} {lod k : Nat} {c : Contract} (hc : s.traceRegion lod = some c)
include hc

theorem execTraceHeaderUpdate_of_region :
    let w := (s.lod lod).writer k
    execTraceHeaderUpdate lod k s = .next ((s.writeRange lod (c.traceBase + k * c.quarterBytes) (leBytes 8 w.written ++ leBytes 8 w.dropped)
      false (0, 0)).modLod lod (fun x => { x with trace := x.trace.set k { w with shown := w.written } })) := by
  simp only [execTraceHeaderUpdate, hc]

theorem execTraceDropRecord_of_room : execTraceDropRecord lod k true s =
    .next ((if ((s.lod lod).writer k).sinceDrop ≠ 0 then
        s.putTrace lod k (traceBytes s.now 5 k 0 0 0 0 0 0 ((s.lod lod).writer k).sinceDrop) else s).modLod lod (fun x => { x with
      trace := x.trace.mod k TraceWriter.reset (fun (y : TraceWriter) => { y with full := false, sinceDrop := 0 }) })) := by
  simp only [execTraceDropRecord, hc, Bool.true_and, decide_eq_true_eq, Bool.not_true, if_true]

theorem execTraceDropRecord_of_no_room : execTraceDropRecord lod k false s =
    .next (s.modLod lod (fun x => { x with
      trace := x.trace.mod k TraceWriter.reset (fun (y : TraceWriter) => { y with full := true }) })) := by
  simp only [execTraceDropRecord, hc, Bool.false_and, Bool.false_eq_true, Bool.not_false, if_false]
end

section
variable {s : State} {i : Nat} (hp : s.dbg.pmcPeriod ≠ 0) (ht : s.now % (1000 * s.dbg.pmcPeriod) = 0)
  (he : (s.dbg.pmcCfg.get i PmcCfg.reset).en = true) (hl : (s.dbg.pmcCfg.get i PmcCfg.reset).lodgingEn = true)
  (hn : s.dbg.pmcSampled.any (fun e => e.1 == i && e.2 == s.now) = false)
include hp ht he hl hn

theorem execPmcSample_of_due :
    let c := s.dbg.pmcCfg.get i PmcCfg.reset
    let u : State := { s with dbg := { s.dbg with pmcSampled := s.dbg.pmcSampled.set i s.now } }
    execPmcSample i s = match u.traceRegion c.lodging with
      | none => .next u
      | some _ => .next (u.trace c.lodging (i / 512) (u.sampleRecord i)) := by
  have hdue : ¬ (1000 * s.dbg.pmcPeriod = 0 ∨ s.now % (1000 * s.dbg.pmcPeriod) ≠ 0 ∨ (!(s.dbg.pmcCfg.get i PmcCfg.reset).en) = true ∨
      (!(s.dbg.pmcCfg.get i PmcCfg.reset).lodgingEn) = true ∨ s.dbg.pmcSampled.any (fun e => e.1 == i && e.2 == s.now) = true) := by
    rw [ht, he, hl, hn]
    simp [hp]
  rw [execPmcSample]
  exact if_neg hdue
end

section
variable {s : State} {id n : Nat} {t : Txn} (ht : s.txn? id = some t) (hl : t.hostLoad = some n)
include ht hl

theorem execHostReadCompletion_of_load (ans : HostAns) (bytes : List Byte) :
    execHostReadCompletion id ans bytes s = .next (s.hostAnswersLoad t n ans bytes) := by
  simp only [execHostReadCompletion, ht, hl]
  cases ans with
  | data => rfl
  | ep => rfl
  | unsupported => rfl
  | abort => rfl
  | timeout => rfl

theorem execCompletionTimeout_of_load (bytes : List Byte) :
    execCompletionTimeout id s = .next (s.hostAnswersLoad t n .timeout bytes) := by
  simp only [execCompletionTimeout, ht, hl]
  rfl
end

/-- A load of core code whose line lies in host memory. -/
theorem Txn.hostLoad_of_load {t : Txn} {blk grp thr dst n : Nat} (hk : t.kind = .load blk grp thr dst n) (hp : placeOf t.addr = .host) :
    t.hostLoad = some n := by
  simp only [Txn.hostLoad, hk, hp]
  rfl

section
variable {s : State} {id old blk grp thr : Nat} {t : Txn} {a : AtomTxn} (ht : s.txn? id = some t) (hk : t.kind = .hostAtomic blk grp thr a)
include ht hk

theorem execHostAtomicCompletion_of_data : execHostAtomicCompletion id .data old s =
    .next ((s.hostPerformed t.addr (old % 2 ^ (8 * a.size)) a).atomicArrives t (old % 2 ^ (8 * a.size)) false) := by
  have ha : t.hostAtomic = some a := by simp only [Txn.hostAtomic, hk]
  simp only [execHostAtomicCompletion, ht, ha]
  rfl

theorem execHostAtomicCompletion_of_unsupported : execHostAtomicCompletion id .unsupported old s =
    .next ((s.logHost t.lod .unsupported).hostRefused t) := by
  have ha : t.hostAtomic = some a := by simp only [Txn.hostAtomic, hk]
  simp only [execHostAtomicCompletion, ht, ha]
end

/-- The host's refusal of an atomic of core code halts its group. -/
theorem State.hostRefused_of_core {s : State} {t : Txn} {blk grp thr : Nat} {a : AtomTxn} (hk : t.kind = .hostAtomic blk grp thr a) :
    s.hostRefused t = s.haltAccess t 0x0301 0xFFFE := by
  simp only [State.hostRefused, State.faultNoted, hk]
  rfl

/-- Settles O59: the trace writers, the samples, and the answers of the host to loads and atomics. -/
theorem traceSamplesAndHostCompletions : Obligations.TraceSamplesAndHostCompletions := by
  unfold Obligations.TraceSamplesAndHostCompletions
  intro s
  refine ⟨?_, ?_, ?_, ?_⟩
  · intro lod k c hc w u
    refine ⟨?_, ?_⟩
    · rw [exec_traceHeaderUpdate, execTraceHeaderUpdate_of_region hc]
    · intro n v set
      refine ⟨fun h => ?_, fun h => ?_, ?_⟩
      · rw [exec_traceDropRecord, execTraceDropRecord_of_room hc, if_pos h]
      · rw [exec_traceDropRecord, execTraceDropRecord_of_room hc, if_neg (not_not_intro h)]
      · rw [exec_traceDropRecord, execTraceDropRecord_of_no_room hc]
  · intro i c u hp ht he hl hn
    rw [exec_pmcSample, execPmcSample_of_due hp ht he hl hn]
    refine ⟨fun hr => ?_, fun r hr => ?_⟩
    · simp only [u, c] at hr
      simp only [hr, u]
    · simp only [u, c] at hr
      simp only [hr, u, c]
  · intro id t blk grp thr dst n bytes ht hk hp log u
    have hl := Txn.hostLoad_of_load hk hp
    refine ⟨?_, ?_, ?_, ?_, ?_⟩
    · rw [exec_hostReadCompletion, execHostReadCompletion_of_load ht hl]; rfl
    · rw [exec_hostReadCompletion, execHostReadCompletion_of_load ht hl]; rfl
    · rw [exec_hostReadCompletion, execHostReadCompletion_of_load ht hl]; rfl
    · rw [exec_hostReadCompletion, execHostReadCompletion_of_load ht hl]; rfl
    · rw [exec_completionTimeout, execCompletionTimeout_of_load ht hl bytes]; rfl
  · intro id t blk grp thr a old ht hk hb
    refine ⟨?_, ?_⟩
    · rw [exec_hostAtomicCompletion, execHostAtomicCompletion_of_data ht hk]
      rw [State.hostPerformed, if_neg (by rw [hb]; exact nofun)]
    · rw [exec_hostAtomicCompletion, execHostAtomicCompletion_of_unsupported ht hk, State.hostRefused_of_core hk]
      rfl

/-! ### The board (O60) -/

theorem exec_startupStep (v0 v1 : Bool) (s : State) : exec (.startupStep v0 v1) s = execStartupStep v0 v1 s := rfl
theorem exec_startFail (rail : Nat) (s : State) : exec (.startFail rail) s = execStartFail rail s := rfl
theorem exec_railFault (rail : Nat) (s : State) : exec (.railFault rail) s = execRailFault rail s := rfl
theorem exec_perstAssert (s : State) : exec .perstAssert s = execPerstAssert s := rfl
theorem exec_refclkLoss (s : State) : exec .refclkLoss s = execRefclkLoss s := rfl
theorem exec_pcieLinkUp (rate width : Nat) (s : State) : exec (.pcieLinkUp rate width) s = execPcieLinkUp rate width s := rfl
theorem exec_configReady (s : State) : exec .configReady s = execConfigReady s := rfl
theorem exec_lampPeriod (j ua : Nat) (s : State) : exec (.lampPeriod j ua) s = execLampPeriod j ua s := rfl
theorem exec_lampOpen (j : Nat) (s : State) : exec (.lampOpen j) s = execLampOpen j s := rfl
theorem exec_lampShort (j ma : Nat) (s : State) : exec (.lampShort j ma) s = execLampShort j ma s := rfl

section
variable {s : State} {v0 v1 : Bool}

theorem execStartupStep_of_starting (hs : s.brd.starting = true) (hr : s.brd.sysRstLow = false) (hd : s.brd.dead = false) (v0 v1 : Bool) :
    execStartupStep v0 v1 s = .next (s.nextStep v0 v1) := by
  rw [execStartupStep, if_neg (by simp [hs, hr, hd])]

theorem State.nextStep_of_counted (h : s.brd.startStep = 0 ∨ s.brd.startStep = 4) :
    s.nextStep v0 v1 = { s with brd := { s.brd with startStep := s.brd.startStep + 1 } } := by
  rcases h with h | h <;> simp only [State.nextStep, h]

theorem State.nextStep_of_firmware (h : s.brd.startStep = 1) : s.nextStep v0 v1 = s.bootFirmware v0 v1 := by
  simp only [State.nextStep, h]

theorem State.bootFirmware_of_slot {i : Nat} (h : s.bootChoice v0 v1 = some i) : s.bootFirmware v0 v1 = { s with
    brd := { s.brd with startStep := 2, pkgEn := true },
    ink := { s.ink with
      firmwareRuns := true, bootSlot := i, bootSvn := field ((s.ink.slots.getD i Slot.reset).image) 4 4 % 2 ^ 7,
      roundDue := (s.now + 1000000) % 2 ^ 48, checkpointAt := s.now, snapshotAt := s.now } } := by
  simp only [State.bootFirmware, h]

theorem State.bootFirmware_of_none (h : s.bootChoice v0 v1 = none) :
    s.bootFirmware v0 v1 = { s with brd := { s.brd with starting := false } } := by
  simp only [State.bootFirmware, h]

theorem State.nextStep_of_wakes (h : s.brd.startStep = 2) : s.nextStep v0 v1 = { s with
    pwr := { s.pwr with wakeQueue := (List.range 49).foldl insertNew s.pwr.wakeQueue }, brd := { s.brd with startStep := 3 } } := by
  simp only [State.nextStep, h]

theorem State.nextStep_of_soft_start (h : s.brd.startStep = 3) (hs : s.softStarted = true) :
    s.nextStep v0 v1 = { s with brd := { s.brd with hbmEn := true, startStep := 4 } } := by
  simp only [State.nextStep, h, hs, if_true]

theorem State.nextStep_of_repairs (h : s.brd.startStep = 5) :
    let u := s.ink.repairLog.foldl (fun (v : State) (e : Nat × Nat) => v.applyRepair e) s
    s.nextStep v0 v1 = { u with brd := { u.brd with startStep := 6 } } := by
  simp only [State.nextStep, h]

theorem State.nextStep_of_bitmap (h : s.brd.startStep = 6) :
    s.nextStep v0 v1 = { s with hbm := { s.hbm with valid := [] }, brd := { s.brd with startStep := 7 } } := by
  simp only [State.nextStep, h]

theorem State.nextStep_of_end (h : s.brd.startStep = 7) :
    s.nextStep v0 v1 = { s with brd := { s.brd with starting := false, startStep := 8 } } := by
  simp only [State.nextStep, h]

theorem execStartFail_of_rail {rail : Nat} (hs : s.brd.starting = true)
    (hr : (rail = 1 ∧ s.brd.startStep = 2) ∨ ((rail = 2 ∨ rail = 3) ∧ s.brd.startStep = 4)) :
    let u := s.allOff
    execStartFail rail s = .next { u with brd := { u.brd with
      starting := false, pkgEn := false, hbmEn := false, startFail := true, faultRail := rail } } := by
  rw [execStartFail, if_pos ⟨hs, hr⟩]

theorem execRailFault_of_rail {rail : Nat} (hd : s.brd.dead = false)
    (hr : (rail = 1 ∧ 3 ≤ s.brd.startStep) ∨ ((rail = 2 ∨ rail = 3) ∧ 5 ≤ s.brd.startStep)) :
    let u := s.allOff
    execRailFault rail s = .next { u with brd := { u.brd with
      starting := false, pkgEn := false, hbmEn := false, railFault := true, faultRail := rail } } := by
  rw [execRailFault, if_pos ⟨by rw [hd]; rfl, hr⟩]

theorem execPcieLinkUp_of_free {rate width : Nat} (hd : (s.domain 48).state = .on) (hp : s.brd.perst = false)
    (hc : s.brd.refclkPerst = false) (hb : s.brd.dead = false) (hr : rate ∈ [64, 32, 16]) (hw : width ∈ [16, 8, 4]) :
    execPcieLinkUp rate width s = .next { s with brd := { s.brd with linkUp := true, linkRate := rate, linkWidth := width } } := by
  rw [execPcieLinkUp, if_pos ⟨hd, by rw [hp]; rfl, by rw [hc]; rfl, by rw [hb]; rfl, List.contains_iff_mem.mpr hr,
    List.contains_iff_mem.mpr hw⟩]

theorem execConfigReady_of_link (h8 : s.brd.startStep = 8) (hl : s.brd.linkUp = true) (hr : s.brd.ready = false) (hd : s.brd.dead = false) :
    let u := if s.pwr.frac = 0 then s.firstReady else s
    execConfigReady s = .next { u with msix := [], brd := { u.brd with ready := true } } := by
  have hready : s.brd.startStep = 8 ∧ s.brd.linkUp = true ∧ (!s.brd.ready) = true ∧ (!s.brd.dead) = true :=
    ⟨h8, hl, by rw [hr]; rfl, by rw [hd]; rfl⟩
  rw [execConfigReady]
  exact if_pos hready
end

/-- Settles O60: the start-up steps by their number, then rails, resets, clocks, links and lamps. -/
theorem boardCommandsRun : Obligations.BoardCommandsRun := by
  unfold Obligations.BoardCommandsRun
  intro s b
  refine ⟨rfl, rfl, ?_, ?_, ?_, ?_, rfl, ?_, rfl, rfl, rfl, rfl, ?_, ?_, ?_⟩
  · intro hs hr hd
    have hstep : ∀ v0 v1, exec (.startupStep v0 v1) s = .next (s.nextStep v0 v1) := execStartupStep_of_starting hs hr hd
    refine ⟨fun v0 v1 h => ?_, fun v0 v1 i h hi => ?_, fun v0 v1 h hi => ?_, fun v0 v1 h => ?_, fun v0 v1 h hq => ?_, fun v0 v1 h => ?_,
      fun v0 v1 h => ?_, fun v0 v1 h => ?_⟩
    · rw [hstep, State.nextStep_of_counted h]
    · rw [hstep, State.nextStep_of_firmware h, State.bootFirmware_of_slot hi]
    · rw [hstep, State.nextStep_of_firmware h, State.bootFirmware_of_none hi]
    · rw [hstep, State.nextStep_of_wakes h]
    · rw [hstep, State.nextStep_of_soft_start h hq]
    · rw [hstep, State.nextStep_of_repairs h]
    · rw [hstep, State.nextStep_of_bitmap h]
    · rw [hstep, State.nextStep_of_end h]
  · intro rail hs hr u
    rw [exec_startFail, execStartFail_of_rail hs hr]
  · intro rail hd hr u
    rw [exec_railFault, execRailFault_of_rail hd hr]
  · intro hp u
    rw [exec_perstAssert, execPerstAssert, if_neg (by rw [show s.brd.perst = false from hp]; exact nofun)]
  · intro hc u
    rw [exec_refclkLoss, execRefclkLoss, if_neg (by rw [show s.brd.refclk = true from hc]; exact nofun)]
  · intro rate width hd hp hc hb hr hw
    rw [exec_pcieLinkUp, execPcieLinkUp_of_free hd hp hc hb hr hw]
  · intro h8 hl hr hd u
    rw [exec_configReady, execConfigReady_of_link h8 hl hr hd]
  · intro j set n
    refine ⟨fun ua h => ?_, fun ua h hua => ?_, fun ua h hua => ?_, fun hf ho => ?_, fun ma hm hc => ?_⟩
    · simp only [exec_lampPeriod, execLampPeriod, show s.lampOnTime j < 20 from h, if_true]
      rfl
    · simp only [exec_lampPeriod, execLampPeriod, show ¬ s.lampOnTime j < 20 from Nat.not_lt.mpr h, hua, if_true, if_false]
      rfl
    · simp only [exec_lampPeriod, execLampPeriod, show ¬ s.lampOnTime j < 20 from Nat.not_lt.mpr h, Nat.not_lt.mpr hua, if_false]
      rfl
    · rw [exec_lampOpen, execLampOpen, if_pos ⟨hf, by rw [ho]; rfl⟩]
    · rw [exec_lampShort, execLampShort, if_pos ⟨hm, hc⟩]

end Sys2Proof.Machine
